-- ==== Sys2Proof/Word.lean ====
section
/-! DEFINITION. The word types of the part, and sparse maps as sorted lists of key and value. -/

namespace Sys2Proof

/-- A byte. -/
abbrev Byte := BitVec 8
/-- The 16 code bits of a stored word: check bits [9:0], poison [10], zero [15:11] (R148). -/
abbrev W16 := BitVec 16
/-- A 32-bit word, also the bits of an FP32 value. -/
abbrev W32 := BitVec 32
/-- A 64-bit word: the width of every register (R5). -/
abbrev W64 := BitVec 64
/-- The data of one 32-byte word. -/
abbrev W256 := BitVec 256
/-- A SHA3-512 digest. -/
abbrev W512 := BitVec 512

/-- A sparse map: (key, value) pairs with keys strictly rising, an unlisted key reading as a default.
With bytes as values this is a list of `Host.Cell`. -/
abbrev NMap (α : Type) := List (Nat × α)

end Sys2Proof
end

