-- ==== Sys2Proof/Syntax.lean ====
section
/-! DEFINITION. The commands of the block: one constructor per row of spec/opcode_table.json, with what each carries. -/

namespace Sys2Proof

/-- Who makes a register access: a function of the host link (0 is the PF), MCTP, or the management core, whose
accesses act as PF accesses (R355, R376). -/
inductive Src where
  | fn (f : Fin 64)
  | mctp
  | core
  deriving DecidableEq, Repr, Inhabited

/-- Four 64-bit words: a Press descriptor (R118) or a churn command (R140). -/
structure Words4 where
  w0 : W64
  w1 : W64
  w2 : W64
  w3 : W64
  deriving DecidableEq, Repr, Inhabited

/-- A 32-byte word as it is delivered: data and poison mark. -/
structure DWord where
  data : W256
  poison : Bool
  deriving DecidableEq, Repr, Inhabited

/-! ### Burin code (section 0x06 of R82; its encoding is not in the manual, R125) -/

/-- Floating-point operations of two operands (R44, R75). -/
inductive FBin where
  | add | sub | mul | div | min | max
  deriving DecidableEq, Repr, Inhabited

/-- Operations of one operand (R44, R51 to R54, R67, R71). -/
inductive FUn where
  | sqrt | abs | neg | relu | exp2 | log2 | recip | rsqrt | exp | log | sigmoid | silu | gelu
  deriving DecidableEq, Repr, Inhabited

/-- Integer operations (R75). -/
inductive IBin where
  | add | sub | mul | divu | divs | remu | rems | and | or | xor | shl | shr | sar
  deriving DecidableEq, Repr, Inhabited

/-- Comparisons (R75); `lts` compares signed integers. -/
inductive Rel where
  | feq | fne | flt | fle | ieq | ltu | lts
  deriving DecidableEq, Repr, Inhabited

/-- One operation of a kernel. `d`, `a`, `b`, `c` number registers; a tensor operand `t` indexes the call's
descriptors. -/
inductive KOp where
  | fbin (op : FBin) (d a b : Nat)
  | fma (d a b c : Nat)
  | fun1 (op : FUn) (d a : Nat)
  | cvt (fmt : Nat) (d a : Nat)
  | uncvt (fmt : Nat) (d a : Nat)
  | ibin (op : IBin) (width : Nat) (d a b : Nat)
  | sbin (op : IBin) (width : Nat) (d a b : Nat)
  | sconst (d : Nat) (v : W64)
  | splat (d s : Nat)
  | lane (d a : Nat) (i : Nat)
  | perm (d a : Nat) (idx : List Nat)
  | pair (op : FBin) (d a : Nat)
  | cmp (r : Rel) (p a b : Nat)
  /-- a comparison of 64-bit integer lanes, for its relations on integers -/
  | cmp64 (r : Rel) (p a b : Nat)
  /-- an operation on lanes of a narrower floating-point format of R32 -/
  | nbin (op : FBin) (fmt d a b : Nat)
  | nfma (fmt d a b c : Nat)
  /-- operations on predicate registers, and their exchange with scalar ones -/
  | pbin (op : IBin) (d a b : Nat)
  | pnot (d a : Nat)
  | pget (d p : Nat)
  | pset (p s : Nat)
  | select (d p a b : Nat)
  | loadLocal (d s : Nat)
  | storeLocal (s a : Nat)
  | loadVat (t d col row : Nat)
  | storeVat (t a col row : Nat)
  | jump (target : Nat)
  | jumpIf (p target : Nat)
  | jumpNz (s target : Nat)
  | halt
  deriving DecidableEq, Repr, Inhabited

/-- Row-wise primitives that a library kernel applies (R67, R71 to R74). Operand numbers index the call's
descriptors; the last is the result. A reduction or contraction of a row gives one element; `contract` may add an initial
value. An integer operation takes elements of its width as they stand. `random` draws for the request of each row of the
step table (R57, R58): stream, number of the row's first draw, and the form, u1 or u0. -/
inductive RowOp where
  | unary (op : FUn)
  | binary (op : FBin)
  | fma
  | softmax
  | rmsnorm (eps : W32)
  | layernorm (eps : W32) (bias : Bool)
  | rotate
  | convert
  | reduceSum
  | reduceMax
  | reduceMin
  | contract (init : Bool)
  | integer (op : IBin) (width : Nat)
  | random (stream first : Nat) (u1 : Bool)
  deriving DecidableEq, Repr, Inhabited

/-- Moves of elements (R67): by row-major number, by a permutation of the dimensions, from a start in each dimension, or of
operands one after the other along a dimension. -/
inductive MoveOp where
  | reshape
  | transpose (perm : List Nat)
  | slice (starts : List Nat)
  | concat (dim : Nat)
  deriving DecidableEq, Repr, Inhabited

/-- Which query a kernel of attention works on (R159, R160, R190): the step table's tensor and row, the query's offset from
the row's position, and the score constant c. -/
structure QuerySpec where
  step : Nat
  row : Nat
  off : Nat
  c : W32
  deriving DecidableEq, Repr, Inhabited

/-- Where a combine finds its partials (R173): the tensors of the work list, of its marks and of the records of its visits,
the rounds of a class, the visits of an item and the one of this query head, and the tensor and row of the record of the
query's own page; the sharding of the page dimension. With `part` 1 the result is the maximum over the records here, with
`part` 2 the sums S and O here under the maximum in row 0 of tensor `max` (R163); 0 gives Y and L. -/
structure CombineSpec where
  list : Nat
  marks : Nat
  recs : Nat
  rounds : Nat
  visits : Nat
  visit : Nat
  own : Nat
  ownRow : Nat
  D : Nat
  sharding : Nat × Nat × Nat
  part : Nat
  max : Nat
  deriving DecidableEq, Repr, Inhabited

/-- What stands at a code offset: native operations, or a kernel of Ompor's library by what it computes. -/
inductive KBody where
  /-- native code -/
  | native (ops : List KOp)
  /-- a row-wise primitive over the tensors named, with the sharding of the rows: kind, count, cycle -/
  | rows (op : RowOp) (args : List Nat) (out : Nat) (sharding : Nat × Nat × Nat)
  /-- moves of elements -/
  | move (op : MoveOp) (args : List Nat) (out : Nat)
  /-- gather along dimension `dim` of tensor `src` by index tensor `idx` into `out` (R109) -/
  | gather (src idx out dim : Nat)
  /-- scatter along dimension `dim`: from `base`, by `idx`, slices of `upd` into `out` (R109) -/
  | scatter (base idx upd out dim : Nat)
  /-- 16 tokens of keys and values into page image `page` of a tensor of format 0xE, and back (R61, R62, R67, R161) -/
  | pack (k v out page : Nat)
  | unpack (src page k v : Nat)
  /-- the candidate of step row `row` from its row of tensor `logits` (R205, R207, R209, R210) -/
  | sample (row logits : Nat)
  /-- the partial of a query and a page, its own or the i-th present one, from row `qrow` of tensor `q` and keys and values
  of 16 tokens, into row `orow` of `out` (R162) -/
  | partialOf (x : QuerySpec) (q qrow : Nat) (page : Option Nat) (k v out orow : Nat)
  /-- the combine into row `orow` of `y` and of `l` (R163) -/
  | combine (x : QuerySpec) (d : CombineSpec) (y l orow : Nat)
  /-- the step's work list (R171): U rounds of each class into tensor `out`, the rows whose items were dropped marked in
  `marks` -/
  | workList (U out marks : Nat)
  deriving DecidableEq, Repr, Inhabited

/-! ### The plate (R82 to R87, R228 to R230, R248): contents of its sections, whose encodings the manual does not give -/

/-- A window of a plate (R229, R230, R248). -/
structure WinSpec where
  lq : Nat
  num : Nat
  desc : List W64
  portMask : Nat
  fingerprint : W64
  encOnly : Bool
  group : Option Nat
  feeds : List Nat
  deriving DecidableEq, Repr, Inhabited

/-- A group link of a plate: logical die, port number on it, neighbour and its fingerprint (R248). -/
structure LinkSpec where
  die : Nat
  port : Nat
  peer : Nat
  fingerprint : Option W64
  deriving DecidableEq, Repr, Inhabited

/-- A group of a plate (R248). -/
structure GroupSpec where
  g : Nat
  member : Nat
  members : Nat
  links : List LinkSpec
  /-- the route of SHIP_REQ and SHIP_GRANT cells past this member (R251): the cell's kind and origin, and the link by number
  on which it goes on; a cell that it does not name ends here -/
  routes : List (Nat × Nat × Nat) := []
  deriving DecidableEq, Repr, Inhabited

/-- A send entry (R228, R242, R243): logical die and port, source, destination, counter, group and use. -/
structure SendSpec where
  die : Nat
  port : Nat
  desc : List W64
  peer : Nat
  lq : Nat
  window : Nat
  offset : Nat
  counter : Nat
  group : Option Nat
  use : Nat
  deriving DecidableEq, Repr, Inhabited

/-- A break point: number, segment, frame offset, saved bytes per logical quarter (R87). -/
structure BreakSpec where
  num : Nat
  seg : Nat
  frame : Nat
  saveBytes : List Nat
  deriving DecidableEq, Repr, Inhabited

/-- A pool of a pool set: half by logical quarter, layer and KV head, region bases (R169). -/
structure PoolSpec where
  lq : Nat
  layer : Nat
  head : Nat
  kr0 : Nat
  vr0 : Nat
  /-- stack offset of tail slot 0 in the half (R174) -/
  tails : Nat
  deriving DecidableEq, Repr, Inhabited

/-- A serving plate's attributes (R170, R171, R190, R205). -/
structure ServingSpec where
  rowsMax : Nat
  maxPages : Nat
  chunk : Nat
  rounds : Nat
  /-- pool format code of R102: 14 skim-K, 2 BF16, 1 FP16 -/
  poolFmt : Nat
  /-- tail format code: 2 BF16, 1 FP16 -/
  tailFmt : Nat
  headDim : Nat
  pairs : Nat
  pools : List PoolSpec
  /-- the vocabulary dimension's sharding: kind, count, cycle -/
  vocab : Nat × Nat × Nat
  /-- logical Vat addresses (quarter at [29:26]) of the step table, the commit table, the page lists by slot, the count
  tables with their overflow words by slot, and the candidate area (R170, R190, R193, R196, R208) -/
  stepTable : Nat
  commitTable : Nat
  pageLists : Nat
  counts : Nat
  cands : Nat
  /-- logical stack addresses (quarter at [38:35]) of the tree's node records and of the pages' count words (R178, R186),
  and the areas for the windows of shipments that arrive, with their bytes (R254) -/
  nodes : Nat
  refs : Nat
  shipAreas : List (Nat × Nat)
  deriving DecidableEq, Repr, Inhabited

/-- An entry of the proof table: Vat slot, the descriptors of the shards whose elements this device owns, one for each virtual
shard and none where it owns no element, whether the proof is partial (R89, R90). -/
structure ProofSpec where
  addr : Nat
  shards : List (List W64)
  isPartial : Bool
  deriving DecidableEq, Repr, Inhabited

/-- Code placed in a core's code area (section 0x06). -/
structure CodeSpec where
  lq : Nat
  core : Nat
  offset : Nat
  body : KBody
  deriving DecidableEq, Repr, Inhabited

/-- A part of the code area that the plate replaces through the core's Vat port (R127): the offset and what stands there
then, the Vat offsets of the words that hold it, and the plate cycles of the slots that take them. -/
structure CodePatch where
  offset : Nat
  body : KBody
  words : List Nat
  takes : List Nat
  deriving DecidableEq, Repr, Inhabited

/-- Initial data (section 0x0B): logical quarter, Vat offset, words. -/
structure InitSpec where
  lq : Nat
  offset : Nat
  words : List W256
  deriving DecidableEq, Repr, Inhabited

/-- An entry of the Vat slot table (R97): the plate cycles `pc` to `pc + pcs - 1` of run frames `frame` to
`frame + frames - 1` of a segment give banks `bank` to `bank + banks - 1` of a logical quarter to a port. -/
structure SlotSpec where
  seg : Nat
  frame : Nat
  frames : Nat
  pc : Nat
  pcs : Nat
  lq : Nat
  bank : Nat
  banks : Nat
  port : Nat
  deriving DecidableEq, Repr, Inhabited

/-- The contents of a plate's sections. -/
structure PlateBody where
  arrangement : List (List Nat)
  regions : List (Nat × Nat)
  /-- the Vat slot table (R97) -/
  slots : List SlotSpec
  descs : List (List W64)
  press : List Words4
  windows : List WinSpec
  groups : List GroupSpec
  sends : List SendSpec
  breaks : List BreakSpec
  /-- for each segment: run frames to its next step_commit if one comes before any external wait (R343) -/
  commitFrames : List (Option Nat)
  proofs : List ProofSpec
  code : List CodeSpec
  init : List InitSpec
  serving : Option ServingSpec
  deriving DecidableEq, Repr, Inhabited

/-- A plate as LOAD fetches it: its bytes (R82), what its sections say, whose encodings the manual does not give (log 49), and
whether a host read failed. -/
structure PlateImage where
  bytes : List Byte
  body : PlateBody
  readError : Bool
  deriving DecidableEq, Repr, Inhabited

/-- What a wait_count observes: a window of the partition, or a send counter (R240). -/
inductive WaitOn where
  | window (lq num : Nat)
  | sendCounter (k : Nat)
  deriving DecidableEq, Repr, Inhabited

/-- A link error of a word in flight: its number in the command, whether it is uncorrectable, and whether it is met on the
Press link of a transfer to another die (R13). -/
structure LinkErr where
  word : Nat
  bad : Bool
  press : Bool := false
  deriving DecidableEq, Repr, Inhabited

/-- Plate DMA between a stack half and the Vat (R155): logical quarter, stack offset, Vat offset, words, the plate
cycles from the segment's start at which the Vat words move, the plate bank cycles of the stack accesses, one for each
word, those of the row-sum entries that a WRITE of check rows makes, one for each row, and the link errors it meets.
With `hop` the words go to the Vat of that logical quarter on another die, over the Press link (R11, R15, R97): a READ's
words land there at `takes`, and a WRITE's, taken from the Vat, land there at `off`. A skim-W READ names
the curd budget of its region (R59). -/
structure DmaSpec where
  lq : Nat
  off : Nat
  vat : Nat
  words : Nat
  takes : List Nat
  bcs : List Nat
  sumBcs : List Nat := []
  hop : Option Nat := none
  errs : List LinkErr := []
  skim : Option Nat
  deriving DecidableEq, Repr, Inhabited

/-- One word of a FILL_OPEN (R155): source word from the base, destination stack offset, and the plate bank cycles of
its read and its write; a word of a skim-W source is read with its curd, and the first cycle counts for nothing. -/
structure FillMove where
  src : Nat
  dst : Nat
  rd : Nat
  wr : Nat
  deriving DecidableEq, Repr, Inhabited

/-- The cycles of a FILL_OPEN beside those of its moves, with its curd budget and link errors. -/
structure FillCycles where
  sumBcs : List Nat
  skim : Option Nat := none
  coded : List Nat := []
  errs : List LinkErr := []
  deriving DecidableEq, Repr, Inhabited

/-- A FILL_OPEN: stack offset of the source, moves of words, the plate bank cycles of the row-sum entries of the rows
written in the order of their first words, and for a skim-W source its curd budget, the plate bank cycles of the coded
words of its curds in the order of their first words, and the link errors these meet on their way to the decoder. -/
structure FillSpec extends FillCycles where
  base : Nat
  moves : List FillMove
  deriving DecidableEq, Repr, Inhabited

/-- The plate cycles of the slots by which words move, and the link errors these meet (R13, R97). -/
structure Transit where
  takes : List Nat
  errs : List LinkErr := []
  deriving DecidableEq, Repr, Inhabited

/-- The words that an RSCHECK marks: Vat offset and number. -/
structure CheckResult where
  off : Nat
  words : Nat
  deriving DecidableEq, Repr, Inhabited

/-- The cycles of an RSCHECK (R150, R155): of the slots that take the SUM_OUT words, of the reads of table words, and of
the slots that mark the result. -/
structure CheckCycles where
  sums : List Nat
  table : List Nat
  result : List Nat
  deriving DecidableEq, Repr, Inhabited

/-- What FEED sends (R155, R171): words by Vat offset, none for a zero word; or the query words of the row that a work-list
entry at a Vat offset names, of head h of a tensor [D, heads, rows], zero words for an empty round. -/
inductive FeedWords where
  | words (l : List (Option Nat))
  | query (entry desc head : Nat)
  deriving DecidableEq, Repr, Inhabited

/-- The token record that one row appends, per pool: words of key channels then value channels in the tail format
(R174, R175). -/
structure AppendRow where
  slot : Nat
  kv : List (List DWord)
  deriving DecidableEq, Repr, Inhabited

/-- The token records of a step, and the plate bank cycles of the stack words that appending them writes, in order
(R175). -/
structure AppendSpec where
  rows : List AppendRow
  bcs : List Nat
  deriving DecidableEq, Repr, Inhabited

/-- When a kernel call runs: the plate cycle of its start from the segment's, and the pcs of its reservation (R127). -/
structure CallTime where
  start : Nat
  pcs : Nat
  deriving DecidableEq, Repr, Inhabited

/-! ### Links (R218 to R222, R250) -/

/-- A cell: header fields and two payload words with their code bits (R219). -/
structure LCell where
  typ : Nat
  mask : Nat
  window : Nat
  seq : Nat
  offset : Nat
  aux : Nat
  hcrc : Nat
  w0 : W256
  w1 : W256
  c0 : W16
  c1 : W16
  deriving DecidableEq, Repr, Inhabited

/-- A codeword's tag: kind and value (R218). -/
structure LTag where
  kind : Nat
  value : Nat
  deriving DecidableEq, Repr, Inhabited

/-- A codeword after RS decoding: uncorrectable, or cells and tag with corrected symbols by wavelength; whether an
encrypted codeword's GCM tag verified. -/
structure Codeword where
  bad : Bool
  corrected : List (Nat × Nat)
  cells : List LCell
  tag : LTag
  gcmOk : Bool
  deriving DecidableEq, Repr, Inhabited

/-- The far side's handshake and the verdicts of the named algorithms on it (R225 to R227). -/
structure Handshake where
  pubkey : List Byte
  nonce : W256
  chainOk : Bool
  endorsed : Bool
  sigOk : Bool
  encrypt : Bool
  encapOk : Bool
  deriving DecidableEq, Repr, Inhabited

/-! ### Host memory as the part reads it -/

/-- What MGMT cells of a port say, once they say all of it (R301, R302): that more is to come; traffic for another device; a read or
a write of a register of this part, and the answer to one, none where it was refused; an entry taken from a ring of this part with
its prompt; a record of remote device k for its completion ring, or the status of one of its transfers, with its host address. -/
inductive MgmtMsg where
  | more
  | other
  | read (off : Nat)
  | write (off : Nat) (v : W64)
  | answer (v : Option W64)
  | entry (fn : Fin 64) (ring : Fin 4) (bytes : List Byte) (prompt : List Nat)
  | record (k : Nat) (addr : Nat) (bytes : List Byte)
  | status (addr : Nat) (bytes : List Byte)
  deriving DecidableEq, Repr, Inhabited

/-- What the firmware reads at a ring head: function, ring, the 192 bytes of the slot (R291); for a remote device whose rings this
part reads, its number, else 0 (R301). -/
structure RingRead where
  fn : Fin 64
  ring : Fin 4
  bytes : List Byte
  /-- the prompt's token ids, fetched by host DMA for a SUBMIT -/
  prompt : List Nat
  dev : Nat := 0
  deriving DecidableEq, Repr, Inhabited

/-- How a host-side read of a transfer went: bytes, each 32-byte word's completion poison, or a failure (R297). -/
structure HostData where
  bytes : List Byte
  poisoned : List Nat
  /-- a read failed with UR, CA or timeout after this many words -/
  failAfter : Option Nat
  /-- words that a hub link, after 8 failed tries, delivered poisoned (R303) -/
  hub : List Nat := []
  deriving DecidableEq, Repr, Inhabited

/-- A host TLP to a memory BAR: offset, write data and byte enables, or a read length (R288). -/
inductive Tlp where
  | write (addr : Nat) (data : List (Byte × Bool)) (poisoned : Bool)
  | read (addr len : Nat)
  deriving DecidableEq, Repr, Inhabited

/-- A copy of the Bolold image: the fields of its header and the bytes of its body (R353), the verdicts of the two
signature checks (log 21), and whether the slot was left half written (R363). -/
structure ImageCopy where
  magic : W64
  headerVersion : Nat
  target : Nat
  svn : Nat
  sequence : Nat
  bodyLength : Nat
  flags : Nat
  bodyDigest : W512
  vendorKey : List Byte
  vendorSigOk : Bool
  ownerKey : List Byte
  ownerSigOk : Bool
  body : List Byte
  torn : Bool := false
  deriving DecidableEq, Repr, Inhabited

/-- The verdict of a BIST, in the bits of INT_BIST_q (R322, R327). -/
structure BistResult where
  press : Nat
  burin : Nat
  vat : Bool
  churn : Bool
  dma : Bool
  checker : Bool
  sparePress : Bool
  spareBurin : Nat
  deriving DecidableEq, Repr, Inhabited

/-- What a boot finds: links that failed training, checkers that failed self-test, fuse and certificate faults, and a zone
read at or above its shutdown threshold while it runs, with its temperature in 1/16 °C (R12, R309, R362, R371). -/
structure BootFindings where
  badPressLinks : List Nat
  badStackLinks : List Nat
  /-- failing data lanes among those in use: stack link, group, lane (R156) -/
  badLanes : List (Nat × Nat × Nat)
  badUnits : List Nat
  badVatQuarters : List Nat
  badHalves : List Nat
  badE2eDies : List Nat
  hubBad : Bool
  fuseBad : Option Nat
  identityBad : Bool
  hot : Option (Nat × Int)
  deriving DecidableEq, Repr, Inhabited

/-- A TLP that reaches BAR2 or BAR4: its traffic class, and the words that a hub link, after 8 failed tries, delivered
poisoned (R13, R279, R303). -/
structure HostAccess where
  tc : Fin 4
  tlp : Tlp
  hub : List Nat
  deriving DecidableEq, Repr, Inhabited

/-- A wavelength that fails, and whether the far end reports it (R217). -/
structure LambdaFault where
  lam : Fin 17
  reported : Bool
  deriving DecidableEq, Repr, Inhabited

/-- Domain and sequence id of an IEEE 1588 message (R236). -/
structure TimeHead where
  domain : Nat
  seq : Nat
  deriving DecidableEq, Repr, Inhabited

/-- The quality that an Announce gives of the grandmaster: class, accuracy, variance, priority2 (R236). -/
structure MasterQuality where
  cls : Nat
  accuracy : Nat
  variance : Nat
  priority2 : Nat
  deriving DecidableEq, Repr, Inhabited

/-- Which the grandmaster is, and the steps to it (R236). -/
structure MasterPlace where
  identity : W64
  steps : Nat
  deriving DecidableEq, Repr, Inhabited

/-- What the training of a die's links finds: whether they passed, and the lanes that failed as stack, group and lane
(R12, R156). -/
structure Training where
  passed : Bool
  lanes : List (Nat × Nat × Nat)
  deriving DecidableEq, Repr, Inhabited

/-- The commands. Each is the row of spec/opcode_table.json named in its docstring. -/
inductive Instr where
  /-- REGISTER_WRITE: size 8 or 4 -/
  | registerWrite (src : Src) (off : Nat) (size : Nat) (val : W64)
  /-- UNSUPPORTED_ACCESS -/
  | unsupportedAccess (src : Src) (off size : Nat) (write : Bool)
  /-- FRAME_START -/
  | frameStart
  /-- WAIT_RELEASE -/
  | waitRelease (p : Fin 16)
  /-- PEER_TIMEOUT -/
  | peerTimeout (p : Fin 16)
  /-- WAIT_COUNT -/
  | waitCount (p : Fin 16) (on : WaitOn) (cells : Bool) (target limit : Nat)
  /-- WAIT_TIME -/
  | waitTime (p : Fin 16) (t : Nat)
  /-- WAIT_RING -/
  | waitRing (p : Fin 16)
  /-- POST_NOTICE -/
  | postNotice (p : Fin 16) (kind : Byte) (value : W64)
  /-- NOTICE_POST_RESUME -/
  | noticePostResume (p : Fin 16)
  /-- STEP_COMMIT -/
  | stepCommit (p : Fin 16)
  /-- BREAK_POINT: the number of the break point reached -/
  | breakPoint (p : Fin 16) (num : Nat)
  /-- STAT_LOAD: descriptor and the cycles of its port slots -/
  | statLoad (p : Fin 16) (d : Words4) (takes : List Nat)
  /-- STREAM_LOAD -/
  | streamLoad (p : Fin 16) (d : Words4) (takes : List Nat)
  /-- PASS -/
  | pass (p : Fin 16) (d : Words4)
  /-- DRAIN -/
  | drain (p : Fin 16) (d : Words4) (takes : List Nat)
  /-- FILL -/
  | fill (p : Fin 16) (d : Words4) (takes : List Nat)
  /-- KERNEL_CALL: logical quarter, core, code offset, descriptors, start and reservation, code replaced before the call with the plate cycles of the port slots that bring it, and the plate cycles
  of the slots that its Vat loads may take, in order -/
  | kernelCall (p : Fin 16) (lq : Fin 16) (core : Fin 8) (offset : Nat) (descs : List Nat) (time : CallTime)
      (patch : List CodePatch) (slots : List Nat)
  /-- BURIN_OVERRUN: logical quarter, core, pc -/
  | burinOverrun (p : Fin 16) (lq : Fin 16) (core : Fin 8) (pc : Fin 64)
  /-- BURIN_STORE_DRAIN: logical quarter, core, plate cycle of the slot from the segment's start -/
  | burinStoreDrain (p : Fin 16) (lq : Fin 16) (core : Fin 8) (cycle : Nat)
  /-- XLOAD -/
  | xload (p : Fin 16) (d : Words4)
  /-- DOT -/
  | dot (p : Fin 16) (d : Words4)
  /-- ACC_OUT -/
  | accOut (p : Fin 16) (d : Words4)
  /-- SUM_OUT -/
  | sumOut (p : Fin 16) (d : Words4)
  /-- SCORE -/
  | score (p : Fin 16) (d : Words4)
  /-- PMAX -/
  | pmax (p : Fin 16) (d : Words4)
  /-- PEXP -/
  | pexp (p : Fin 16) (d : Words4)
  /-- PSUM -/
  | psum (p : Fin 16) (d : Words4)
  /-- WACC -/
  | wacc (p : Fin 16) (d : Words4)
  /-- READ -/
  | read (p : Fin 16) (d : DmaSpec)
  /-- WRITE -/
  | write (p : Fin 16) (d : DmaSpec)
  /-- FILL_OPEN: stack offset of the source, moves, the other cycles -/
  | fillOpen (p : Fin 16) (lq : Fin 16) (base : Nat) (moves : List FillMove) (x : FillCycles)
  /-- FEED: what it sends, the plate cycles at which the words leave, and link errors -/
  | feed (p : Fin 16) (lq : Fin 16) (words : FeedWords) (x : Transit)
  /-- QUEUE: pool, the plate cycle of the slot that takes the work-list entry, and the entry's Vat offset -/
  | queue (p : Fin 16) (pool take entry : Nat)
  /-- COLLECT: words and Vat offset, plate cycles of the slots that put them there, and link errors -/
  | collect (p : Fin 16) (lq : Fin 16) (words : Nat) (vat : Nat) (x : Transit)
  /-- RSCHECK: Vat offset and number of the SUM_OUT words, Vat offset and words of the result, cycles -/
  | rscheck (p : Fin 16) (lq : Fin 16) (sums nSums : Nat) (result : CheckResult) (cycles : CheckCycles)
  /-- APPEND_STEP: token records, and the plate bank cycles of the stack words it writes, in order -/
  | appendStep (p : Fin 16) (x : AppendSpec)
  /-- PAGE_FLUSH -/
  | pageFlush (p : Fin 16)
  /-- SEND -/
  | send (p : Fin 16)
  /-- GRANT -/
  | grant (p : Fin 16)
  /-- PROOF -/
  | proof (p : Fin 16)
  /-- RESERVED_NOTICE -/
  | reservedNotice (p : Fin 16)
  /-- COMMIT -/
  | commit (p : Fin 16)
  /-- KV_VERIFY -/
  | kvVerify (p : Fin 16)
  /-- FORK -/
  | fork (p : Fin 16) (slot newSlot : Fin 1024)
  /-- PART_CFG_WRITE -/
  | partCfgWrite (src : Src) (p : Fin 16) (val : W64)
  /-- LOAD -/
  | load (src : Src) (p : Fin 16) (img : PlateImage)
  /-- PLATE_FETCH_DONE -/
  | plateFetchDone
  /-- STOP -/
  | stop (src : Src) (p : Fin 16)
  /-- SAVE_DONE -/
  | saveDone (p : Fin 16)
  /-- RESUME -/
  | resume (src : Src) (p : Fin 16)
  /-- UNLOAD -/
  | unload (src : Src) (p : Fin 16)
  /-- PREEMPT -/
  | preempt (src : Src) (p : Fin 16) (img : PlateImage)
  /-- PART_CMD_INVALID -/
  | partCmdInvalid (src : Src) (p : Fin 16) (op : Fin 16)
  /-- MEAS_CFG_WRITE -/
  | measCfgWrite (src : Src) (val : W64)
  /-- MEAS_WINDOW_END -/
  | measWindowEnd
  /-- SVC_WATCHDOG -/
  | svcWatchdog (input : Fin 32) (target : Nat) (locked : Bool)
  /-- WCB_MERGE: half and stack word address in the half -/
  | wcbMerge (half : Fin 16) (word : Nat)
  /-- HELD_WRITE_LAND -/
  | heldWriteLand (half : Fin 16) (word : Nat)
  /-- STK_REFILL -/
  | stkRefill (src : Src) (val : W64)
  /-- REFILL_DONE -/
  | refillDone
  /-- REGION_ATTR_WRITE -/
  | regionAttrWrite (src : Src) (val : W64)
  /-- LANE_SPARE_SWITCH: stack, lane group, lane in it -/
  | laneSpareSwitch (k : Fin 8) (group : Fin 64) (lane : Fin 32)
  /-- VAT_SLOT_CFG_WRITE -/
  | vatSlotCfgWrite (src : Src) (val : W64)
  /-- BAR2_ACCESS -/
  | bar2Access (fn : Fin 64) (x : HostAccess)
  /-- BAR4_ACCESS: as BAR2_ACCESS -/
  | bar4Access (fn : Fin 64) (x : HostAccess)
  /-- WIN4_BASE_WRITE -/
  | win4BaseWrite (src : Src) (fn : Fin 64) (val : W64)
  /-- RING_TICK: what is read at ring heads, and the consumed offsets read -/
  | ringTick (reads : List RingRead) (consumed : List (Fin 64 × Nat))
  /-- SUBMIT -/
  | submit (r : RingRead)
  /-- CANCEL -/
  | cancel (r : RingRead)
  /-- DMA -/
  | dma (r : RingRead)
  /-- NOP -/
  | nop (r : RingRead)
  /-- HOST_DMA_TRANSFER: engine, and what the host side of the transfer returns -/
  | hostDmaTransfer (engine : Fin 4) (host : HostData)
  /-- RING_CFG_WRITE: BAR0 offset of the ring register in the source's view -/
  | ringCfgWrite (src : Src) (off : Nat) (val : W64)
  /-- FUNCTION_LEVEL_RESET -/
  | functionLevelReset (fn : Fin 64)
  /-- RMT_READ -/
  | rmtRead (src : Src)
  /-- RMT_WRITE -/
  | rmtWrite (src : Src)
  /-- RMT_TIMEOUT -/
  | rmtTimeout
  /-- MGMT_CELL: received on a port -/
  | mgmtCell (j : Fin 16) (c : LCell)
  /-- CONFIG_REQUEST -/
  | configRequest (fn : Fin 64) (write : Bool) (reg : Nat) (val : W32)
  /-- MCTP_CONTROL -/
  | mctpControl (i3c : Bool) (msg : List Byte)
  /-- PLDM_REQUEST -/
  | pldmRequest (i3c : Bool) (sensor : Nat)
  /-- GET_VERSION -/
  | getVersion (i3c : Bool)
  /-- GET_CAPABILITIES -/
  | getCapabilities (i3c : Bool)
  /-- NEGOTIATE_ALGORITHMS -/
  | negotiateAlgorithms (i3c : Bool) (offered : List Nat)
  /-- GET_DIGESTS -/
  | getDigests (i3c : Bool)
  /-- GET_CERTIFICATE -/
  | getCertificate (i3c : Bool) (offset length : Nat)
  /-- CHALLENGE -/
  | challenge (i3c : Bool) (nonce : W256)
  /-- GET_MEASUREMENTS -/
  | getMeasurements (i3c : Bool) (nonce : W256)
  /-- CODEWORD_TRANSMIT -/
  | codewordTransmit (j : Fin 16)
  /-- CODEWORD_RECEIVE -/
  | codewordReceive (j : Fin 16) (w : Codeword)
  /-- WRITE_CELL: the next WRITE cell of a port's ingress buffer, or one given -/
  | writeCell (j : Fin 16) (c : LCell)
  /-- QUARANTINE_CLEAR -/
  | quarantineClear (src : Src) (j : Fin 16)
  /-- FORM -/
  | form (j : Fin 16) (c : LCell)
  /-- FORM_ACK -/
  | formAck (j : Fin 16) (c : LCell)
  /-- GRANT_CELL -/
  | grantCell (j : Fin 16) (c : LCell)
  /-- SLOW -/
  | slow (j : Fin 16) (c : LCell)
  /-- WITHDRAW -/
  | withdraw (j : Fin 16) (c : LCell)
  /-- WITHDRAW_CLOSE_TIMEOUT -/
  | withdrawCloseTimeout (p : Fin 16)
  /-- SHIP_REQ: the cell, and the entry and record the decode side reserves for -/
  | shipReq (j : Fin 16) (c : LCell)
  /-- SHIP_GRANT -/
  | shipGrant (j : Fin 16) (c : LCell)
  /-- SHIP_REQ_RETRY -/
  | shipReqRetry (p : Fin 16) (slot : Fin 1024)
  /-- SHIPMENT_ACCEPT: the sequence slot reserved, and the window (256 * die + id) by which the shipment came, none for one
  within the part -/
  | shipmentAccept (p : Fin 16) (slot : Fin 1024) (win : Option Nat)
  /-- SLOW_REPEAT -/
  | slowRepeat
  /-- PORT_ENABLE -/
  | portEnable (src : Src) (j : Fin 16)
  /-- PORT_TRAIN_RETRY: training found the far end or not -/
  | portTrainRetry (j : Fin 16) (trained : Bool)
  /-- AUTH_HANDSHAKE -/
  | authHandshake (j : Fin 16) (h : Handshake)
  /-- AUTH_TIMEOUT -/
  | authTimeout (j : Fin 16)
  /-- AUTH_RETRY -/
  | authRetry (j : Fin 16)
  /-- FULL_TRAIN: good wavelengths found -/
  | fullTrain (j : Fin 16) (good : List Nat)
  /-- LINK_LOST -/
  | linkLost (j : Fin 16)
  /-- KEEPALIVE -/
  | keepalive (j : Fin 16)
  /-- LINK_WAKE -/
  | linkWake (j : Fin 16)
  /-- LAMBDA_SPARE_SWITCH -/
  | lambdaSpareSwitch (j : Fin 16) (x : LambdaFault)
  /-- REKEY: whether the encapsulation succeeded -/
  | rekey (j : Fin 16) (ok : Bool)
  /-- LASER_REMOVE_REQ -/
  | laserRemoveReq (src : Src) (mask : Byte)
  /-- LASER_INSERT -/
  | laserInsert (m : Fin 8)
  /-- LASER_PULL -/
  | laserPull (m : Fin 8)
  /-- WIN_OPEN -/
  | winOpen (src : Src) (d : Fin 4)
  /-- WIN_CLOSE -/
  | winClose (src : Src) (d : Fin 4)
  /-- SYNC: port, domain, sequence id, receive timestamp in ns -/
  | sync (j : Fin 16) (h : TimeHead) (rxNs : Nat)
  /-- FOLLOW_UP: port, domain, sequence id, origin timestamp in ns -/
  | followUp (j : Fin 16) (h : TimeHead) (originNs : Nat)
  /-- PDELAY_REQ: port, domain, sequence id, receive timestamp -/
  | pdelayReq (j : Fin 16) (h : TimeHead) (rxNs : Nat)
  /-- PDELAY_RESP: port, domain, sequence id, t2 from the responder, t4 here -/
  | pdelayResp (j : Fin 16) (h : TimeHead) (t2 t4 : Nat)
  /-- PDELAY_RESP_FOLLOW_UP: port, domain, sequence id, t3 -/
  | pdelayRespFollowUp (j : Fin 16) (h : TimeHead) (t3 : Nat)
  /-- ANNOUNCE: port, domain, and the sender's grandmaster -/
  | announce (j : Fin 16) (domain priority1 : Nat) (q : MasterQuality) (m : MasterPlace)
  /-- SCRUB_STACK_WORD: half and bank -/
  | scrubStackWord (half : Fin 16) (bank : Fin 512)
  /-- SCRUB_VAT_WORD: bank -/
  | scrubVatWord (bank : Fin 4096)
  /-- LOG_HEAD_WRITE -/
  | logHeadWrite (src : Src) (val : W64)
  /-- FENCE_QUARTER -/
  | fenceQuarter (src : Src) (q : Fin 16)
  /-- UNFENCE_QUARTER -/
  | unfenceQuarter (src : Src) (q : Fin 16)
  /-- BIST -/
  | bist (src : Src) (q : Fin 16)
  /-- BIST_COMPLETE -/
  | bistComplete (q : Fin 16) (r : BistResult)
  /-- SUBSTITUTE -/
  | substitute (src : Src) (q : Fin 16) (burin : Bool) (unit : Fin 8)
  /-- RETIRE: granule, quarter, half, region, bank; the row stands in INT_REPAIR_ARG -/
  | retire (src : Src) (granule : Fin 4) (q : Fin 16) (half : Fin 16) (region : Fin 16384) (bank : Fin 512)
  /-- ROW_COPY_SWITCH -/
  | rowCopySwitch
  /-- ROW_COPY_TIMEOUT -/
  | rowCopyTimeout
  /-- FENCE_DIE -/
  | fenceDie (src : Src) (d : Fin 4)
  /-- UNFENCE_DIE -/
  | unfenceDie (src : Src) (d : Fin 4) (x : Training)
  /-- REGION_INIT -/
  | regionInit (src : Src) (half : Fin 16) (region : Fin 16384)
  /-- REFETCH_HOST: what the host reads return -/
  | refetchHost (src : Src) (half : Fin 16) (region : Fin 16384) (host : HostData)
  /-- REFETCH_PEER -/
  | refetchPeer (src : Src) (half : Fin 16) (region : Fin 16384)
  /-- REFETCH_VERIFY -/
  | refetchVerify
  /-- REPAIR_CMD_INVALID -/
  | repairCmdInvalid (src : Src) (op : Fin 16)
  /-- SUPPLY_READING: 10 mV, 10 mA, W -/
  | supplyReading (volts amps watts : Nat)
  /-- SUPPLY_WINDOW_END -/
  | supplyWindowEnd
  /-- LIMITER_WINDOW_END -/
  | limiterWindowEnd
  /-- ZONE_READING: the highest conversion, in 1/16 °C -/
  | zoneReading (z : Fin 17) (temp : Int)
  /-- THERMAL_WINDOW_END -/
  | thermalWindowEnd
  /-- SHUTDOWN_GRACE_END -/
  | shutdownGraceEnd
  /-- HARD_TRIP -/
  | hardTrip
  /-- REFCLK_LOSS -/
  | refclkLoss
  /-- POWER_LOSS -/
  | powerLoss
  /-- DORMANT -/
  | dormant (src : Src)
  /-- AUTO_DORMANT -/
  | autoDormant
  /-- WAKE -/
  | wake (src : Src)
  /-- WAKE_EVENT: bit of PWR_WAKE_CFG.src -/
  | wakeEvent (kind : Fin 4)
  /-- WAKE_COMPLETE: links that did not re-lock -/
  | wakeComplete (badPress badStack : List Nat)
  /-- QUARTER_WAKE_DONE -/
  | quarterWakeDone (q : Fin 16)
  /-- QUARTER_IDLE_OFF -/
  | quarterIdleOff (q : Fin 16)
  /-- COLD_RESET -/
  | coldReset (f : BootFindings)
  /-- WARM_RESET -/
  | warmReset (f : BootFindings)
  /-- RESET_WARM_CMD -/
  | resetWarmCmd (src : Src) (f : BootFindings)
  /-- RESET_COLD_CMD -/
  | resetColdCmd (src : Src) (f : BootFindings)
  /-- START_WATCHDOG -/
  | startWatchdog (f : BootFindings)
  /-- UPDATE_IMAGE: what the fetch returns -/
  | updateImage (src : Src) (img : Option ImageCopy)
  /-- COMMIT_SVN -/
  | commitSvn (src : Src)
  /-- FUSE_OWNER_KEY: the 64 bytes fetched -/
  | fuseOwnerKey (src : Src) (hash : Option W512)
  /-- REQUIRE_OWNER -/
  | requireOwner (src : Src)
  /-- REVOKE_VENDOR_SLOT -/
  | revokeVendorSlot (src : Src)
  /-- DISABLE_DEBUG -/
  | disableDebug (src : Src)
  /-- WRITE_RECORD_AREA: the bytes fetched -/
  | writeRecordArea (src : Src) (bytes : Option (List Byte))
  /-- UPDATE_CMD_INVALID -/
  | updateCmdInvalid (src : Src) (op : Fin 16)
  /-- ATTEST_REQUEST: the nonce read from the buffer -/
  | attestRequest (src : Src) (fn : Fin 64) (nonce : W256)
  /-- REFCLK_RESTORED -/
  | refclkRestored (f : BootFindings)
  /-- RESET_RELEASE -/
  | resetRelease (f : BootFindings)
  /-- REGION_INIT_DONE -/
  | regionInitDone
  /-- IMAGE_UPDATE_DONE: the slot read back checks and NVM worked -/
  | imageUpdateDone (ok : Bool)
  deriving DecidableEq, Repr

end Sys2Proof
end

