-- ==== Sys2Proof/Machine/Map.lean ====
section
/-! DEFINITION. Reading and writing sparse maps. A write of the default removes the entry, so that equal contents are
equal data. -/

namespace Sys2Proof

/-- The value at key `k`, `d` when unlisted. -/
def mget {α : Type} (d : α) : NMap α → Nat → α
  | [], _ => d
  | (j, v) :: t, k => if j < k then mget d t k else if j = k then v else d

/-- The map with `v` at key `k`. -/
def mset {α : Type} [DecidableEq α] (d : α) : NMap α → Nat → α → NMap α
  | [], k, v => if v = d then [] else [(k, v)]
  | (j, w) :: t, k, v =>
    if j < k then (j, w) :: mset d t k v
    else if j = k then (if v = d then t.dropWhile (fun e => decide (e.1 ≤ k)) else (k, v) :: t)
    else if v = d then (j, w) :: t else (k, v) :: (j, w) :: t

/-- The canonical form: keys strictly rising from `lo`, no entry equal to the default. -/
def mwfFrom {α : Type} [DecidableEq α] (d : α) : Nat → NMap α → Bool
  | _, [] => true
  | lo, (j, v) :: t => decide (lo ≤ j) && decide (v ≠ d) && mwfFrom d (j + 1) t

/-- The canonical form of a whole map. -/
def mwf {α : Type} [DecidableEq α] (d : α) (m : NMap α) : Bool := mwfFrom d 0 m

/-- `mget` with the type's own default. -/
def NMap.get {α : Type} [Inhabited α] (m : NMap α) (k : Nat) : α := mget default m k

/-- `mset` with the type's own default. -/
def NMap.set {α : Type} [DecidableEq α] [Inhabited α] (m : NMap α) (k : Nat) (v : α) : NMap α := mset default m k v

/-- Words that a unit holds by address: those it has, each as data and poison. -/
abbrev Words := NMap (Option (W256 × Bool))

/-- The word at an address, `d` where the unit does not have it. -/
def Words.word (d : W256 × Bool) (m : Words) (a : Nat) : W256 × Bool := (NMap.get m a).getD d

/-- The unit has the word at an address. -/
def Words.has (m : Words) (a : Nat) : Bool := (NMap.get m a).isSome

/-- A word is kept. -/
def Words.put (m : Words) (a : Nat) (w : W256 × Bool) : Words := NMap.set m a (some w)

/-- Apply `f` to the value at `k`. -/
def NMap.upd {α : Type} [DecidableEq α] [Inhabited α] (m : NMap α) (k : Nat) (f : α → α) : NMap α :=
  m.set k (f (m.get k))

/-- The entries whose key satisfies `p`. -/
def NMap.keep {α : Type} (m : NMap α) (p : Nat → Bool) : NMap α := List.filter (fun e => p e.1) m

/-- `m` with the entries whose key satisfies `p` taken from `src`. -/
def NMap.replace {α : Type} [DecidableEq α] [Inhabited α] (m src : NMap α) (p : Nat → Bool) : NMap α :=
  List.foldl (fun acc (e : Nat × α) => if p e.1 then NMap.set acc e.1 e.2 else acc) (m.keep (fun k => !p k)) src

/-- The numbers 0 to n - 1. -/
def upto (n : Nat) : List Nat := List.range n

/-- Bits [lo + wid - 1 : lo] of `x`. -/
def bits (x lo wid : Nat) : Nat := x / 2 ^ lo % 2 ^ wid

/-- Bit `i` of `x`. -/
def bit (x i : Nat) : Bool := x / 2 ^ i % 2 == 1

/-- `x` with bits [lo + wid - 1 : lo] replaced by `v`. -/
def setBits (x lo wid v : Nat) : Nat :=
  x - bits x lo wid * 2 ^ lo + (v % 2 ^ wid) * 2 ^ lo

/-- 0 or 1. -/
def b2n (b : Bool) : Nat := if b then 1 else 0

/-- Little-endian value of a byte list. -/
def leNat : List Byte → Nat
  | [] => 0
  | b :: t => b.toNat + 256 * leNat t

/-- The `n` little-endian bytes of `x`. -/
def leBytes : Nat → Nat → List Byte
  | 0, _ => []
  | n + 1, x => BitVec.ofNat 8 x :: leBytes n (x / 256)

/-- `n` bytes of a list from offset `o`, as a little-endian number. -/
def leAt (bs : List Byte) (o n : Nat) : Nat := leNat ((bs.drop o).take n)

end Sys2Proof
end

