-- ==== Sys2Proof/Machine/Ecc.lean ====
section
/-! DEFINITION. The 256-bit SECDED code and its 40-bit relative (R303 to R306, R148), and row sums (R148). -/

namespace Sys2Proof

/-- Column h(i): the (i + 1)-th integer at or above 3 that is not a power of two (R304). h(i) is i + 1 plus the number
of powers of two passed. -/
def eccCol (i : Nat) : Nat :=
  let a := i + 3
  let a := if a ≥ 4 then a + 1 else a
  let a := if a ≥ 8 then a + 1 else a
  let a := if a ≥ 16 then a + 1 else a
  let a := if a ≥ 32 then a + 1 else a
  let a := if a ≥ 64 then a + 1 else a
  let a := if a ≥ 128 then a + 1 else a
  let a := if a ≥ 256 then a + 1 else a
  a

/-- XOR of the columns of the set bits among the low `n` bits from column `i` on. -/
def eccSyn : Nat → Nat → Nat → Nat
  | 0, _, _ => 0
  | n + 1, i, x => (if x % 2 = 1 then eccCol i else 0) ^^^ eccSyn n (i + 1) (x / 2)

/-- Parity of the low `n` bits. -/
def parityN : Nat → Nat → Bool
  | 0, _ => false
  | n + 1, x => (x % 2 == 1) != parityN n (x / 2)

/-- Check bits c0 to c8 of data with a poison bit as d256 (R304). -/
def eccCheck (data : W256) (poison : Bool) : Nat :=
  eccSyn 257 0 (data.toNat + b2n poison * 2 ^ 256)

/-- The 16 code bits stored with a word: c0 to c8, c9, poison, zero (R148, R304). -/
def eccCode (data : W256) (poison : Bool) : W16 :=
  let c := eccCheck data poison
  let c9 := parityN 256 data.toNat != (poison != parityN 9 c)
  BitVec.ofNat 16 (c + b2n c9 * 2 ^ 9 + b2n poison * 2 ^ 10)

/-- What the check of a stored word finds (R305). -/
inductive EccResult where
  | clean | corrected | uncorrectable
  deriving DecidableEq, Repr, Inhabited

/-- What is done by what was found. -/
def EccResult.pick {α : Type} (r : EccResult) (clean corrected uncorrectable : α) : α :=
  match r with
  | .clean => clean
  | .corrected => corrected
  | .uncorrectable => uncorrectable

/-- A word as the checker delivers it: data, poison, what was found, s and p for the log (R305, R314). -/
structure EccRead where
  data : W256
  poison : Bool
  res : EccResult
  s : Nat
  p : Bool
  deriving DecidableEq, Repr, Inhabited

/-- The index whose column is `c`, if there is one below 257. -/
def eccIndex (c : Nat) : Option Nat := (upto 257).find? (fun i => eccCol i == c)

/-- Decode a stored word by the table of R305. -/
def eccRead (data : W256) (code : W16) : EccRead :=
  let stored := code.toNat
  let poison := bit stored 10
  let s := eccCheck data poison ^^^ (stored % 2 ^ 9)
  let p := parityN 256 data.toNat != (poison != parityN 10 (stored % 2 ^ 10))
  if s = 0 then ⟨data, poison, if p then .corrected else .clean, s, p⟩
  else if p then
    if (upto 9).any (fun j => s == 2 ^ j) then ⟨data, poison, .corrected, s, p⟩
    else match eccIndex s with
      | some i =>
        if i = 256 then ⟨data, !poison, .corrected, s, p⟩
        else ⟨data ^^^ BitVec.ofNat 256 (2 ^ i), poison, .corrected, s, p⟩
      | none => ⟨data, true, .uncorrectable, s, p⟩
  else ⟨data, true, .uncorrectable, s, p⟩

/-- The detail word of a memory error: s in [8:0], p in [9] (R314). -/
def EccRead.detail (r : EccRead) : Nat := r.s % 512 + b2n r.p * 512

/-- The row sum of a word: its eight 32-bit parts modulo 2^32 (R148). -/
def rowSumWord (data : W256) : Nat :=
  ((upto 8).foldl (fun acc i => acc + bits data.toNat (32 * i) 32) 0) % 2 ^ 32

/-- The row sum of a check row. -/
def rowSum (ws : List W256) : Nat := (ws.foldl (fun acc w => acc + rowSumWord w) 0) % 2 ^ 32

/-- The 7 check bits over a 32-bit local-memory word and its poison bit as d32 (R306): c0 to c5 and c6. -/
def localCode (data : W32) (poison : Bool) : Nat :=
  let x := data.toNat + b2n poison * 2 ^ 32
  let c := eccSyn 33 0 x
  c + b2n (parityN 33 x != parityN 6 c) * 2 ^ 6

/-- Decode a local-memory word of 32 data bits, poison and 7 check bits (R306 by R305 with a 6-bit s). -/
def localRead (data : W32) (poison : Bool) (code : Nat) : W32 × Bool × EccResult :=
  let x := data.toNat + b2n poison * 2 ^ 32
  let s := eccSyn 33 0 x ^^^ (code % 2 ^ 6)
  let p := parityN 33 x != parityN 7 (code % 2 ^ 7)
  if s = 0 then (data, poison, if p then .corrected else .clean)
  else if p then
    if (upto 6).any (fun j => s == 2 ^ j) then (data, poison, .corrected)
    else match (upto 33).find? (fun i => eccCol i == s) with
      | some i => if i = 32 then (data, !poison, .corrected) else (data ^^^ BitVec.ofNat 32 (2 ^ i), poison, .corrected)
      | none => (data, true, .uncorrectable)
  else (data, true, .uncorrectable)

end Sys2Proof
end

