-- ==== Sys2Proof/Machine/Regs.lean ====
section
/-! DEFINITION. The registers of the part (R373 to R381 and the register blocks of every chapter): offsets, fields,
access codes and reset values, and the name of each field. -/

namespace Sys2Proof.Machine

/-- Access codes of R6. -/
inductive Acc where
  | rw | ro | wo | w1c | rws | w0cs
  deriving DecidableEq, Repr

/-- A field of a register or of a family of registers: offset of index 0, step, registers per index 8 apart, low bit
and width. -/
structure Fld where
  off : Nat
  step : Nat
  sub : Nat
  lo : Nat
  wid : Nat
  deriving DecidableEq, Repr

/-- The BAR0 offset of index `i` (with `sub` registers per index, index `i * sub + j`). -/
def Fld.addr (f : Fld) (i : Nat) : Nat := f.off + f.step * (i / f.sub) + 8 * (i % f.sub)

/-- One family of registers: offset, count, step, registers per index, its offset in a VF view, whether every write of
a VF is ignored there, whether its owner may write it in its own view, and its fields as (low bit, width, access). -/
structure RegSpec where
  off : Nat
  count : Nat
  step : Nat
  sub : Nat
  vf : Option Nat
  vfRo : Bool
  any : Bool
  fields : List (Nat × Nat × Acc)
  deriving DecidableEq, Repr

abbrev DEV_ID_part : Fld := ⟨0x0, 8, 1, 0, 16⟩
abbrev DEV_ID_family : Fld := ⟨0x0, 8, 1, 16, 8⟩
abbrev DEV_ID_stepping : Fld := ⟨0x0, 8, 1, 24, 8⟩

abbrev DEV_VERSION_contract : Fld := ⟨0x8, 8, 1, 0, 32⟩
abbrev DEV_VERSION_container : Fld := ⟨0x8, 8, 1, 32, 8⟩
abbrev DEV_VERSION_regmap : Fld := ⟨0x8, 8, 1, 40, 8⟩

abbrev DEV_FW_sequence : Fld := ⟨0x10, 8, 1, 0, 32⟩
abbrev DEV_FW_securityVersion : Fld := ⟨0x10, 8, 1, 32, 8⟩
abbrev DEV_FW_copy : Fld := ⟨0x10, 8, 1, 40, 1⟩

abbrev DEV_DT_dt : Fld := ⟨0x18, 8, 1, 0, 64⟩

abbrev DEV_STATUS_bootState : Fld := ⟨0x20, 8, 1, 0, 2⟩
abbrev DEV_STATUS_pwrState : Fld := ⟨0x20, 8, 1, 2, 3⟩
abbrev DEV_STATUS_logUnread : Fld := ⟨0x20, 8, 1, 5, 1⟩
abbrev DEV_STATUS_logLost : Fld := ⟨0x20, 8, 1, 6, 1⟩
abbrev DEV_STATUS_halted : Fld := ⟨0x20, 8, 1, 7, 1⟩
abbrev DEV_STATUS_svcQuarantine : Fld := ⟨0x20, 8, 1, 8, 1⟩
abbrev DEV_STATUS_portQuarantine : Fld := ⟨0x20, 8, 1, 9, 1⟩
abbrev DEV_STATUS_stalled : Fld := ⟨0x20, 8, 1, 10, 1⟩
abbrev DEV_STATUS_hardTrip : Fld := ⟨0x20, 8, 1, 11, 1⟩
abbrev DEV_STATUS_quarterOut : Fld := ⟨0x20, 8, 1, 12, 1⟩
abbrev DEV_STATUS_dieFenced : Fld := ⟨0x20, 8, 1, 13, 4⟩
abbrev DEV_STATUS_groupWithdrawn : Fld := ⟨0x20, 8, 1, 17, 1⟩

abbrev DEV_IRQ_CAUSE_cause : Fld := ⟨0x28, 8, 1, 0, 7⟩

abbrev DEV_IRQ_ENABLE_enable : Fld := ⟨0x30, 8, 1, 0, 7⟩

abbrev DEV_SCRATCH_LO_value : Fld := ⟨0x100, 8, 1, 0, 64⟩

abbrev DEV_SCRATCH_HI_value : Fld := ⟨0x120, 8, 1, 0, 64⟩

abbrev DEV_FN_INFO_function : Fld := ⟨0x400, 8, 1, 0, 6⟩
abbrev DEV_FN_INFO_enabled : Fld := ⟨0x400, 8, 1, 6, 1⟩
abbrev DEV_FN_INFO_partition : Fld := ⟨0x400, 8, 1, 8, 4⟩
abbrev DEV_FN_INFO_rebindPending : Fld := ⟨0x400, 8, 1, 12, 1⟩
abbrev DEV_FN_INFO_held : Fld := ⟨0x400, 8, 1, 16, 16⟩
abbrev DEV_FN_INFO_partState : Fld := ⟨0x400, 8, 1, 32, 3⟩

abbrev DEV_FN_SCRATCH_value : Fld := ⟨0x800, 8, 1, 0, 64⟩

abbrev PKG_GRID_FRAME_gridFrame : Fld := ⟨0x10000, 8, 1, 0, 64⟩

abbrev PKG_RUN_FRAME_runFrame : Fld := ⟨0x10008, 8, 1, 0, 64⟩

abbrev PKG_QUARTER_STATE_states : Fld := ⟨0x10010, 8, 1, 0, 64⟩

abbrev VAT_SLOT_CFG_slots : Fld := ⟨0x20000, 8, 1, 0, 24⟩
abbrev VAT_SLOT_CFG_lendUnused : Fld := ⟨0x20000, 8, 1, 24, 1⟩

abbrev VAT_EDGE_USE_count : Fld := ⟨0x20008, 8, 1, 0, 64⟩

abbrev VAT_EDGE_LENT_count : Fld := ⟨0x20020, 8, 1, 0, 64⟩

abbrev VAT_CONFLICT_STATUS_valid : Fld := ⟨0x20100, 16, 1, 0, 1⟩
abbrev VAT_CONFLICT_STATUS_more : Fld := ⟨0x20100, 16, 1, 1, 1⟩
abbrev VAT_CONFLICT_STATUS_bank : Fld := ⟨0x20100, 16, 1, 2, 12⟩
abbrev VAT_CONFLICT_STATUS_pc : Fld := ⟨0x20100, 16, 1, 14, 6⟩
abbrev VAT_CONFLICT_STATUS_portA : Fld := ⟨0x20100, 16, 1, 24, 8⟩
abbrev VAT_CONFLICT_STATUS_portB : Fld := ⟨0x20100, 16, 1, 32, 8⟩

abbrev VAT_CONFLICT_FRAME_runFrame : Fld := ⟨0x20108, 16, 1, 0, 64⟩

abbrev PRESS_FAULT_STATUS_valid : Fld := ⟨0x30000, 16, 1, 0, 1⟩
abbrev PRESS_FAULT_STATUS_more : Fld := ⟨0x30000, 16, 1, 1, 1⟩
abbrev PRESS_FAULT_STATUS_cause : Fld := ⟨0x30000, 16, 1, 2, 6⟩
abbrev PRESS_FAULT_STATUS_unit : Fld := ⟨0x30000, 16, 1, 8, 8⟩
abbrev PRESS_FAULT_STATUS_pc : Fld := ⟨0x30000, 16, 1, 16, 6⟩

abbrev PRESS_FAULT_FRAME_runFrame : Fld := ⟨0x30008, 16, 1, 0, 64⟩

abbrev PRESS_POISON_DRAINS_count : Fld := ⟨0x30100, 8, 1, 0, 64⟩

abbrev STK_REGION_SEL_half : Fld := ⟨0x40000, 8, 1, 0, 4⟩
abbrev STK_REGION_SEL_region : Fld := ⟨0x40000, 8, 1, 4, 14⟩

abbrev STK_REGION_ATTR_kind : Fld := ⟨0x40008, 8, 1, 0, 2⟩
abbrev STK_REGION_ATTR_rowLen : Fld := ⟨0x40008, 8, 1, 2, 10⟩
abbrev STK_REGION_ATTR_sumRegion : Fld := ⟨0x40008, 8, 1, 12, 14⟩
abbrev STK_REGION_ATTR_sumOffset : Fld := ⟨0x40008, 8, 1, 26, 21⟩
abbrev STK_REGION_ATTR_mapped : Fld := ⟨0x40008, 8, 1, 47, 1⟩

abbrev STK_REFILL_srcRegion : Fld := ⟨0x40010, 8, 1, 0, 14⟩
abbrev STK_REFILL_dstRegion : Fld := ⟨0x40010, 8, 1, 14, 14⟩
abbrev STK_REFILL_half : Fld := ⟨0x40010, 8, 1, 28, 4⟩
abbrev STK_REFILL_start : Fld := ⟨0x40010, 8, 1, 32, 1⟩

abbrev STK_REFILL_STATUS_busy : Fld := ⟨0x40018, 8, 1, 0, 1⟩
abbrev STK_REFILL_STATUS_done : Fld := ⟨0x40018, 8, 1, 1, 1⟩
abbrev STK_REFILL_STATUS_error : Fld := ⟨0x40018, 8, 1, 2, 1⟩

abbrev STK_LANE_CFG_threshold : Fld := ⟨0x40020, 8, 1, 0, 16⟩

abbrev STK_LANE_SPARE_spareUsed : Fld := ⟨0x40100, 8, 1, 0, 64⟩

abbrev STK_LINK_STATUS_trained : Fld := ⟨0x40140, 8, 1, 0, 1⟩
abbrev STK_LINK_STATUS_degraded : Fld := ⟨0x40140, 8, 1, 1, 1⟩
abbrev STK_LINK_STATUS_corrected : Fld := ⟨0x40140, 8, 1, 32, 32⟩

abbrev STK_FAULT_STATUS_valid : Fld := ⟨0x40200, 16, 1, 0, 1⟩
abbrev STK_FAULT_STATUS_more : Fld := ⟨0x40200, 16, 1, 1, 1⟩
abbrev STK_FAULT_STATUS_cause : Fld := ⟨0x40200, 16, 1, 2, 6⟩
abbrev STK_FAULT_STATUS_half : Fld := ⟨0x40200, 16, 1, 8, 4⟩
abbrev STK_FAULT_STATUS_bank : Fld := ⟨0x40200, 16, 1, 12, 9⟩
abbrev STK_FAULT_STATUS_bc : Fld := ⟨0x40200, 16, 1, 21, 5⟩

abbrev STK_FAULT_FRAME_runFrame : Fld := ⟨0x40208, 16, 1, 0, 64⟩

abbrev STK_ROWSUM_STATUS_valid : Fld := ⟨0x40300, 8, 1, 0, 1⟩
abbrev STK_ROWSUM_STATUS_more : Fld := ⟨0x40300, 8, 1, 1, 1⟩
abbrev STK_ROWSUM_STATUS_cause : Fld := ⟨0x40300, 8, 1, 2, 6⟩
abbrev STK_ROWSUM_STATUS_half : Fld := ⟨0x40300, 8, 1, 8, 4⟩
abbrev STK_ROWSUM_STATUS_bank : Fld := ⟨0x40300, 8, 1, 12, 9⟩
abbrev STK_ROWSUM_STATUS_bc : Fld := ⟨0x40300, 8, 1, 21, 5⟩
abbrev STK_ROWSUM_STATUS_pail : Fld := ⟨0x40300, 8, 1, 26, 12⟩

abbrev LRT_GLOBAL_CFG_requireOwner : Fld := ⟨0x50000, 8, 1, 0, 1⟩

abbrev LRT_LASER_CTRL_removeReq : Fld := ⟨0x50008, 8, 1, 0, 8⟩

abbrev LRT_LASER_STATUS_mods : Fld := ⟨0x50010, 8, 1, 0, 32⟩

abbrev LRT_TIME_CFG_domain : Fld := ⟨0x50020, 8, 1, 0, 8⟩
abbrev LRT_TIME_CFG_priority1 : Fld := ⟨0x50020, 8, 1, 8, 8⟩
abbrev LRT_TIME_CFG_priority2 : Fld := ⟨0x50020, 8, 1, 16, 8⟩
abbrev LRT_TIME_CFG_timePorts : Fld := ⟨0x50020, 8, 1, 24, 16⟩

abbrev LRT_TIME_STATUS_locked : Fld := ⟨0x50028, 8, 1, 0, 1⟩
abbrev LRT_TIME_STATUS_grandmaster : Fld := ⟨0x50028, 8, 1, 1, 1⟩
abbrev LRT_TIME_STATUS_stepped : Fld := ⟨0x50028, 8, 1, 2, 1⟩
abbrev LRT_TIME_STATUS_masterPort : Fld := ⟨0x50028, 8, 1, 4, 4⟩

abbrev LRT_TIME_OFFSET_offset : Fld := ⟨0x50030, 8, 1, 0, 64⟩

abbrev LRT_PORT_CTRL_enable : Fld := ⟨0x51000, 256, 1, 0, 1⟩
abbrev LRT_PORT_CTRL_allowFull : Fld := ⟨0x51000, 256, 1, 1, 1⟩
abbrev LRT_PORT_CTRL_encrypt : Fld := ⟨0x51000, 256, 1, 2, 1⟩
abbrev LRT_PORT_CTRL_quarantineClear : Fld := ⟨0x51000, 256, 1, 3, 1⟩
abbrev LRT_PORT_CTRL_dropLimit : Fld := ⟨0x51000, 256, 1, 16, 16⟩
abbrev LRT_PORT_CTRL_lambdaThreshold : Fld := ⟨0x51000, 256, 1, 32, 16⟩

abbrev LRT_PORT_STATUS_state : Fld := ⟨0x51008, 256, 1, 0, 4⟩
abbrev LRT_PORT_STATUS_rate : Fld := ⟨0x51008, 256, 1, 4, 2⟩
abbrev LRT_PORT_STATUS_encrypted : Fld := ⟨0x51008, 256, 1, 6, 1⟩
abbrev LRT_PORT_STATUS_peerChanged : Fld := ⟨0x51008, 256, 1, 7, 1⟩
abbrev LRT_PORT_STATUS_degraded : Fld := ⟨0x51008, 256, 1, 8, 1⟩

abbrev LRT_PORT_LAMBDA_active : Fld := ⟨0x51010, 256, 1, 0, 17⟩
abbrev LRT_PORT_LAMBDA_failed : Fld := ⟨0x51010, 256, 1, 32, 17⟩
abbrev LRT_PORT_LAMBDA_spareFor : Fld := ⟨0x51010, 256, 1, 52, 4⟩
abbrev LRT_PORT_LAMBDA_spareUsed : Fld := ⟨0x51010, 256, 1, 56, 1⟩

abbrev LRT_PORT_PEER_fingerprint : Fld := ⟨0x51018, 256, 1, 0, 64⟩

abbrev LRT_PORT_FEC_corrected : Fld := ⟨0x51020, 256, 1, 0, 32⟩
abbrev LRT_PORT_FEC_uncorrectable : Fld := ⟨0x51020, 256, 1, 32, 32⟩

abbrev LRT_PORT_REPLAY_naks : Fld := ⟨0x51028, 256, 1, 0, 32⟩
abbrev LRT_PORT_REPLAY_replayed : Fld := ⟨0x51028, 256, 1, 32, 32⟩

abbrev LRT_PORT_RTT_rttPs : Fld := ⟨0x51030, 256, 1, 0, 32⟩

abbrev LRT_PORT_DROP_count : Fld := ⟨0x51040, 256, 8, 0, 64⟩

abbrev LRT_WIN_SEL_window : Fld := ⟨0x52000, 256, 1, 0, 8⟩

abbrev LRT_WIN_CFG_state : Fld := ⟨0x52008, 256, 1, 0, 2⟩
abbrev LRT_WIN_CFG_plate : Fld := ⟨0x52008, 256, 1, 2, 1⟩
abbrev LRT_WIN_CFG_owner : Fld := ⟨0x52008, 256, 1, 4, 4⟩
abbrev LRT_WIN_CFG_portMask : Fld := ⟨0x52008, 256, 1, 8, 4⟩
abbrev LRT_WIN_CFG_encOnly : Fld := ⟨0x52008, 256, 1, 12, 1⟩
abbrev LRT_WIN_CFG_cmdErr : Fld := ⟨0x52008, 256, 1, 16, 1⟩
abbrev LRT_WIN_CFG_descCause : Fld := ⟨0x52008, 256, 1, 24, 8⟩

abbrev LRT_WIN_PEER_fingerprint : Fld := ⟨0x52010, 256, 1, 0, 64⟩

abbrev LRT_WIN_CMD_open : Fld := ⟨0x52018, 256, 1, 0, 1⟩
abbrev LRT_WIN_CMD_close : Fld := ⟨0x52018, 256, 1, 1, 1⟩

abbrev LRT_WIN_BYTES_bytes : Fld := ⟨0x52020, 256, 1, 0, 64⟩

abbrev LRT_WIN_CELLS_cells : Fld := ⟨0x52028, 256, 1, 0, 64⟩

abbrev LRT_WIN_DROPS_drops : Fld := ⟨0x52030, 256, 1, 0, 64⟩

abbrev LRT_WIN_DESC_word : Fld := ⟨0x52080, 256, 16, 0, 64⟩

abbrev COL_SEL_partition : Fld := ⟨0x60000, 8, 1, 0, 4⟩
abbrev COL_SEL_group : Fld := ⟨0x60000, 8, 1, 4, 4⟩

abbrev COL_GROUP_CFG_tag : Fld := ⟨0x60008, 8, 1, 0, 32⟩
abbrev COL_GROUP_CFG_epoch : Fld := ⟨0x60008, 8, 1, 32, 16⟩

abbrev COL_GROUP_STATUS_state : Fld := ⟨0x60010, 8, 1, 0, 2⟩
abbrev COL_GROUP_STATUS_member : Fld := ⟨0x60010, 8, 1, 4, 12⟩
abbrev COL_GROUP_STATUS_membersM1 : Fld := ⟨0x60010, 8, 1, 16, 12⟩
abbrev COL_GROUP_STATUS_cause : Fld := ⟨0x60010, 8, 1, 28, 8⟩
abbrev COL_GROUP_STATUS_origin : Fld := ⟨0x60010, 8, 1, 36, 12⟩
abbrev COL_GROUP_STATUS_slow : Fld := ⟨0x60010, 8, 1, 48, 12⟩

abbrev COL_GROUP_EVENT_withdrawn : Fld := ⟨0x60018, 8, 1, 0, 1⟩
abbrev COL_GROUP_EVENT_timeout : Fld := ⟨0x60018, 8, 1, 1, 1⟩
abbrev COL_GROUP_EVENT_formMismatch : Fld := ⟨0x60018, 8, 1, 2, 1⟩
abbrev COL_GROUP_EVENT_slowSeen : Fld := ⟨0x60018, 8, 1, 3, 1⟩

abbrev COL_GROUP_WITHDRAW_DT_dt : Fld := ⟨0x60020, 8, 1, 0, 64⟩

abbrev PART_CFG_quarters : Fld := ⟨0x70000, 8, 1, 0, 16⟩
abbrev PART_CFG_priority : Fld := ⟨0x70000, 8, 1, 16, 4⟩

abbrev PART_STATUS_state : Fld := ⟨0x70080, 8, 1, 0, 3⟩
abbrev PART_STATUS_midCollective : Fld := ⟨0x70080, 8, 1, 3, 1⟩
abbrev PART_STATUS_cfgErr : Fld := ⟨0x70080, 8, 1, 4, 1⟩
abbrev PART_STATUS_halted : Fld := ⟨0x70080, 8, 1, 5, 1⟩
abbrev PART_STATUS_held : Fld := ⟨0x70080, 8, 1, 16, 16⟩
abbrev PART_STATUS_saveKib : Fld := ⟨0x70080, 8, 1, 32, 32⟩

abbrev PART_CMD_partition : Fld := ⟨0x70100, 8, 1, 0, 4⟩
abbrev PART_CMD_op : Fld := ⟨0x70100, 8, 1, 4, 4⟩

abbrev PART_CMD_ADDR_addr : Fld := ⟨0x70108, 8, 1, 0, 64⟩

abbrev PART_CMD_LEN_len : Fld := ⟨0x70110, 8, 1, 0, 40⟩

abbrev PART_CMD_STATUS_busy : Fld := ⟨0x70118, 8, 1, 0, 1⟩
abbrev PART_CMD_STATUS_done : Fld := ⟨0x70118, 8, 1, 1, 1⟩
abbrev PART_CMD_STATUS_error : Fld := ⟨0x70118, 8, 1, 2, 1⟩
abbrev PART_CMD_STATUS_lost : Fld := ⟨0x70118, 8, 1, 3, 1⟩
abbrev PART_CMD_STATUS_cause : Fld := ⟨0x70118, 8, 1, 8, 8⟩

abbrev PART_BIND_f : Fld := ⟨0x70180, 8, 1, 0, 64⟩

abbrev PART_MEAS_CFG_window : Fld := ⟨0x70200, 8, 1, 0, 32⟩

abbrev PART_MEAS_word : Fld := ⟨0x70400, 64, 8, 0, 64⟩

abbrev SVC_QUAR_quarantined : Fld := ⟨0x80000, 8, 1, 0, 32⟩

abbrev SVC_WDOG_EVENT_valid : Fld := ⟨0x80008, 8, 1, 0, 1⟩
abbrev SVC_WDOG_EVENT_input : Fld := ⟨0x80008, 8, 1, 1, 5⟩
abbrev SVC_WDOG_EVENT_locked : Fld := ⟨0x80008, 8, 1, 6, 1⟩
abbrev SVC_WDOG_EVENT_target : Fld := ⟨0x80008, 8, 1, 8, 8⟩

abbrev SVC_WDOG_DT_dt : Fld := ⟨0x80010, 8, 1, 0, 64⟩

abbrev HIF_LINK_STATUS_speed : Fld := ⟨0x90000, 8, 1, 0, 4⟩
abbrev HIF_LINK_STATUS_width : Fld := ⟨0x90000, 8, 1, 4, 6⟩
abbrev HIF_LINK_STATUS_flit : Fld := ⟨0x90000, 8, 1, 10, 1⟩

abbrev HIF_TICK_tickUs : Fld := ⟨0x90008, 8, 1, 0, 7⟩

abbrev HIF_FWD_BUF_base : Fld := ⟨0x90010, 8, 1, 21, 9⟩
abbrev HIF_FWD_BUF_size : Fld := ⟨0x90010, 8, 1, 32, 6⟩

abbrev HIF_RMT_ADDR_device : Fld := ⟨0x90018, 8, 1, 0, 6⟩
abbrev HIF_RMT_ADDR_offset : Fld := ⟨0x90018, 8, 1, 32, 26⟩

abbrev HIF_RMT_DATA_data : Fld := ⟨0x90020, 8, 1, 0, 64⟩

abbrev HIF_RMT_CMD_read : Fld := ⟨0x90028, 8, 1, 0, 1⟩
abbrev HIF_RMT_CMD_write : Fld := ⟨0x90028, 8, 1, 1, 1⟩

abbrev HIF_RMT_STATUS_busy : Fld := ⟨0x90030, 8, 1, 0, 1⟩
abbrev HIF_RMT_STATUS_done : Fld := ⟨0x90030, 8, 1, 1, 1⟩
abbrev HIF_RMT_STATUS_error : Fld := ⟨0x90030, 8, 1, 2, 1⟩
abbrev HIF_RMT_STATUS_cause : Fld := ⟨0x90030, 8, 1, 8, 8⟩

abbrev HIF_FWD_port : Fld := ⟨0x90110, 16, 1, 0, 4⟩
abbrev HIF_FWD_enable : Fld := ⟨0x90110, 16, 1, 4, 1⟩
abbrev HIF_FWD_state : Fld := ⟨0x90110, 16, 1, 5, 2⟩

abbrev HIF_FWD_PEER_fingerprint : Fld := ⟨0x90118, 16, 1, 0, 64⟩

abbrev HIF_RQ_CFG_enable : Fld := ⟨0x91000, 128, 4, 0, 1⟩
abbrev HIF_RQ_CFG_sizeLog2 : Fld := ⟨0x91000, 128, 4, 4, 4⟩
abbrev HIF_RQ_CFG_base : Fld := ⟨0x91000, 128, 4, 12, 52⟩

abbrev HIF_RQ_WB_addr : Fld := ⟨0x91020, 128, 4, 3, 61⟩

abbrev HIF_CQ_CFG_enable : Fld := ⟨0x91040, 128, 1, 0, 1⟩
abbrev HIF_CQ_CFG_sizeLog2 : Fld := ⟨0x91040, 128, 1, 4, 5⟩
abbrev HIF_CQ_CFG_base : Fld := ⟨0x91040, 128, 1, 12, 52⟩

abbrev HIF_CQ_TAIL_addr : Fld := ⟨0x91048, 128, 1, 3, 61⟩

abbrev HIF_CQ_HEAD_addr : Fld := ⟨0x91050, 128, 1, 3, 61⟩

abbrev HIF_MSIX_MOD_count : Fld := ⟨0x91058, 128, 1, 0, 16⟩
abbrev HIF_MSIX_MOD_timeUs : Fld := ⟨0x91058, 128, 1, 16, 16⟩

abbrev HIF_WIN4_BASE_base : Fld := ⟨0x91060, 128, 1, 21, 18⟩

abbrev HIF_FN_STATUS_badEntry : Fld := ⟨0x91068, 128, 1, 0, 1⟩
abbrev HIF_FN_STATUS_range : Fld := ⟨0x91068, 128, 1, 1, 1⟩
abbrev HIF_FN_STATUS_winErr : Fld := ⟨0x91068, 128, 1, 2, 1⟩
abbrev HIF_FN_STATUS_cfgErr : Fld := ⟨0x91068, 128, 1, 3, 1⟩
abbrev HIF_FN_STATUS_stalled : Fld := ⟨0x91068, 128, 1, 4, 1⟩

abbrev INT_LOG_STATUS_tail : Fld := ⟨0xA0000, 8, 1, 0, 10⟩
abbrev INT_LOG_STATUS_unread : Fld := ⟨0xA0000, 8, 1, 10, 11⟩
abbrev INT_LOG_STATUS_lost : Fld := ⟨0xA0000, 8, 1, 32, 32⟩

abbrev INT_LOG_HEAD_head : Fld := ⟨0xA0008, 8, 1, 0, 10⟩

abbrev INT_CLASS_SEEN_class : Fld := ⟨0xA0010, 8, 1, 0, 16⟩

abbrev INT_SCRUB_CFG_stackInterval : Fld := ⟨0xA0018, 8, 1, 0, 16⟩
abbrev INT_SCRUB_CFG_vatInterval : Fld := ⟨0xA0018, 8, 1, 16, 16⟩

abbrev INT_SCRUB_STATUS_stackSweeps : Fld := ⟨0xA0020, 8, 1, 0, 32⟩
abbrev INT_SCRUB_STATUS_vatSweeps : Fld := ⟨0xA0020, 8, 1, 32, 32⟩

abbrev INT_REPAIR_CMD_op : Fld := ⟨0xA0028, 8, 1, 0, 4⟩
abbrev INT_REPAIR_CMD_quarter : Fld := ⟨0xA0028, 8, 1, 4, 4⟩
abbrev INT_REPAIR_CMD_die : Fld := ⟨0xA0028, 8, 1, 8, 2⟩
abbrev INT_REPAIR_CMD_granule : Fld := ⟨0xA0028, 8, 1, 10, 2⟩
abbrev INT_REPAIR_CMD_unitKind : Fld := ⟨0xA0028, 8, 1, 12, 1⟩
abbrev INT_REPAIR_CMD_unit : Fld := ⟨0xA0028, 8, 1, 13, 3⟩
abbrev INT_REPAIR_CMD_half : Fld := ⟨0xA0028, 8, 1, 16, 4⟩
abbrev INT_REPAIR_CMD_region : Fld := ⟨0xA0028, 8, 1, 20, 14⟩
abbrev INT_REPAIR_CMD_bank : Fld := ⟨0xA0028, 8, 1, 34, 9⟩

abbrev INT_REPAIR_ARG_arg : Fld := ⟨0xA0030, 8, 1, 0, 64⟩

abbrev INT_REPAIR_STATUS_busy : Fld := ⟨0xA0038, 8, 1, 0, 1⟩
abbrev INT_REPAIR_STATUS_done : Fld := ⟨0xA0038, 8, 1, 1, 1⟩
abbrev INT_REPAIR_STATUS_error : Fld := ⟨0xA0038, 8, 1, 2, 1⟩
abbrev INT_REPAIR_STATUS_cause : Fld := ⟨0xA0038, 8, 1, 8, 8⟩

abbrev INT_BIST_done : Fld := ⟨0xA0100, 8, 1, 0, 1⟩
abbrev INT_BIST_pass : Fld := ⟨0xA0100, 8, 1, 1, 1⟩
abbrev INT_BIST_press : Fld := ⟨0xA0100, 8, 1, 2, 4⟩
abbrev INT_BIST_burin : Fld := ⟨0xA0100, 8, 1, 6, 8⟩
abbrev INT_BIST_vat : Fld := ⟨0xA0100, 8, 1, 14, 1⟩
abbrev INT_BIST_churn : Fld := ⟨0xA0100, 8, 1, 15, 1⟩
abbrev INT_BIST_dma : Fld := ⟨0xA0100, 8, 1, 16, 1⟩
abbrev INT_BIST_checker : Fld := ⟨0xA0100, 8, 1, 17, 1⟩
abbrev INT_BIST_sparePress : Fld := ⟨0xA0100, 8, 1, 18, 1⟩
abbrev INT_BIST_spareBurin : Fld := ⟨0xA0100, 8, 1, 19, 2⟩

abbrev INT_SPARE_pressUsed : Fld := ⟨0xA0180, 8, 1, 0, 1⟩
abbrev INT_SPARE_pressFor : Fld := ⟨0xA0180, 8, 1, 1, 4⟩
abbrev INT_SPARE_burin0Used : Fld := ⟨0xA0180, 8, 1, 5, 1⟩
abbrev INT_SPARE_burin0For : Fld := ⟨0xA0180, 8, 1, 6, 5⟩
abbrev INT_SPARE_burin1Used : Fld := ⟨0xA0180, 8, 1, 11, 1⟩
abbrev INT_SPARE_burin1For : Fld := ⟨0xA0180, 8, 1, 12, 5⟩

abbrev INT_MODULE_ADDR_addr : Fld := ⟨0xA0200, 16, 1, 0, 64⟩

abbrev INT_MODULE_LEN_len : Fld := ⟨0xA0208, 16, 1, 0, 40⟩

abbrev INT_FN_NOTE_valid : Fld := ⟨0xA0400, 8, 1, 0, 1⟩
abbrev INT_FN_NOTE_more : Fld := ⟨0xA0400, 8, 1, 1, 1⟩
abbrev INT_FN_NOTE_half : Fld := ⟨0xA0400, 8, 1, 4, 4⟩
abbrev INT_FN_NOTE_region : Fld := ⟨0xA0400, 8, 1, 8, 14⟩

abbrev INT_LOG_ENTRY_word : Fld := ⟨0xA8000, 32, 4, 0, 64⟩

abbrev PWR_CFG_capW : Fld := ⟨0xB0000, 8, 1, 0, 13⟩
abbrev PWR_CFG_autoDormantMs : Fld := ⟨0xB0000, 8, 1, 16, 16⟩
abbrev PWR_CFG_idleOffUs : Fld := ⟨0xB0000, 8, 1, 32, 16⟩

abbrev PWR_CMD_op : Fld := ⟨0xB0008, 8, 1, 0, 2⟩

abbrev PWR_STATUS_state : Fld := ⟨0xB0010, 8, 1, 0, 3⟩
abbrev PWR_STATUS_levelT : Fld := ⟨0xB0010, 8, 1, 3, 3⟩
abbrev PWR_STATUS_levelP : Fld := ⟨0xB0010, 8, 1, 6, 3⟩
abbrev PWR_STATUS_level : Fld := ⟨0xB0010, 8, 1, 9, 3⟩
abbrev PWR_STATUS_warning : Fld := ⟨0xB0010, 8, 1, 16, 1⟩
abbrev PWR_STATUS_throttle : Fld := ⟨0xB0010, 8, 1, 17, 1⟩
abbrev PWR_STATUS_shutdown : Fld := ⟨0xB0010, 8, 1, 18, 1⟩
abbrev PWR_STATUS_supply : Fld := ⟨0xB0010, 8, 1, 19, 1⟩
abbrev PWR_STATUS_cap : Fld := ⟨0xB0010, 8, 1, 20, 1⟩
abbrev PWR_STATUS_hardTrip : Fld := ⟨0xB0010, 8, 1, 21, 1⟩
abbrev PWR_STATUS_dormantRefused : Fld := ⟨0xB0010, 8, 1, 24, 1⟩

abbrev PWR_INPUT_volts : Fld := ⟨0xB0018, 8, 1, 0, 16⟩
abbrev PWR_INPUT_amps : Fld := ⟨0xB0018, 8, 1, 16, 16⟩
abbrev PWR_INPUT_watts : Fld := ⟨0xB0018, 8, 1, 32, 16⟩

abbrev PWR_WAKE_CFG_src : Fld := ⟨0xB0020, 8, 1, 0, 4⟩
abbrev PWR_WAKE_CFG_resume : Fld := ⟨0xB0020, 8, 1, 16, 16⟩

abbrev PWR_WAKE_AT_dt : Fld := ⟨0xB0028, 8, 1, 0, 64⟩

abbrev PWR_SKIP_THERMAL_count : Fld := ⟨0xB0030, 8, 1, 0, 64⟩

abbrev PWR_SKIP_POWER_count : Fld := ⟨0xB0038, 8, 1, 0, 64⟩

abbrev PWR_ZONE_temp : Fld := ⟨0xB0100, 8, 1, 0, 16⟩
abbrev PWR_ZONE_state : Fld := ⟨0xB0100, 8, 1, 16, 2⟩
abbrev PWR_ZONE_period : Fld := ⟨0xB0100, 8, 1, 18, 2⟩
abbrev PWR_ZONE_stamp : Fld := ⟨0xB0100, 8, 1, 32, 32⟩

abbrev PWR_PKG_TEMP_temp : Fld := ⟨0xB0188, 8, 1, 0, 16⟩
abbrev PWR_PKG_TEMP_zone : Fld := ⟨0xB0188, 8, 1, 16, 5⟩

abbrev BOOT_STATUS_state : Fld := ⟨0xC0000, 8, 1, 0, 2⟩
abbrev BOOT_STATUS_copy : Fld := ⟨0xC0000, 8, 1, 2, 1⟩
abbrev BOOT_STATUS_badA : Fld := ⟨0xC0000, 8, 1, 3, 1⟩
abbrev BOOT_STATUS_badB : Fld := ⟨0xC0000, 8, 1, 4, 1⟩
abbrev BOOT_STATUS_identityOk : Fld := ⟨0xC0000, 8, 1, 5, 1⟩
abbrev BOOT_STATUS_listFull : Fld := ⟨0xC0000, 8, 1, 6, 1⟩
abbrev BOOT_STATUS_ownerFused : Fld := ⟨0xC0000, 8, 1, 7, 1⟩
abbrev BOOT_STATUS_ownerRequired : Fld := ⟨0xC0000, 8, 1, 8, 1⟩
abbrev BOOT_STATUS_debugEnabled : Fld := ⟨0xC0000, 8, 1, 9, 1⟩
abbrev BOOT_STATUS_svnMin : Fld := ⟨0xC0000, 8, 1, 16, 7⟩
abbrev BOOT_STATUS_warmResets : Fld := ⟨0xC0000, 8, 1, 32, 32⟩

abbrev BOOT_RESET_CMD_op : Fld := ⟨0xC0008, 8, 1, 0, 2⟩

abbrev BOOT_UPDATE_ADDR_addr : Fld := ⟨0xC0010, 8, 1, 0, 64⟩

abbrev BOOT_UPDATE_LEN_len : Fld := ⟨0xC0018, 8, 1, 0, 42⟩

abbrev BOOT_UPDATE_CMD_op : Fld := ⟨0xC0020, 8, 1, 0, 4⟩

abbrev BOOT_UPDATE_STATUS_busy : Fld := ⟨0xC0028, 8, 1, 0, 1⟩
abbrev BOOT_UPDATE_STATUS_done : Fld := ⟨0xC0028, 8, 1, 1, 1⟩
abbrev BOOT_UPDATE_STATUS_error : Fld := ⟨0xC0028, 8, 1, 2, 1⟩
abbrev BOOT_UPDATE_STATUS_lost : Fld := ⟨0xC0028, 8, 1, 3, 1⟩
abbrev BOOT_UPDATE_STATUS_cause : Fld := ⟨0xC0028, 8, 1, 8, 8⟩
abbrev BOOT_UPDATE_STATUS_detail : Fld := ⟨0xC0028, 8, 1, 16, 8⟩

abbrev BOOT_FINGERPRINT_fingerprint : Fld := ⟨0xC0030, 8, 1, 0, 64⟩

abbrev BOOT_IMAGE_DIGEST_digest : Fld := ⟨0xC0040, 8, 1, 0, 64⟩

abbrev BOOT_ATTEST_ADDR_addr : Fld := ⟨0xC1000, 32, 1, 0, 64⟩

abbrev BOOT_ATTEST_CMD_start : Fld := ⟨0xC1008, 32, 1, 0, 1⟩

abbrev BOOT_ATTEST_STATUS_busy : Fld := ⟨0xC1010, 32, 1, 0, 1⟩
abbrev BOOT_ATTEST_STATUS_done : Fld := ⟨0xC1010, 32, 1, 1, 1⟩
abbrev BOOT_ATTEST_STATUS_error : Fld := ⟨0xC1010, 32, 1, 2, 1⟩
abbrev BOOT_ATTEST_STATUS_lost : Fld := ⟨0xC1010, 32, 1, 3, 1⟩

def regTable0 : List RegSpec := [
  -- DEV_ID
  ⟨0x0, 1, 8, 1, some 0x0, false, false, [(0, 16, .ro), (16, 8, .ro), (24, 8, .ro)]⟩,
  -- DEV_VERSION
  ⟨0x8, 1, 8, 1, some 0x8, false, false, [(0, 32, .ro), (32, 8, .ro), (40, 8, .ro)]⟩,
  -- DEV_FW
  ⟨0x10, 1, 8, 1, some 0x10, false, false, [(0, 32, .ro), (32, 8, .ro), (40, 1, .ro)]⟩,
  -- DEV_DT
  ⟨0x18, 1, 8, 1, some 0x18, false, false, [(0, 64, .ro)]⟩,
  -- DEV_STATUS
  ⟨0x20, 1, 8, 1, none, false, false, [(0, 2, .ro), (2, 3, .ro), (5, 1, .ro), (6, 1, .ro), (7, 1, .ro), (8, 1, .ro), (9, 1, .ro), (10, 1, .ro), (11, 1, .ro), (12, 1, .ro), (13, 4, .ro), (17, 1, .ro)]⟩,
  -- DEV_IRQ_CAUSE
  ⟨0x28, 1, 8, 1, none, false, false, [(0, 7, .w1c)]⟩,
  -- DEV_IRQ_ENABLE
  ⟨0x30, 1, 8, 1, none, false, false, [(0, 7, .rw)]⟩,
  -- DEV_SCRATCH_LO
  ⟨0x100, 4, 8, 1, none, false, false, [(0, 64, .rw)]⟩,
  -- DEV_SCRATCH_HI
  ⟨0x120, 4, 8, 1, none, false, false, [(0, 64, .rws)]⟩,
  -- DEV_FN_INFO
  ⟨0x400, 64, 8, 1, some 0x400, false, false, [(0, 6, .ro), (6, 1, .ro), (8, 4, .ro), (12, 1, .ro), (16, 16, .ro), (32, 3, .ro)]⟩,
  -- DEV_FN_SCRATCH
  ⟨0x800, 64, 8, 1, some 0x800, false, true, [(0, 64, .rw)]⟩,
  -- PKG_GRID_FRAME
  ⟨0x10000, 1, 8, 1, some 0x10000, false, false, [(0, 64, .ro)]⟩,
  -- PKG_RUN_FRAME
  ⟨0x10008, 1, 8, 1, some 0x10008, false, false, [(0, 64, .ro)]⟩,
  -- PKG_QUARTER_STATE
  ⟨0x10010, 1, 8, 1, none, false, false, [(0, 64, .ro)]⟩,
  -- VAT_SLOT_CFG
  ⟨0x20000, 1, 8, 1, none, false, false, [(0, 24, .rw), (24, 1, .rw)]⟩,
  -- VAT_EDGE_USE
  ⟨0x20008, 3, 8, 1, none, false, false, [(0, 64, .ro)]⟩,
  -- VAT_EDGE_LENT
  ⟨0x20020, 1, 8, 1, none, false, false, [(0, 64, .ro)]⟩,
  -- VAT_CONFLICT_STATUS
  ⟨0x20100, 16, 16, 1, none, false, false, [(0, 1, .w1c), (1, 1, .w1c), (2, 12, .ro), (14, 6, .ro), (24, 8, .ro), (32, 8, .ro)]⟩,
  -- VAT_CONFLICT_FRAME
  ⟨0x20108, 16, 16, 1, none, false, false, [(0, 64, .ro)]⟩,
  -- PRESS_FAULT_STATUS
  ⟨0x30000, 16, 16, 1, none, false, false, [(0, 1, .w1c), (1, 1, .w1c), (2, 6, .ro), (8, 8, .ro), (16, 6, .ro)]⟩]

def regTable1 : List RegSpec := [
  -- PRESS_FAULT_FRAME
  ⟨0x30008, 16, 16, 1, none, false, false, [(0, 64, .ro)]⟩,
  -- PRESS_POISON_DRAINS
  ⟨0x30100, 1, 8, 1, none, false, false, [(0, 64, .ro)]⟩,
  -- STK_REGION_SEL
  ⟨0x40000, 1, 8, 1, none, false, false, [(0, 4, .rw), (4, 14, .rw)]⟩,
  -- STK_REGION_ATTR
  ⟨0x40008, 1, 8, 1, none, false, false, [(0, 2, .rw), (2, 10, .rw), (12, 14, .rw), (26, 21, .rw), (47, 1, .ro)]⟩,
  -- STK_REFILL
  ⟨0x40010, 1, 8, 1, none, false, false, [(0, 14, .wo), (14, 14, .wo), (28, 4, .wo), (32, 1, .wo)]⟩,
  -- STK_REFILL_STATUS
  ⟨0x40018, 1, 8, 1, none, false, false, [(0, 1, .ro), (1, 1, .w1c), (2, 1, .w1c)]⟩,
  -- STK_LANE_CFG
  ⟨0x40020, 1, 8, 1, none, false, false, [(0, 16, .rw)]⟩,
  -- STK_LANE_SPARE
  ⟨0x40100, 8, 8, 1, none, false, false, [(0, 64, .ro)]⟩,
  -- STK_LINK_STATUS
  ⟨0x40140, 8, 8, 1, none, false, false, [(0, 1, .ro), (1, 1, .w1c), (32, 32, .ro)]⟩,
  -- STK_FAULT_STATUS
  ⟨0x40200, 16, 16, 1, none, false, false, [(0, 1, .w1c), (1, 1, .w1c), (2, 6, .ro), (8, 4, .ro), (12, 9, .ro), (21, 5, .ro)]⟩,
  -- STK_FAULT_FRAME
  ⟨0x40208, 16, 16, 1, none, false, false, [(0, 64, .ro)]⟩,
  -- STK_ROWSUM_STATUS
  ⟨0x40300, 16, 8, 1, none, false, false, [(0, 1, .w1c), (1, 1, .w1c), (2, 6, .ro), (8, 4, .ro), (12, 9, .ro), (21, 5, .ro), (26, 12, .ro)]⟩,
  -- LRT_GLOBAL_CFG
  ⟨0x50000, 1, 8, 1, none, false, false, [(0, 1, .rws)]⟩,
  -- LRT_LASER_CTRL
  ⟨0x50008, 1, 8, 1, none, false, false, [(0, 8, .rw)]⟩,
  -- LRT_LASER_STATUS
  ⟨0x50010, 1, 8, 1, none, false, false, [(0, 32, .ro)]⟩,
  -- LRT_TIME_CFG
  ⟨0x50020, 1, 8, 1, none, false, false, [(0, 8, .rw), (8, 8, .rw), (16, 8, .rw), (24, 16, .rw)]⟩,
  -- LRT_TIME_STATUS
  ⟨0x50028, 1, 8, 1, none, false, false, [(0, 1, .ro), (1, 1, .ro), (2, 1, .ro), (4, 4, .ro)]⟩,
  -- LRT_TIME_OFFSET
  ⟨0x50030, 1, 8, 1, none, false, false, [(0, 64, .ro)]⟩,
  -- LRT_PORT_CTRL
  ⟨0x51000, 16, 256, 1, none, false, false, [(0, 1, .rw), (1, 1, .rw), (2, 1, .rw), (3, 1, .wo), (16, 16, .rw), (32, 16, .rw)]⟩,
  -- LRT_PORT_STATUS
  ⟨0x51008, 16, 256, 1, none, false, false, [(0, 4, .ro), (4, 2, .ro), (6, 1, .ro), (7, 1, .w1c), (8, 1, .w1c)]⟩]

def regTable2 : List RegSpec := [
  -- LRT_PORT_LAMBDA
  ⟨0x51010, 16, 256, 1, none, false, false, [(0, 17, .ro), (32, 17, .ro), (52, 4, .ro), (56, 1, .ro)]⟩,
  -- LRT_PORT_PEER
  ⟨0x51018, 16, 256, 1, none, false, false, [(0, 64, .ro)]⟩,
  -- LRT_PORT_FEC
  ⟨0x51020, 16, 256, 1, none, false, false, [(0, 32, .ro), (32, 32, .ro)]⟩,
  -- LRT_PORT_REPLAY
  ⟨0x51028, 16, 256, 1, none, false, false, [(0, 32, .ro), (32, 32, .ro)]⟩,
  -- LRT_PORT_RTT
  ⟨0x51030, 16, 256, 1, none, false, false, [(0, 32, .ro)]⟩,
  -- LRT_PORT_DROP
  ⟨0x51040, 16, 256, 8, none, false, false, [(0, 64, .ro)]⟩,
  -- LRT_WIN_SEL
  ⟨0x52000, 4, 256, 1, none, false, false, [(0, 8, .rw)]⟩,
  -- LRT_WIN_CFG
  ⟨0x52008, 4, 256, 1, none, false, false, [(0, 2, .ro), (2, 1, .ro), (4, 4, .rw), (8, 4, .rw), (12, 1, .rw), (16, 1, .w1c), (24, 8, .ro)]⟩,
  -- LRT_WIN_PEER
  ⟨0x52010, 4, 256, 1, none, false, false, [(0, 64, .rw)]⟩,
  -- LRT_WIN_CMD
  ⟨0x52018, 4, 256, 1, none, false, false, [(0, 1, .wo), (1, 1, .wo)]⟩,
  -- LRT_WIN_BYTES
  ⟨0x52020, 4, 256, 1, none, false, false, [(0, 64, .ro)]⟩,
  -- LRT_WIN_CELLS
  ⟨0x52028, 4, 256, 1, none, false, false, [(0, 64, .ro)]⟩,
  -- LRT_WIN_DROPS
  ⟨0x52030, 4, 256, 1, none, false, false, [(0, 64, .ro)]⟩,
  -- LRT_WIN_DESC
  ⟨0x52080, 4, 256, 16, none, false, false, [(0, 64, .rw)]⟩,
  -- COL_SEL
  ⟨0x60000, 1, 8, 1, none, false, false, [(0, 4, .rw), (4, 4, .rw)]⟩,
  -- COL_GROUP_CFG
  ⟨0x60008, 1, 8, 1, none, false, false, [(0, 32, .rw), (32, 16, .rw)]⟩,
  -- COL_GROUP_STATUS
  ⟨0x60010, 1, 8, 1, none, false, false, [(0, 2, .ro), (4, 12, .ro), (16, 12, .ro), (28, 8, .ro), (36, 12, .ro), (48, 12, .ro)]⟩,
  -- COL_GROUP_EVENT
  ⟨0x60018, 1, 8, 1, none, false, false, [(0, 1, .w1c), (1, 1, .w1c), (2, 1, .w1c), (3, 1, .w1c)]⟩,
  -- COL_GROUP_WITHDRAW_DT
  ⟨0x60020, 1, 8, 1, none, false, false, [(0, 64, .ro)]⟩,
  -- PART_CFG
  ⟨0x70000, 16, 8, 1, none, false, false, [(0, 16, .rw), (16, 4, .rw)]⟩]

def regTable3 : List RegSpec := [
  -- PART_STATUS
  ⟨0x70080, 16, 8, 1, some 0x70080, true, false, [(0, 3, .ro), (3, 1, .ro), (4, 1, .w1c), (5, 1, .w1c), (16, 16, .ro), (32, 32, .ro)]⟩,
  -- PART_CMD
  ⟨0x70100, 1, 8, 1, none, false, false, [(0, 4, .wo), (4, 4, .wo)]⟩,
  -- PART_CMD_ADDR
  ⟨0x70108, 1, 8, 1, none, false, false, [(0, 64, .rw)]⟩,
  -- PART_CMD_LEN
  ⟨0x70110, 1, 8, 1, none, false, false, [(0, 40, .rw)]⟩,
  -- PART_CMD_STATUS
  ⟨0x70118, 1, 8, 1, none, false, false, [(0, 1, .ro), (1, 1, .w1c), (2, 1, .w1c), (3, 1, .w1c), (8, 8, .ro)]⟩,
  -- PART_BIND
  ⟨0x70180, 4, 8, 1, none, false, false, [(0, 64, .rw)]⟩,
  -- PART_MEAS_CFG
  ⟨0x70200, 1, 8, 1, none, false, false, [(0, 32, .rw)]⟩,
  -- PART_MEAS
  ⟨0x70400, 16, 64, 8, some 0x70400, true, false, [(0, 64, .ro)]⟩,
  -- SVC_QUAR
  ⟨0x80000, 1, 8, 1, none, false, false, [(0, 32, .w1c)]⟩,
  -- SVC_WDOG_EVENT
  ⟨0x80008, 1, 8, 1, none, false, false, [(0, 1, .w1c), (1, 5, .ro), (6, 1, .ro), (8, 8, .ro)]⟩,
  -- SVC_WDOG_DT
  ⟨0x80010, 1, 8, 1, none, false, false, [(0, 64, .ro)]⟩,
  -- HIF_LINK_STATUS
  ⟨0x90000, 1, 8, 1, none, false, false, [(0, 4, .ro), (4, 6, .ro), (10, 1, .ro)]⟩,
  -- HIF_TICK
  ⟨0x90008, 1, 8, 1, none, false, false, [(0, 7, .rw)]⟩,
  -- HIF_FWD_BUF
  ⟨0x90010, 1, 8, 1, none, false, false, [(21, 9, .rw), (32, 6, .rw)]⟩,
  -- HIF_RMT_ADDR
  ⟨0x90018, 1, 8, 1, none, false, false, [(0, 6, .rw), (32, 26, .rw)]⟩,
  -- HIF_RMT_DATA
  ⟨0x90020, 1, 8, 1, none, false, false, [(0, 64, .rw)]⟩,
  -- HIF_RMT_CMD
  ⟨0x90028, 1, 8, 1, none, false, false, [(0, 1, .wo), (1, 1, .wo)]⟩,
  -- HIF_RMT_STATUS
  ⟨0x90030, 1, 8, 1, none, false, false, [(0, 1, .ro), (1, 1, .w1c), (2, 1, .w1c), (8, 8, .ro)]⟩,
  -- HIF_FWD
  ⟨0x90110, 63, 16, 1, none, false, false, [(0, 4, .rw), (4, 1, .rw), (5, 2, .ro)]⟩,
  -- HIF_FWD_PEER
  ⟨0x90118, 63, 16, 1, none, false, false, [(0, 64, .rw)]⟩]

def regTable4 : List RegSpec := [
  -- HIF_RQ_CFG
  ⟨0x91000, 64, 128, 4, some 0x91000, false, true, [(0, 1, .rw), (4, 4, .rw), (12, 52, .rw)]⟩,
  -- HIF_RQ_WB
  ⟨0x91020, 64, 128, 4, some 0x91020, false, true, [(3, 61, .rw)]⟩,
  -- HIF_CQ_CFG
  ⟨0x91040, 64, 128, 1, some 0x91040, false, true, [(0, 1, .rw), (4, 5, .rw), (12, 52, .rw)]⟩,
  -- HIF_CQ_TAIL
  ⟨0x91048, 64, 128, 1, some 0x91048, false, true, [(3, 61, .rw)]⟩,
  -- HIF_CQ_HEAD
  ⟨0x91050, 64, 128, 1, some 0x91050, false, true, [(3, 61, .rw)]⟩,
  -- HIF_MSIX_MOD
  ⟨0x91058, 64, 128, 1, some 0x91058, false, true, [(0, 16, .rw), (16, 16, .rw)]⟩,
  -- HIF_WIN4_BASE
  ⟨0x91060, 64, 128, 1, some 0x91060, false, true, [(21, 18, .rw)]⟩,
  -- HIF_FN_STATUS
  ⟨0x91068, 64, 128, 1, some 0x91068, false, true, [(0, 1, .w1c), (1, 1, .w1c), (2, 1, .w1c), (3, 1, .w1c), (4, 1, .ro)]⟩,
  -- INT_LOG_STATUS
  ⟨0xA0000, 1, 8, 1, none, false, false, [(0, 10, .ro), (10, 11, .ro), (32, 32, .ro)]⟩,
  -- INT_LOG_HEAD
  ⟨0xA0008, 1, 8, 1, none, false, false, [(0, 10, .rw)]⟩,
  -- INT_CLASS_SEEN
  ⟨0xA0010, 1, 8, 1, none, false, false, [(0, 16, .w1c)]⟩,
  -- INT_SCRUB_CFG
  ⟨0xA0018, 1, 8, 1, none, false, false, [(0, 16, .rw), (16, 16, .rw)]⟩,
  -- INT_SCRUB_STATUS
  ⟨0xA0020, 1, 8, 1, none, false, false, [(0, 32, .ro), (32, 32, .ro)]⟩,
  -- INT_REPAIR_CMD
  ⟨0xA0028, 1, 8, 1, none, false, false, [(0, 4, .wo), (4, 4, .wo), (8, 2, .wo), (10, 2, .wo), (12, 1, .wo), (13, 3, .wo), (16, 4, .wo), (20, 14, .wo), (34, 9, .wo)]⟩,
  -- INT_REPAIR_ARG
  ⟨0xA0030, 1, 8, 1, none, false, false, [(0, 64, .rw)]⟩,
  -- INT_REPAIR_STATUS
  ⟨0xA0038, 1, 8, 1, none, false, false, [(0, 1, .ro), (1, 1, .w1c), (2, 1, .w1c), (8, 8, .ro)]⟩,
  -- INT_BIST
  ⟨0xA0100, 16, 8, 1, none, false, false, [(0, 1, .ro), (1, 1, .ro), (2, 4, .ro), (6, 8, .ro), (14, 1, .ro), (15, 1, .ro), (16, 1, .ro), (17, 1, .ro), (18, 1, .ro), (19, 2, .ro)]⟩,
  -- INT_SPARE
  ⟨0xA0180, 4, 8, 1, none, false, false, [(0, 1, .ro), (1, 4, .ro), (5, 1, .ro), (6, 5, .ro), (11, 1, .ro), (12, 5, .ro)]⟩,
  -- INT_MODULE_ADDR
  ⟨0xA0200, 16, 16, 1, none, false, false, [(0, 64, .rw)]⟩,
  -- INT_MODULE_LEN
  ⟨0xA0208, 16, 16, 1, none, false, false, [(0, 40, .rw)]⟩]

def regTable5 : List RegSpec := [
  -- INT_FN_NOTE
  ⟨0xA0400, 64, 8, 1, some 0xA0400, false, true, [(0, 1, .w1c), (1, 1, .w1c), (4, 4, .ro), (8, 14, .ro)]⟩,
  -- INT_LOG_ENTRY
  ⟨0xA8000, 1024, 32, 4, none, false, false, [(0, 64, .ro)]⟩,
  -- PWR_CFG
  ⟨0xB0000, 1, 8, 1, none, false, false, [(0, 13, .rw), (16, 16, .rw), (32, 16, .rw)]⟩,
  -- PWR_CMD
  ⟨0xB0008, 1, 8, 1, none, false, false, [(0, 2, .wo)]⟩,
  -- PWR_STATUS
  ⟨0xB0010, 1, 8, 1, none, false, false, [(0, 3, .ro), (3, 3, .ro), (6, 3, .ro), (9, 3, .ro), (16, 1, .w1c), (17, 1, .w1c), (18, 1, .w1c), (19, 1, .w1c), (20, 1, .w1c), (21, 1, .w0cs), (24, 1, .w1c)]⟩,
  -- PWR_INPUT
  ⟨0xB0018, 1, 8, 1, none, false, false, [(0, 16, .ro), (16, 16, .ro), (32, 16, .ro)]⟩,
  -- PWR_WAKE_CFG
  ⟨0xB0020, 1, 8, 1, none, false, false, [(0, 4, .rw), (16, 16, .rw)]⟩,
  -- PWR_WAKE_AT
  ⟨0xB0028, 1, 8, 1, none, false, false, [(0, 64, .rw)]⟩,
  -- PWR_SKIP_THERMAL
  ⟨0xB0030, 1, 8, 1, none, false, false, [(0, 64, .ro)]⟩,
  -- PWR_SKIP_POWER
  ⟨0xB0038, 1, 8, 1, none, false, false, [(0, 64, .ro)]⟩,
  -- PWR_ZONE
  ⟨0xB0100, 17, 8, 1, none, false, false, [(0, 16, .ro), (16, 2, .ro), (18, 2, .ro), (32, 32, .ro)]⟩,
  -- PWR_PKG_TEMP
  ⟨0xB0188, 1, 8, 1, none, false, false, [(0, 16, .ro), (16, 5, .ro)]⟩,
  -- BOOT_STATUS
  ⟨0xC0000, 1, 8, 1, none, false, false, [(0, 2, .ro), (2, 1, .ro), (3, 1, .ro), (4, 1, .ro), (5, 1, .ro), (6, 1, .ro), (7, 1, .ro), (8, 1, .ro), (9, 1, .ro), (16, 7, .ro), (32, 32, .ro)]⟩,
  -- BOOT_RESET_CMD
  ⟨0xC0008, 1, 8, 1, none, false, false, [(0, 2, .wo)]⟩,
  -- BOOT_UPDATE_ADDR
  ⟨0xC0010, 1, 8, 1, none, false, false, [(0, 64, .rw)]⟩,
  -- BOOT_UPDATE_LEN
  ⟨0xC0018, 1, 8, 1, none, false, false, [(0, 42, .rw)]⟩,
  -- BOOT_UPDATE_CMD
  ⟨0xC0020, 1, 8, 1, none, false, false, [(0, 4, .wo)]⟩,
  -- BOOT_UPDATE_STATUS
  ⟨0xC0028, 1, 8, 1, none, false, false, [(0, 1, .ro), (1, 1, .w1c), (2, 1, .w1c), (3, 1, .w1c), (8, 8, .ro), (16, 8, .ro)]⟩,
  -- BOOT_FINGERPRINT
  ⟨0xC0030, 1, 8, 1, none, false, false, [(0, 64, .ro)]⟩,
  -- BOOT_IMAGE_DIGEST
  ⟨0xC0040, 8, 8, 1, none, false, false, [(0, 64, .ro)]⟩]

def regTable6 : List RegSpec := [
  -- BOOT_ATTEST_ADDR
  ⟨0xC1000, 64, 32, 1, some 0xC1000, false, true, [(0, 64, .rw)]⟩,
  -- BOOT_ATTEST_CMD
  ⟨0xC1008, 64, 32, 1, some 0xC1008, false, true, [(0, 1, .wo)]⟩,
  -- BOOT_ATTEST_STATUS
  ⟨0xC1010, 64, 32, 1, some 0xC1010, false, true, [(0, 1, .ro), (1, 1, .w1c), (2, 1, .w1c), (3, 1, .w1c)]⟩]

/-- The register index of R381. -/
def regTable : List RegSpec := regTable0 ++ regTable1 ++ regTable2 ++ regTable3 ++ regTable4 ++ regTable5 ++ regTable6

/-- The registers whose reset value is not 0: offset, count, step, registers per index, value. -/
def resetTable : List (Nat × Nat × Nat × Nat × Nat) := [
  (0x0, 1, 8, 1, 0x10010048),
  (0x8, 1, 8, 1, 0x10100010000),
  (0x20, 1, 8, 1, 0x4),
  (0x30, 1, 8, 1, 0x7F),
  (0x20000, 1, 8, 1, 0x1221100),
  (0x40020, 1, 8, 1, 0x400),
  (0x50020, 1, 8, 1, 0xF8F800),
  (0x51000, 16, 256, 1, 0x80010000002),
  (0x60010, 1, 8, 1, 0x10000000000000),
  (0x70200, 1, 8, 1, 0x186A0),
  (0x90008, 1, 8, 1, 0x1),
  (0x91000, 64, 128, 4, 0x40),
  (0x91040, 64, 128, 1, 0x100),
  (0x91058, 64, 128, 1, 0x1),
  (0xA0018, 1, 8, 1, 0x100040),
  (0xB0000, 1, 8, 1, 0x3E8000012C0),
  (0xB0010, 1, 8, 1, 0x1),
  (0xB0020, 1, 8, 1, 0xF)]

/-- Whether `off` is a register of the family at `base`, and its index. -/
def familyIndex (base count step sub off : Nat) : Option Nat :=
  if off < base ∨ step = 0 then none
  else
    let i := (off - base) / step
    let r := (off - base) % step
    if i < count ∧ r % 8 = 0 ∧ r / 8 < sub then some (i * sub + r / 8) else none

/-- The reset value of the register at `off` (0 where no register is). -/
def regReset (off : Nat) : W64 :=
  match resetTable.find? (fun e => (familyIndex e.1 e.2.1 e.2.2.1 e.2.2.2.1 off).isSome) with
  | some e => BitVec.ofNat 64 e.2.2.2.2
  | none => 0

/-- The family and index of the register at a BAR0 offset. -/
def regFind (off : Nat) : Option (RegSpec × Nat) :=
  regTable.findSome? (fun r => (familyIndex r.off r.count r.step r.sub off).map (fun i => (r, i)))

/-- In the view of VF `f` (R375): the family and the PF index that an offset of its BAR0 names; own registers by
function, partition `p` for the partition registers. -/
def regFindVf (f p off : Nat) : Option (RegSpec × Nat) :=
  regTable.findSome? (fun r =>
    match r.vf with
    | none => none
    | some base =>
      if base ≤ off ∧ (off - base) % 8 = 0 ∧ (off - base) / 8 < r.sub then
        let j := (off - base) / 8
        if r.count = 1 then some (r, j)
        else if r.vfRo then some (r, p * r.sub + j)
        else some (r, f * r.sub + j)
      else none)

/-- The BAR0 offset of index `i` of a family. -/
def RegSpec.addr (r : RegSpec) (i : Nat) : Nat := r.off + r.step * (i / r.sub) + 8 * (i % r.sub)

end Sys2Proof.Machine
end

