-- ==== Sys2Proof/Config.lean ====
section
/-! DEFINITION. What an implementation fixes and what the manual leaves open: the free values, constants without a body
that no proof can see into. -/

namespace Sys2Proof

/-- The n-th value that the manual leaves open (log 1): any number. -/
opaque Config.freeNat : Nat → Nat

/-- The raw ML-DSA-87 identity public key of R365, derived by the security root from the fused seed (log 21). -/
opaque Config.identityKey : W256 → List Byte

/-- ML-DSA-87 signature by the identity key of a seed over a message digest, by context: 0 DX48-LINK, 1 DX48-ATTEST,
2 DX48-SPDM (R366; log 21). -/
opaque Config.sign : W256 → Nat → W512 → List Byte

/-- AES-256-GCM: the sealed cells and the tag of a codeword, by key and 96-bit nonce (R226; log 21). -/
opaque Config.seal : W256 → Nat → List LCell → List LCell × W256

/-- The aux codes of LINK cells by use, which the manual names for none of them (R219, R225, R235; log 67): 0 handshake,
1 keep-alive, 2 wavelength agreement, 3 rekeying, 4 codeword agreement, 5 the signature and encapsulation of a handshake. -/
opaque Config.linkAux : Nat → Nat

/-- The dt between the IEEE 1588 messages that a port sends (R236; log 68). -/
opaque Config.ptpInterval : Nat

/-- How MGMT cells carry management and ring traffic, which the manual lays out for none of it: the cells of a message, each as aux
and two words, and what the cells of a port so far say (R219, R301; log 63). -/
opaque Config.mgmtCells : MgmtMsg → List (Nat × Nat × Nat)
opaque Config.mgmtMsg : List LCell → MgmtMsg

/-- The SPDM 1.3 encoding of an answer, by request code and content (R370; log 21). -/
opaque Config.spdmEncode : Nat → List Byte → List Byte

/-- The answer of an MCTP control or PLDM message, by message or sensor and reading (R300; log 21). -/
opaque Config.mctpEncode : List Byte → List Byte

/-- What the answer to a configuration read holds before software wrote the register, by function and register
(R286, PCI Express; log 23). -/
opaque Config.configDefault : Nat → Nat → W32

/-- The manufacture values of the fuse array (R351; log 22). -/
opaque Config.vendorKeyHash : Nat → W512
opaque Config.identitySeed : W256

/-- The copies in the Bolold image when the part comes into use, A at 0 and B at 1 (R352; log 22); none where the
slot holds no readable copy. -/
opaque Config.flashCopy : Nat → Option ImageCopy

/-- The certificate chain and the owner endorsement in the image (R367; log 22). -/
opaque Config.flashRecord : Nat → List Byte

/-- Configuration-space register numbers that PCI Express leaves to the part: of the SR-IOV control word and NumVFs,
and of the MSI-X message control (log 23). -/
opaque Config.sriovControl : Nat
opaque Config.sriovNumVfs : Nat
opaque Config.msixControl : Nat

/-- Whether the register operands of a churn command with a bank format are FP16, else BF16 (R139 names both, and no
field of R140 tells which; log 38). -/
opaque Config.churnFp16 : Nat → Bool

/-- Plate cycles that a kernel of Ompor's library takes on a core before its results are there (R127; log 35): no rule
gives the code of one. -/
opaque Config.libraryPcs : KBody → Nat

end Sys2Proof
end

