-- ==== Sys2Proof/Machine/State.lean ====
section
/-! DEFINITION. The state of the part as plain data: every register, store, queue and mode the manual gives it, with
the queue of waiting commands, and its value right after reset. -/

namespace Sys2Proof.Machine

/-- Why a step stops. -/
inductive Fault where
  /-- The command's operands are outside what any part of the manual can produce (`WellFormed`); raised by every
  meaning before it acts. Safe: a run that the model does not continue proves nothing about the part. -/
  | illFormed
  deriving DecidableEq, Repr

/-- Why a command has no meaning. -/
inductive Refusal where
  /-- The command's meaning is not written; raised only by an arm of `exec`. Safe. -/
  | notModelled (mnemonic : String)
  deriving DecidableEq, Repr

/-- What the part puts on its links and pins. -/
inductive Out where
  /-- a host write: address, bytes, numbers of the 32-byte words sent in poisoned TLPs -/
  | hostWrite (addr : Nat) (bytes : List Byte) (poisoned : List Nat)
  /-- an MSI-X message of a function's vector -/
  | msix (fn vec : Nat)
  /-- a completion with data: function, bytes, poisoned -/
  | completion (fn : Nat) (bytes : List Byte) (poisoned : Bool)
  /-- an Unsupported Request, as completion status or by posted-request error signalling; a read returns all ones -/
  | unsupported (fn : Nat)
  /-- a configuration completion: retry status, or data -/
  | config (fn : Nat) (retry : Bool) (data : W32)
  /-- an MCTP answer on PCIe VDM or I3C -/
  | mctp (i3c : Bool) (bytes : List Byte)
  /-- a codeword on a port: cells, tag, sealed -/
  | codeword (port : Nat) (cells : List LCell) (tag : LTag) (encrypted : Bool)
  deriving DecidableEq, Repr

/-- An entry of the fault log (R314). -/
structure LogEntry where
  code : Nat := 0
  count : Nat := 0
  part : Option Nat := none
  scrub : Bool := false
  dt : Nat := 0
  kind : Nat := 0
  loc : Nat := 0
  detail : Nat := 0
  deriving DecidableEq, Repr, Inhabited

/-! ### AON, frame grid, quarters -/

/-- The always-on domain: device time with the servo's remainder and rate (R4, R237, R332). -/
structure Aon where
  powered : Bool := true
  dt : Nat := 0
  /-- millionths of a dt unit counted toward the next (log 4) -/
  frac : Nat := 0
  slewPpm : Int := 0
  /-- the servo has locked since cold reset (R237) -/
  lockedOnce : Bool := false
  /-- reference clock lost, dt on the internal oscillator (R388) -/
  refLost : Bool := false
  /-- a plate has been loaded since cold reset (R237) -/
  plateLoaded : Bool := false
  /-- dt of the last ring entry taken or partition leaving EMPTY or STOPPED (R336) -/
  idleSince : Nat := 0
  deriving DecidableEq, Repr, Inhabited

/-- The frame grid (R23, R135). -/
structure Grid where
  cur : Bool := true
  next : Bool := true
  /-- the choice for the next frame skips by the limiter alone (R331) -/
  curPower : Bool := false
  nextPower : Bool := false
  /-- refresh operations done by the banks of class b of half h, at 8h + b -/
  refresh : NMap Nat := []
  deriving DecidableEq, Repr, Inhabited

/-- Power of a quarter (R334). -/
inductive QPower where
  | off | waking | on
  deriving DecidableEq, Repr, Inhabited

/-- Service state of a quarter (R26). -/
inductive QSvc where
  | none | fenced | test | retired
  deriving DecidableEq, Repr, Inhabited

/-- A quarter (R15, R26, R321). -/
structure Quarter where
  power : QPower := .off
  svc : QSvc := .none
  /-- dt since which no partition has held it (R334) -/
  unheldSince : Nat := 0
  /-- a BIST has run since the fence, and passed (R321) -/
  bistRun : Bool := false
  bistPass : Bool := false
  /-- its stack's link has failed training (R12) -/
  linkBad : Bool := false
  deriving DecidableEq, Repr, Inhabited

/-! ### Stacks -/

/-- A region's attributes (R148, R149, R152, R158). -/
structure Region where
  kind : Nat := 0
  rowLen : Nat := 0
  sumRegion : Nat := 0
  sumOffset : Nat := 0
  retired : Bool := false
  /-- attributes that a write sets from the next frame: kind, row length, sum region, sum offset -/
  pend : Option (Nat × Nat × Nat × Nat) := none
  deriving DecidableEq, Repr, Inhabited

/-- An entry of a write-combining buffer (R154): the word at a 39-bit stack word address, bytes by mask bit. -/
structure WcbEntry where
  word : Nat
  mask : Nat
  data : Nat
  deriving DecidableEq, Repr, Inhabited

/-- A service write held on a streaming bank (R153) or a pending scrub rewrite (R311). -/
structure Held where
  word : Nat
  data : W256
  code : W16
  /-- byte mask; 2^32 - 1 for a whole word -/
  mask : Nat
  scrub : Bool
  /-- the window a cell's word counts in, and the cell's number (R239) -/
  win : Option (Nat × Nat)
  /-- bytes the cell adds when its last word lands -/
  bytes : Nat
  deriving DecidableEq, Repr, Inhabited

/-- A refill in progress (R151). -/
structure Refill where
  half : Nat
  src : Nat
  dst : Nat
  deriving DecidableEq, Repr, Inhabited

/-- A row copy in progress (R317). -/
structure RowCopy where
  half : Nat
  bank : Nat
  row : Nat
  since : Nat
  deriving DecidableEq, Repr, Inhabited

/-! ### Press and Burin -/

/-- Elements or scales held in a buffer slot: codes and poison marks by position. -/
structure Slot where
  fmt : Nat := 0
  cls : Nat := 0
  elems : NMap Nat := []
  scales : NMap Nat := []
  marks : NMap Bool := []
  smarks : NMap Bool := []
  /-- plate cycle from which the slot is usable -/
  usable : Nat := 0
  deriving DecidableEq, Repr, Inhabited

/-- A pass in flight: issue cycle, rows, tile slot, first row slot, first accumulator row. -/
structure InPass where
  t0 : Nat
  rows : Nat
  slot : Nat
  rowSlot : Nat
  acc : Nat
  deriving DecidableEq, Repr, Inhabited

/-- A Press engine (R116). -/
structure PressEng where
  tiles : NMap Slot := []
  rows : NMap Slot := []
  /-- accumulator element 512 row + column: bits and poison -/
  acc : NMap (W32 × Bool) := []
  passes : List InPass := []
  /-- cycle from which a filled accumulator row is held, by row -/
  fills : NMap Nat := []
  /-- accumulator elements whose parity does not hold (R306) -/
  par : List Nat := []
  deriving DecidableEq, Repr, Inhabited

/-- A buffered Burin store (R128): physical Vat address, data, poison. -/
structure Store where
  addr : Nat
  data : W256
  poison : Bool
  deriving DecidableEq, Repr, Inhabited

/-- A kernel call in progress on a core (R126, R127): code, place in it, the words of the call's descriptors, its plate
slots for loads, the times of its start and next issue and the end of its reservation in half plate cycles, and when each
register is usable; the words that a library kernel has loaded, whether it has its results, whether a store fell outside
its tensor, and the words stored. -/
structure Call where
  body : KBody
  pc : Nat := 0
  descs : List (List W64)
  slots : List Nat
  start : Nat
  now : Nat
  endT : Nat
  ready : NMap Nat := []
  got : Words := []
  results : Bool := false
  bad : Bool := false
  stored : List Nat := []
  deriving DecidableEq, Repr, Inhabited

/-- A Burin core (R125 to R130). -/
structure Core where
  v : NMap (W32 × Bool) := []
  sreg : NMap (W64 × Bool) := []
  preg : NMap (W32 × Bool) := []
  /-- data area by 32-bit word: bits, poison, check bits (R306) -/
  mem : NMap (W32 × Bool × Nat) := []
  /-- written marks by 32-byte line -/
  lines : NMap Bool := []
  code : NMap (Option KBody) := []
  stores : List Store := []
  /-- the call in progress, none when the kernel has ended -/
  call : Option Call := none
  taint : Bool := false
  /-- 32-bit lanes of registers whose parity does not hold (R306), by `laneV`, `laneS` and `laneP` -/
  par : List Nat := []
  deriving DecidableEq, Repr, Inhabited

/-! ### Churns -/

/-- A churn (R138). -/
structure Churn where
  /-- lane 16 r + n of the vector registers -/
  v : NMap (W16 × Bool) := []
  /-- accumulator lane 16 j + n -/
  a : NMap (W32 × Bool) := []
  cs : Nat := 0
  /-- check rows streamed since the last SUM_OUT, as pail row and check row (R150) -/
  rows : List (Nat × Nat) := []
  /-- lanes whose parity does not hold (R306): 2 n for lane n of the vector registers, 2 n + 1 for accumulator lane n -/
  par : List Nat := []
  deriving DecidableEq, Repr, Inhabited

/-- A word of a half's broadcast path or up link: data, poison, plate bank cycle of arrival, and for a word of SUM_OUT
the check rows its sum covers, as pail row and check row (R150). -/
structure LWord where
  data : W256
  poison : Bool
  at_ : Nat
  rows : List (Nat × Nat) := []
  deriving DecidableEq, Repr, Inhabited

/-- A page-address queue entry (R144): bank, pail row and check row, or none for -1; poisoned; arrival. -/
structure QEntry where
  at_ : Nat
  poison : Bool
  place : Option (Nat × Nat × Nat)
  deriving DecidableEq, Repr, Inhabited

/-- A command in flight in a half: banks, cycles, registers and lanes in use (lane n of accumulator j at
256 + 16 j + n, register r at r), streaming or not. -/
structure InChurn where
  banks : List Nat
  t0 : Nat
  t1 : Nat
  /-- last cycle of its bank reads plus one; equal to t0 when it reads no bank -/
  tRead : Nat
  uses : List (Nat × Nat)
  deriving DecidableEq, Repr, Inhabited

/-- The sequencer context of a half (R132). -/
structure Seq where
  feed : List LWord := []
  queue : List QEntry := []
  up : List LWord := []
  flight : List InChurn := []
  /-- bank that the latest indirect streaming command of a class addressed, by class -/
  last : NMap Nat := []
  /-- stack words that the plate DMA engine has read and still holds: coded words of a curd, entries of a row-sum table,
  by stack address: data, poison -/
  coded : Words := []
  /-- Vat words that it has taken for RSCHECK, by physical address -/
  taken : Words := []
  /-- check rows being written that hold a poisoned word: bank, pail row, check row (R149) -/
  badRows : List (Nat × Nat × Nat) := []
  /-- check rows covered by the SUM_OUT word that COLLECT put at a physical Vat address (R150) -/
  delivered : NMap (List (Nat × Nat)) := []
  deriving DecidableEq, Repr, Inhabited

/-! ### Work in flight on the compute plane -/

/-- Where a word that the plate DMA engine carries lands: a physical Vat word by a port, or a stack word; in an open
region a word is written only as part of a whole check row (R148). -/
inductive Put where
  | vat (addr port : Nat)
  | stk (addr : Nat) (wholeRow : Bool)
  /-- of an open region only -/
  | opened (addr : Nat)
  deriving DecidableEq, Repr, Inhabited

/-- What a unit of a plate does at a plate cycle. An activity of several cycles goes on from one to the next. -/
inductive Act where
  /-- a Press load takes the words whose cycle has come: words and cycles left, words taken -/
  | load (w : Words4) (rest : List (Nat × Nat)) (got : Words)
  /-- row i of a pass enters the array; row 0 also issues it -/
  | pass (w : Words4) (i : Nat)
  /-- a drain or a fill moves row i; the cycles of the rows after it; for a fill the cycle of its issue -/
  | drain (w : Words4) (i : Nat) (ts : List Nat)
  | fill (w : Words4) (t0 i : Nat) (ts : List Nat)
  /-- word i of an XLOAD -/
  | xload (w : Words4) (i : Nat)
  /-- check row k of a streaming command, at the place the queue gave an indirect one -/
  | stream (w : Words4) (k : Nat) (place : Option (Nat × Nat × Nat))
  /-- any other churn command issues -/
  | churn (w : Words4)
  /-- plate DMA reads a stack word, which lands where and when the list says; the link error that the word
  meets, as link and whether it is uncorrectable -/
  | get (a : Nat) (outs : List (Put × Nat)) (err : Option (Nat × Bool))
  /-- it reads a stack word that it keeps for a curd or a comparison -/
  | coded (a : Nat) (err : Option (Nat × Bool))
  /-- it decodes curd c from a base, whose words land by number -/
  | curd (base budget c : Nat) (outs : List (Nat × Put × Nat))
  /-- it takes a Vat word, which lands where and when the list says -/
  | take (a : Nat) (outs : List (Put × Nat)) (err : Option (Nat × Bool))
  /-- it takes a Vat word for RSCHECK -/
  | takeIn (a : Nat)
  /-- a word lands -/
  | put (dest : Put) (data : W256) (poison : Bool)
  /-- the row-sum entry of a check row is written: half, bank, pail row, check row -/
  | sum (half bank pail row : Nat)
  /-- a word leaves for the broadcast path of a half, a zero word where none -/
  | feed (half : Nat) (a : Option Nat) (err : Option (Nat × Bool))
  /-- a word leaves for it, one of the query words of the row that a work-list entry names -/
  | feedRow (half entry desc head k : Nat) (err : Option (Nat × Bool))
  /-- the entries of the page that a work-list entry in the Vat names leave for the page-address queue of a pool's half -/
  | queue (half pool entry : Nat)
  /-- the next word that came up the link of a half is put into the Vat -/
  | collect (half a : Nat) (err : Option (Nat × Bool))
  /-- it reads the k-th word of the row-sum table that covers the rows of some SUM_OUT words in the Vat (R150) -/
  | table (half : Nat) (sums : List Nat) (k : Nat)
  /-- RSCHECK compares: half, sum words, result words with their cycles -/
  | rsEnd (half : Nat) (sums : List Nat) (result : List (Nat × Nat))
  /-- a result word is marked poisoned, or left as it is -/
  | mark (a : Nat) (bad : Bool)
  /-- a kernel call at its first cycle: core, code offset, descriptors, slots, reservation -/
  | call (b offset : Nat) (descs : List (List W64)) (slots : List Nat) (reservation : Nat)
  /-- the core's Vat port takes a word of code, the last of which replaces what stands at an offset (R127) -/
  | patch (b a : Nat) (code : Option (Nat × KBody))
  /-- a slot of a core takes words of a load into a vector register from a place of a tensor: those of this slot, those of
  later ones, those taken -/
  | coreLoad (b d t l0 row : Nat) (now : List Nat) (rest : List (Nat × List Nat)) (got : Words)
  /-- a slot of a core takes words that its library kernel wants next -/
  | coreGet (b : Nat)
  /-- a slot of a core takes its oldest stores -/
  | coreDrain (b : Nat)
  /-- a core whose operation waits goes on -/
  | coreGo (b : Nat)
  /-- the reservation of a call ends -/
  | callEnd (b : Nat)
  deriving DecidableEq, Repr, Inhabited

/-- Work of a partition at a plate cycle counted from cold reset, 64 in each run frame (R3). -/
structure PlateEv where
  t : Nat
  p : Nat
  act : Act
  deriving DecidableEq, Repr, Inhabited

/-! ### Partitions -/

/-- A plate notice (R19), with the frame in which it was posted (R242). -/
structure Notice where
  kind : Nat
  value : Nat
  frame : Nat := 0
  deriving DecidableEq, Repr, Inhabited

/-- What a plate waits for (R70). -/
inductive WaitKind where
  | count (on : WaitOn) (cells : Bool) (target limit : Nat)
  | time (t : Nat)
  | ring
  | notice
  deriving DecidableEq, Repr, Inhabited

/-- A wait in progress: what for, the run frame and the dt at which it was reached, and the count it observes as it stood
at pc 0 of the current frame (R240). -/
structure Wait where
  kind : WaitKind
  frame : Nat
  t0 : Nat
  count : Nat
  deriving DecidableEq, Repr, Inhabited

/-- What a pending stop does at the break point (R268, R267, R343). -/
inductive StopKind where
  | stop | unload | shutdown
  deriving DecidableEq, Repr, Inhabited

/-- A candidate of a sampling row (R193, R205, R207). -/
structure Cand where
  token : Nat := 0
  poison : Bool := false
  numeric : Bool := false
  overflow : Bool := false
  /-- log-probability of the token and the alternatives -/
  lp : W32 := 0
  alts : List (Nat × W32) := []
  deriving DecidableEq, Repr, Inhabited

/-- A row of the step table (R190). -/
structure StepRow where
  slot : Nat
  pos : Nat
  first : Nat
  kind : Nat
  deriving DecidableEq, Repr, Inhabited

/-- The frame counts of a measurement window (R277): run_seg, skip_seg, link, host, notice, time, off, skip_power. -/
structure Meas where
  runSeg : Nat := 0
  skipSeg : Nat := 0
  link : Nat := 0
  host : Nat := 0
  notice : Nat := 0
  time : Nat := 0
  off : Nat := 0
  skipPower : Nat := 0
  deriving DecidableEq, Repr, Inhabited

/-- The save areas' contents (R268): per-quarter units, memories and the control record. -/
structure Saved where
  bp : Nat := 0
  seg : Nat := 0
  frame : Nat := 0
  wait : Option Wait := none
  vat : NMap Byte := []
  vatCode : NMap W16 := []
  press : NMap PressEng := []
  burin : NMap Core := []
  churn : NMap Churn := []
  /-- window byte and cell counts by die * 256 + id -/
  wins : List (Nat × Nat × Nat) := []
  sends : NMap Nat := []
  /-- group number, tag and epoch in force -/
  groups : List (Nat × Nat × Nat) := []
  deriving DecidableEq, Repr, Inhabited

/-- A send in progress (R228, R242): its partition and entry (65536 + sequence slot for a shipment, 131072 + window for one
passed on), port, group,
counter, use, and destination (peer, logical quarter, window number; the physical id itself for a shipment); the cells
still to send, the sequence of the last cell sent, and whether a withdrawal or a lost link cut it off. -/
structure Sending where
  part : Nat
  entry : Nat
  port : Nat
  group : Option Nat
  counter : Option Nat
  use : Nat
  peer : Nat
  lq : Nat
  win : Nat
  cells : List LCell
  last : Option Nat := none
  cut : Bool := false
  deriving DecidableEq, Repr, Inhabited

/-- A partition (R262 to R277). Its state code, held mask and flags stand in PART_STATUS_p. -/
structure Part where
  plate : Option PlateImage := none
  /-- physical quarter of each logical quarter (R83) -/
  bind : List Nat := []
  /-- the digests recorded when the plate passed its checks (R84, R368) -/
  passed : Bool := false
  /-- waiting for its first frame -/
  starting : Bool := false
  /-- PKG_RUN_FRAME at the segment's start, and the segment's index -/
  segStart : Nat := 0
  seg : Nat := 0
  wait : Option Wait := none
  notices : List Notice := []
  /-- posts held at a full notice queue, each with the run frame in which it was reached (R19, R28) -/
  heldPost : List (Notice × Nat) := []
  /-- pending stop and the grid frame in which it was requested (R87) -/
  stop : Option (StopKind × Nat) := none
  /-- break point at which it stopped, and its frame in the segment -/
  bp : Nat := 0
  bpOff : Nat := 0
  /-- an index fault has been logged in this step (R144) -/
  indexLogged : Bool := false
  commits : Nat := 0
  prevCommit : Nat := 0
  sends : NMap Nat := []
  hostData : Nat := 0
  /-- wait_ring releases given by the firmware -/
  releases : Nat := 0
  committed : NMap Cand := []
  rows : List StepRow := []
  /-- the commit table: rows of the last step, each with whether it appends (R196) -/
  append : List (StepRow × Bool) := []
  /-- rows of the latest step, for the verify entry point (R186) -/
  lastRows : List StepRow := []
  saved : Option Saved := none
  /-- dt at which the last own WITHDRAW left, while windows are held open (R231, R258) -/
  closing : Option Nat := none
  /-- the partition halts, rather than stops, when its windows have closed -/
  halting : Bool := false
  /-- quarters of its mask still waking for a load or resume -/
  waking : Bool := false
  /-- measurement of the current window -/
  meas : Meas := {}
  /-- a row-sum mismatch waits for KV_VERIFY (R186) -/
  kvDirty : Bool := false
  /-- the step that a halt broke off, with the first bytes of its module's digest and its commit table (R78, R87, R259) -/
  rerun : Option (Nat × List StepRow × List (StepRow × Bool)) := none
  /-- faults that poison its steps and that no repair has ended (R195, R319, R320), by key -/
  faults : List Nat := []
  deriving DecidableEq, Repr, Inhabited

/-- Phase of the partition command in progress (R266, R275). -/
inductive CmdPhase where
  /-- fetched and checked: the load goes on by PLATE_FETCH_DONE -/
  | fetched
  /-- PREEMPT: waits until every holder is STOPPED -/
  | stops
  /-- LOAD or RESUME: waits for quarters to wake -/
  | waking
  deriving DecidableEq, Repr, Inhabited

/-- The partition command in progress. -/
structure PartCmd where
  op : Nat
  p : Nat
  img : Option PlateImage
  phase : CmdPhase
  deriving DecidableEq, Repr, Inhabited

/-! ### Requests and the page manager -/

/-- States of a request (R189). -/
inductive ReqState where
  | free | admitted | prefill | decode | shipping | arriving | retired
  deriving DecidableEq, Repr, Inhabited

/-- A request table entry (R187, R189, R170, R208). -/
structure Req where
  st : ReqState := .free
  vf : Nat := 0
  part : Nat := 0
  /-- the 128-byte request record -/
  rec_ : List Byte := []
  prompt : List Nat := []
  /-- cached positions n -/
  len : Nat := 0
  /-- tokens generated, newest last -/
  gen : List Nat := []
  holds : Nat := 0
  /-- the faults whose repair it waits for, by key (R195) -/
  heldFor : List Nat := []
  cancel : Option Nat := none
  lastCommit : Nat := 0
  admission : Nat := 0
  /-- page list: page number by position -/
  pages : List (Option Nat) := []
  classOff : Option Nat := none
  /-- the overflow has been reported (R210) -/
  reported : Bool := false
  /-- generated tokens that the next prefill covers again, after a cut (R185, R186) -/
  rebuilt : Nat := 0
  /-- prompt tokens counted so far (R209) -/
  counted : Nat := 0
  /-- retired with KV_EXHAUSTED before a step; its entry stands in the record of the next commit (R176, R191) -/
  exhausted : Bool := false
  /-- its function was reset: it retires at the next commit without a record (R299) -/
  flr : Bool := false
  /-- prefill side: granted window and chunk (R254), dt of the last SHIP_REQ -/
  shipGrant : Option (Nat × Nat) := none
  shipTried : Option Nat := none
  /-- prefill side: the function on the decode side -/
  shipVf : Nat := 0
  /-- prefill side: the transfer has started; the highest use of the window that is granted -/
  shipSent : Bool := false
  shipUse : Nat := 0
  /-- prefill side: the entry of another partition of the part that takes the shipment (R211) -/
  shipLocal : Option Nat := none
  /-- decode side: the words of the manifest moved out of the window so far -/
  arrived : List (W256 × Bool) := []
  /-- decode side: the port, group key, origin member and window of the shipment -/
  shipFrom : Option (Nat × Nat × Nat × Nat) := none
  shipLen : Nat := 0
  /-- tokens of `gen` that the record's step_base already counts (R211) -/
  genBase : Nat := 0
  deriving DecidableEq, Repr, Inhabited

/-- A prefix-tree node (R178). -/
structure Node where
  key : Nat := 0
  domain : Nat := 0
  parent : Option Nat := none
  page : Nat := 0
  lastMatch : Nat := 0
  tokens : List Nat := []
  children : Nat := 0
  valid : Bool := false
  deriving DecidableEq, Repr, Inhabited

/-- The page manager's state for a pool set (R169, R178, R179). -/
structure Pool where
  counts : NMap Nat := []
  nodes : NMap Node := []
  withheld : List Nat := []
  deriving DecidableEq, Repr, Inhabited

/-! ### Host interface -/

/-- A request ring (R291, R292). -/
structure Ring where
  head : Nat := 0
  /-- expected phase bit; 1 after enabling -/
  phase : Bool := false
  wraps : Nat := 0
  deriving DecidableEq, Repr, Inhabited

/-- A completion ring (R294, R295, R298). -/
structure Cq where
  w : Nat := 0
  c : Nat := 0
  /-- records waiting for space, oldest first -/
  waiting : List (List Byte) := []
  /-- records written since vector 0 last fired -/
  n : Nat := 0
  /-- records written since the last tail writeback -/
  fresh : Nat := 0
  /-- dt of the tail writeback that carried the oldest unfired record -/
  oldest : Option Nat := none
  deriving DecidableEq, Repr, Inhabited

/-- A queued host DMA entry (R296): function, ring, tag, body. -/
structure DmaReq where
  fn : Nat
  tag : Nat
  body : List Byte
  deriving DecidableEq, Repr, Inhabited

/-- A remote register access in progress (R301): device, write, offset, data, port it goes by, start dt. -/
structure Rmt where
  dev : Nat
  write : Bool
  since : Nat
  deriving DecidableEq, Repr, Inhabited

/-- A register access held for a wake (R374): source, offset, write data and size, a read where none; for an access of the
attached device, the port over which it is answered. -/
structure HeldAccess where
  src : Src
  off : Nat
  write : Option (Nat × W64)
  port : Option Nat := none
  deriving DecidableEq, Repr, Inhabited

/-! ### Links, windows, groups -/

/-- A Leruth port (R215 to R235). State, rate, peer and counters stand in its registers. -/
structure Port where
  txSeq : Nat := 0
  rxSeq : Nat := 0
  replay : List LCell := []
  /-- cells of the replay buffer to send again -/
  resend : List LCell := []
  credits : Nat := 8192
  ctlCredits : Nat := 64
  egress : List LCell := []
  tags : List LTag := []
  ingress : List LCell := []
  discards : Nat := 0
  discarding : Bool := false
  /-- corrected symbols at 32 * codeword + wavelength of the last 2^20 codewords, and codewords received (R217) -/
  sym : NMap Nat := []
  span : Nat := 0
  /-- peer fingerprint before the port last went DOWN; windows restricted to it drop its successor -/
  prevPeer : Option W64 := none
  dropWin : Nat := 0
  drops : Nat := 0
  /-- keys of this part's direction and of the other; whether this part is the initiator of their establishment -/
  keys : Option (W256 × W256) := none
  initiator : Bool := false
  cwCount : Nat := 0
  /-- this part's nonce of the handshake, and the handshake cells sent and received (R225) -/
  nonce : Nat := 0
  hsTx : List LCell := []
  hsRx : List LCell := []
  authTries : Nat := 0
  /-- MGMT cells received that do not yet say all of their message (R301) -/
  mgmt : List LCell := []
  since : Nat := 0
  lastSent : Nat := 0
  /-- held DOWN by its optical zone or a missing laser (R340, R216) -/
  heldDown : Bool := false
  deriving DecidableEq, Repr, Inhabited

/-- A shipment that arrives at a software window (R211, R254): the ARRIVING sequence slot it is for, none where it is
discarded or passed on; the member and port it comes from, its group's key, the request id, the manifest's length and the
chunk size, the highest use granted to the sender and the chunks moved out of the window; and, where it is passed on, the port
and window it goes on by, and the highest use granted there. -/
structure Ship where
  slot : Option Nat
  origin : Nat
  port : Nat
  key : Nat
  id : Nat
  len : Nat
  chunk : Nat
  use : Nat
  moved : Nat := 0
  next : Option (Nat × Nat) := none
  nextUse : Nat := 0
  deriving DecidableEq, Repr, Inhabited

/-- A receive window (R229 to R233). -/
structure Win where
  state : Nat := 0
  plate : Bool := false
  owner : Nat := 0
  mask : Nat := 0
  enc : Bool := false
  cmdErr : Bool := false
  cause : Nat := 0
  fp : W64 := 0
  bytes : Nat := 0
  cells : Nat := 0
  drops : Nat := 0
  desc : List W64 := []
  /-- group number of a plate window, partition in owner -/
  group : Option Nat := none
  /-- a close waits for the next frame start -/
  closeReq : Bool := false
  /-- the shipment that a software window serves (R254) -/
  ship : Option Ship := none
  deriving DecidableEq, Repr, Inhabited

/-- A link of a group (R248, R249). -/
structure GLink where
  port : Nat
  peer : Nat
  fp : Option W64
  form : Bool := false
  ack : Bool := false
  withdrawn : Bool := false
  /-- the quarter binding the neighbour's FORM carried -/
  binding : Nat := 0
  /-- dt at which a WITHDRAW of the group left by the link (R231, R258) -/
  left : Option Nat := none
  deriving DecidableEq, Repr, Inhabited

/-- A group of a partition (R248 to R261). -/
structure Group where
  tag : Nat := 0
  epoch : Nat := 0
  /-- tag and epoch in force since the load -/
  inTag : Nat := 0
  inEpoch : Nat := 0
  state : Nat := 0
  member : Nat := 0
  members : Nat := 1
  cause : Nat := 0
  origin : Nat := 0
  withdrawn : Bool := false
  timeout : Bool := false
  mismatch : Bool := false
  slowSeen : Bool := false
  dt : Nat := 0
  links : List GLink := []
  /-- factor and until by origin -/
  slow : NMap (Nat × Nat) := []
  /-- highest sequence accepted by origin -/
  seen : NMap Nat := []
  seq : Nat := 0
  /-- grants held while FORMING, as window (logical quarter, number) and use -/
  heldGrants : List (Nat × Nat × Nat) := []
  /-- highest use granted, by link index * 512 + logical quarter * 32 + window -/
  grants : NMap Nat := []
  deriving DecidableEq, Repr, Inhabited

/-- A clock as an Announce gives it (R236): priority1, class, accuracy, variance, priority2, identity, steps removed. -/
structure ClockSet where
  p1 : Nat
  cls : Nat
  acc : Nat
  var : Nat
  p2 : Nat
  id : W64
  steps : Nat
  deriving DecidableEq, Repr, Inhabited

/-- IEEE 1588 state of a port (R236). -/
structure Ptp where
  syncSeq : Option Nat := none
  syncRx : Nat := 0
  /-- the latest Pdelay_Req received: sequence id and receive time -/
  reqSeq : Nat := 0
  reqRx : Nat := 0
  respSeq : Option Nat := none
  t1 : Nat := 0
  t2 : Nat := 0
  t4 : Nat := 0
  /-- measured mean path delay in ns -/
  delay : Int := 0
  /-- the best announce heard -/
  best : Option ClockSet := none
  /-- dt at which it was heard, and at which this part's latest messages left -/
  heardAt : Nat := 0
  sentAt : Nat := 0
  deriving DecidableEq, Repr, Inhabited

/-! ### Integrity, power, boot -/

/-- A repair operation in progress (R316 to R324): op, its command word, the quarter, die or region key it concerns, the
grid frame of its start, and the port and window by which a peer's words arrive. -/
structure Repair where
  op : Nat
  cmd : Nat
  arg : Nat
  since : Nat := 0
  peer : Option (Nat × Nat) := none
  deriving DecidableEq, Repr, Inhabited

/-- A temperature zone (R338 to R341). -/
structure Zone where
  /-- the zone's previous reading -/
  prev : Option Int := none
  deriving DecidableEq, Repr, Inhabited

/-- Windows of the supply, limiter and thermal rules (R328, R329, R341, R343). -/
structure Pwr where
  /-- every reading of the window so far below 36 V, above 60 V; some reading -/
  allLow : Bool := true
  allHigh : Bool := true
  anySupply : Bool := false
  /-- some reading above 60 V -/
  anyHigh : Bool := false
  /-- every reading of the window so far at or below 0.9 of the effective cap -/
  allUnder : Bool := true
  /-- every compute and DRAM reading so far below throttle minus hysteresis -/
  allCool : Bool := true
  supplyRow : Nat := 0
  /-- CAP logged in the current 1 ms window at level 4 (R346) -/
  capLogged : Bool := false
  /-- wake refused until a full window at or below 60 V (R392) -/
  overVolt : Bool := false
  /-- stamp of the shutdown in progress -/
  shutAt : Option Nat := none
  lastSlow : Nat := 0
  /-- TRIPPED was entered by a hard trip: thermtrip_n is low (R344) -/
  tripPin : Bool := false
  deriving DecidableEq, Repr, Inhabited

/-- Phase of boot (R360, R362, R388). -/
inductive BootPhase where
  /-- held in reset -/
  | held
  | running
  | recovery
  | failed
  /-- stopped by a lost reference until it is stable -/
  | refHeld
  deriving DecidableEq, Repr, Inhabited

/-- A retirement list record (R356). -/
structure RetRecord where
  op : Nat
  cmd : Nat
  arg : Nat
  dt : Nat
  good : Bool := true
  deriving DecidableEq, Repr, Inhabited

/-- The fuse array (R351). -/
structure Fuses where
  vendor0 : W512 := 0
  vendor1 : W512 := 0
  revoke : Nat := 0
  ownerHash : W512 := 0
  ownerFused : Bool := false
  ownerRequired : Bool := false
  svn : Nat := 0
  debugDisable : Bool := false
  /-- the seed ξ of R365, which no register reads -/
  identitySeed : W256 := 0
  deriving DecidableEq, Repr, Inhabited

/-- Boot, images and trust (R348 to R372). -/
structure Boot where
  phase : BootPhase := .held
  fuses : Fuses := {}
  copyA : Option ImageCopy := none
  copyB : Option ImageCopy := none
  chain : List Byte := []
  endorsement : List Byte := []
  list : List RetRecord := []
  /-- a new copy being written: slot and contents -/
  update : Option (Nat × ImageCopy) := none
  /-- bit d: the Leruth end-to-end checker of die d failed self-test, and its ports stay DISABLED (R309) -/
  e2eBad : Nat := 0
  /-- attestation requests not yet served: function, buffer address, nonce (R369) -/
  attest : List (Nat × Nat × W256) := []
  deriving DecidableEq, Repr, Inhabited

/-- The machine. -/
structure State where
  /-- the commands that wait, first in first out -/
  pending : List Instr
  /-- register bank: BAR0 offset to value; an unlisted offset holds its reset value -/
  regs : NMap W64
  aon : Aon
  grid : Grid
  quarters : NMap Quarter
  /-- bit d: die d is fenced by FENCE_DIE -/
  dieFence : Nat
  /-- Vat bytes by physical Vat address, and the code bits by word -/
  vat : NMap Byte
  vatCode : NMap W16
  /-- what the plates' units do in plate cycles to come, and the plate cycle up to which it is done (R3, R14) -/
  work : List PlateEv
  plateT : Nat
  /-- VAT_SLOT_CFG in force in this frame (R98) -/
  slotCfg : Nat
  /-- stack bytes by stack address, and the code bits by word -/
  stk : NMap Byte
  stkCode : NMap W16
  regions : NMap Region
  /-- regions mapped by loaded or stopped plates: partition, region key -/
  maps : List (Nat × Nat)
  wcb : List WcbEntry
  held : List Held
  cellSeq : Nat
  refill : Option Refill
  rowMap : List (Nat × Nat × Nat)
  rowCopy : Option RowCopy
  /-- retired banks as half * 512 + bank -/
  badBanks : List Nat
  /-- corrected errors of a lane in the current span, by stack * 2048 + lane -/
  lanes : NMap Nat
  press : NMap PressEng
  burin : NMap Core
  churn : NMap Churn
  seqs : NMap Seq
  parts : NMap Part
  bound : NMap Nat
  pcmd : Option PartCmd
  /-- measurement: start and length of the current window, running, pending W -/
  measStart : Nat
  measEnd : Nat
  measOn : Bool
  measNext : Option Nat
  reqs : NMap Req
  pools : NMap Pool
  rings : NMap Ring
  cqs : NMap Cq
  dmaQ : NMap (List DmaReq)
  cfgSpace : NMap W32
  /-- functions whose MSI-X vectors are masked; SR-IOV VF Enable and NumVFs -/
  masked : List Nat
  vfEnable : Bool
  numVfs : Nat
  /-- vectors pending behind a mask, as function * 128 + vector -/
  msixPend : List Nat
  rmt : Option Rmt
  heldAccess : List HeldAccess
  ports : NMap Port
  wins : NMap Win
  groups : NMap Group
  sendings : List Sending
  ptp : NMap Ptp
  log : NMap LogEntry
  repair : Option Repair
  /-- next bank word address to scrub, by half * 512 + bank, and by Vat bank -/
  scrubStk : NMap Nat
  scrubVat : NMap Nat
  /-- banks that have completed the current sweep -/
  stkLaps : NMap Bool
  vatLaps : NMap Bool
  /-- spares that have not passed their last BIST, as die * 3 + spare -/
  badSpares : List Nat
  zones : NMap Zone
  pwr : Pwr
  boot : Boot
  out : List Out
  /-- free values drawn so far (the model's own) -/
  free : Nat
  deriving DecidableEq, Repr

/-- The fuse array as manufactured (log 22). -/
def manufactured : Fuses :=
  { vendor0 := Config.vendorKeyHash 0, vendor1 := Config.vendorKeyHash 1, identitySeed := Config.identitySeed }

/-- The machine right after reset, before the boot runs. -/
def State.reset : State :=
  { pending := [], regs := [], aon := {}, grid := {}, quarters := [], dieFence := 0,
    vat := [], vatCode := [], work := [], plateT := 0, slotCfg := 0x1221100, stk := [], stkCode := [], regions := [], maps := [],
    wcb := [], held := [], cellSeq := 0, refill := none, rowMap := [], rowCopy := none, badBanks := [], lanes := [],
    press := [], burin := [], churn := [], seqs := [], parts := [], bound := [], pcmd := none,
    measStart := 0, measEnd := 100000, measOn := true, measNext := none, reqs := [], pools := [], rings := [],
    cqs := [], dmaQ := [], cfgSpace := [], masked := [], vfEnable := false, numVfs := 0, msixPend := [], rmt := none, heldAccess := [], ports := [], wins := [],
    groups := [], sendings := [], ptp := [], log := [], repair := none, scrubStk := [], scrubVat := [], stkLaps := [],
    vatLaps := [], badSpares := [], zones := [], pwr := {},
    boot := { fuses := manufactured, copyA := Config.flashCopy 0, copyB := Config.flashCopy 1,
              chain := Config.flashRecord 0, endorsement := Config.flashRecord 1 },
    out := [], free := 0 }

end Sys2Proof.Machine
end

