-- ==== Sys2Proof/Machine/Ops.lean ====
section
/-! DEFINITION. The named operations over the state: registers, outputs, interrupts, quarters, the Vat, the stacks. -/

namespace Sys2Proof.Machine

open Sys2Proof

/-! ### Outcomes -/

/-- The outcome of every meaning. -/
abbrev Result := Host.Outcome State Fault Refusal

/-- A command whose operands the manual can produce acts; another one is the fault `illFormed`. -/
def State.act (s : State) (ok : Bool) (f : State → State) : Result :=
  if ok then .next (f s) else .fault .illFormed

/-! ### Registers -/

/-- The 64 bits held for the register at a BAR0 offset. -/
def State.reg (s : State) (a : Nat) : W64 := mget (regReset a) s.regs a

def State.setReg (s : State) (a : Nat) (v : W64) : State := { s with regs := mset (regReset a) s.regs a v }

/-- Field `f` of the register of index `i`. -/
def State.rd (s : State) (f : Fld) (i : Nat) : Nat := bits (s.reg (f.addr i)).toNat f.lo f.wid

/-- `s` with field `f` of index `i` set to `v`. -/
def State.wr (s : State) (f : Fld) (i v : Nat) : State :=
  s.setReg (f.addr i) (BitVec.ofNat 64 (setBits (s.reg (f.addr i)).toNat f.lo f.wid v))

/-- Whether a one-bit field is set. -/
def State.on (s : State) (f : Fld) (i : Nat) : Bool := s.rd f i == 1

/-- A counter that wraps at its field's width. -/
def State.inc (s : State) (f : Fld) (i n : Nat) : State := s.wr f i (s.rd f i + n)

/-- A counter that saturates at its field's width. -/
def State.incSat (s : State) (f : Fld) (i n : Nat) : State := s.wr f i (Nat.min (2 ^ f.wid - 1) (s.rd f i + n))

/-- Several fields of one index set in order. -/
def State.wrs (s : State) (i : Nat) (fs : List (Fld × Nat)) : State := fs.foldl (fun s e => s.wr e.1 i e.2) s

/-! ### Outputs, free values, interrupts -/

/-- Put something on a link or pin. -/
def State.emit (s : State) (o : Out) : State := { s with out := s.out ++ [o] }

/-- The next free value. -/
def State.freeVal (s : State) : Nat := Config.freeNat s.free

/-- Advance to the next free value. -/
def State.drawn (s : State) : State := { s with free := s.free + 1 }

/-- Device time. -/
def State.dt (s : State) : Nat := s.aon.dt

/-- An MSI-X vector fires; a masked one is marked pending (R298). -/
def State.fire (s : State) (fn vec : Nat) : State :=
  if s.masked.contains fn then { s with msixPend := if s.msixPend.contains (fn * 128 + vec) then s.msixPend else s.msixPend ++ [fn * 128 + vec] }
  else s.emit (.msix fn vec)

/-- A part event: its bit of DEV_IRQ_CAUSE, and PF vector 3 when enabled (R379). -/
def State.partEvent (s : State) (b : Nat) : State :=
  let s' := s.wr DEV_IRQ_CAUSE_cause 0 (s.rd DEV_IRQ_CAUSE_cause 0 ||| 2 ^ b)
  if bit (s.rd DEV_IRQ_ENABLE_enable 0) b then s'.fire 0 3 else s'

/-- A bit of HIF_FN_STATUS_f is set; vector 1 fires when it is newly set (R298). -/
def State.fnFlag (s : State) (fn : Nat) (f : Fld) : State :=
  if s.on f fn then s else (s.wr f fn 1).fire fn 1

/-! ### The fault log (R313, R314) -/

/-- Where a fault lies (R314): kind and location. -/
structure Loc where
  kind : Nat
  loc : Nat
  deriving DecidableEq, Repr

def Loc.none : Loc := ⟨0, 0⟩
def Loc.vat (a : Nat) : Loc := ⟨1, a⟩
/-- A stack byte address: half in [38:35], offset in [34:0]. -/
def Loc.stack (a : Nat) : Loc := ⟨2, a / 2 ^ 35 + 16 * (a % 2 ^ 35)⟩
def Loc.unit (u : Nat) : Loc := ⟨3, u⟩
def Loc.port (j : Nat) : Loc := ⟨4, j⟩
def Loc.input (i : Nat) : Loc := ⟨5, i⟩
def Loc.fn (f : Nat) : Loc := ⟨6, f⟩
def Loc.link (l : Nat) : Loc := ⟨7, l⟩

/-- Set the class bit of a fault code. -/
def State.classSeen (s : State) (code : Nat) : State :=
  s.wr INT_CLASS_SEEN_class 0 (s.rd INT_CLASS_SEEN_class 0 ||| 2 ^ (code / 256))

/-- A fault event: coalesced into the newest unread entry, lost when the log is full, or written at the tail (R313). -/
def State.logEvent (s : State) (code : Nat) (part : Option Nat) (scrub : Bool) (l : Loc) (detail : Nat) : State :=
  let s := s.classSeen code
  let tail := s.rd INT_LOG_STATUS_tail 0
  let unread := s.rd INT_LOG_STATUS_unread 0
  let newest := (tail + 1023) % 1024
  let e := s.log.get newest
  if unread ≠ 0 ∧ e.code = code ∧ e.part = part ∧ e.kind = l.kind ∧ e.loc = l.loc then
    { s with log := s.log.set newest { e with count := Nat.min 255 (e.count + 1) } }
  else if unread = 1024 then s.incSat INT_LOG_STATUS_lost 0 1
  else
    let s := { s with log := s.log.set tail ⟨code, 1, part, scrub, s.aon.dt, l.kind, l.loc, detail⟩ }
    ((s.wr INT_LOG_STATUS_tail 0 ((tail + 1) % 1024)).wr INT_LOG_STATUS_unread 0 (unread + 1)).partEvent 0

/-- PARITY for each lane of a unit of a partition that fails its check (R306). -/
def State.parityLog (s : State) (p : Nat) (l : Loc) (hit : List Nat) : State :=
  hit.foldl (fun s _ => s.logEvent 0x0107 (some p) false l 0) s

/-- A fault of no partition, with no detail. -/
def State.fault (s : State) (code : Nat) (l : Loc) : State := s.logEvent code none false l 0

/-! ### Quarters (R26, R262) -/

def State.q (s : State) (i : Nat) : Quarter := s.quarters.get i
def State.setQ (s : State) (i : Nat) (f : Quarter → Quarter) : State := { s with quarters := s.quarters.upd i f }
def State.part (s : State) (p : Nat) : Part := s.parts.get p
def State.updPart (s : State) (p : Nat) (f : Part → Part) : State := { s with parts := s.parts.upd p f }

/-- PART_STATUS_p.state. -/
def State.pstate (s : State) (p : Nat) : Nat := s.rd PART_STATUS_state p

/-- The quarter numbers of a mask. -/
def maskQs (m : Nat) : List Nat := (upto 16).filter (fun q => bit m q)

/-- The partition that holds quarter q (R262). -/
def State.holder (s : State) (q : Nat) : Option Nat := (upto 16).find? (fun p => bit (s.rd PART_STATUS_held p) q)

/-- Whether a STOPPED partition's mask names quarter q (R275). -/
def State.namedStopped (s : State) (q : Nat) : Bool :=
  (upto 16).any (fun p => s.pstate p == 5 && bit (s.rd PART_CFG_quarters p) q)

/-- The code of R26 that PKG_QUARTER_STATE reports for quarter q. -/
def State.quarterCode (s : State) (q : Nat) : Nat :=
  match (s.q q).svc with
  | .retired => 7
  | .test => 6
  | .fenced => 5
  | .none =>
    if (s.holder q).isSome then (if (s.q q).power = .waking then 1 else 3)
    else if s.namedStopped q then 4
    else match (s.q q).power with
      | .off => 0
      | .waking => 1
      | .on => 2

/-- Whether a command may take quarter q: held by nobody, and IDLE, OFF or STOPPED (R266, R271). -/
def State.takeable (s : State) (q : Nat) : Bool :=
  (s.holder q).isNone && (s.q q).svc == .none && !bit s.dieFence (q / 4)

/-- The quarters of a partition's mask. -/
def State.maskOf (s : State) (p : Nat) : List Nat := maskQs (s.rd PART_CFG_quarters p)

/-- The quarters a partition holds. -/
def State.heldQs (s : State) (p : Nat) : List Nat := maskQs (s.rd PART_STATUS_held p)

/-- Physical quarter of a partition's logical quarter. -/
def State.phys (s : State) (p lq : Nat) : Option Nat := (s.part p).bind[lq]?

/-- Run a function for each of a list. -/
def State.each {α : Type} (s : State) (l : List α) (f : State → α → State) : State := l.foldl f s

/-! ### The Vat (R94 to R96, R303 to R305) -/

/-- The 32 data bytes at a physical Vat word address. -/
def State.vatWord (s : State) (a : Nat) : W256 := BitVec.ofNat 256 (leNat ((upto 32).map (fun i => mget 0 s.vat (a + i))))
def State.vatCodeAt (s : State) (a : Nat) : W16 := mget 0 s.vatCode (a / 32)

/-- Bytes written from an address on. -/
def putBytes (m : NMap Byte) (a : Nat) (bs : List Byte) : NMap Byte :=
  (bs.foldl (fun (acc : NMap Byte × Nat) b => (mset 0 acc.1 acc.2 b, acc.2 + 1)) (m, a)).1

/-- A word stored as it stands, with its code bits. -/
def State.vatRaw (s : State) (a : Nat) (d : W256) (code : W16) : State :=
  { s with vat := putBytes s.vat a (leBytes 32 d.toNat), vatCode := mset 0 s.vatCode (a / 32) code }

/-- A whole-word write with valid check bits. -/
def State.vatPut (s : State) (a : Nat) (d : W256) (poison : Bool) : State := s.vatRaw a d (eccCode d poison)

/-- What the checker finds at a Vat word. -/
def State.vatEcc (s : State) (a : Nat) : EccRead := eccRead (s.vatWord a) (s.vatCodeAt a)

/-- Log what a checked Vat read found (R305). -/
def State.vatLog (s : State) (a : Nat) (scrub : Bool) : State :=
  let r := s.vatEcc a
  r.res.pick s (s.logEvent 0x0101 (s.holder (a / 2 ^ 26)) scrub (.vat a) r.detail)
    (s.logEvent 0x0102 (s.holder (a / 2 ^ 26)) scrub (.vat a) r.detail)

/-- A physical Vat address that holds a word (R95). -/
def vatPopulated (a : Nat) : Bool := decide (a < 2 ^ 30) && decide (a % 2 ^ 26 < 0x3000000)

/-- The Vat bank of a physical Vat address. -/
def vatBank (a : Nat) : Nat := 256 * (a / 2 ^ 26) + a / 32 % 256

/-- The physical word address of offset o through a swizzle, in physical quarter q (R96). -/
def vatPlace (q o shift mask : Nat) : Nat :=
  let w := o / 8192
  q * 2 ^ 26 + w * 8192 + ((o / 32 % 256) ^^^ ((w / 2 ^ shift % 256) &&& mask)) * 32

/-- A partial write merged into a word by byte mask. -/
def mergeBytes (old new : W256) (mask : Nat) : W256 :=
  BitVec.ofNat 256 (leNat ((upto 32).map (fun i => BitVec.ofNat 8 (bits (if bit mask i then new.toNat else old.toNat) (8 * i) 8))))

/-- All 32 bytes. -/
def fullMask : Nat := 2 ^ 32 - 1

/-- Every word of a quarter's banks zero with valid check bits (R94). -/
def State.vatClear (s : State) (q : Nat) : State :=
  { s with vat := s.vat.keep (fun a => a / 2 ^ 26 != q), vatCode := s.vatCode.keep (fun w => w / 2 ^ 21 != q) }

/-- What a quarter that leaves OFF finds cleared: its Vat, and its Press buffers and churns (R94, R116, R138). -/
def State.quarterClear (s : State) (q : Nat) : State :=
  { s.vatClear q with
    press := s.press.keep (fun e => e / 4 != q)
    churn := s.churn.keep (fun c => c / 512 != q)
    seqs := s.seqs.keep (fun h => h != q) }

/-- A class owns an edge slot in the setting in force. -/
def State.edgeOwned (s : State) (cls : Nat) : Bool := (upto 6).any (fun i => bits s.slotCfg (4 * i) 2 == cls)

/-- Some edge slot can carry a class's accesses: its own, or a lent one. The accesses of a class that no slot can carry wait until
the setting changes (R98; log 57). -/
def State.edgeOpen (s : State) (cls : Nat) : Bool := s.edgeOwned cls || bit s.slotCfg 24

/-- A class of edge requesters makes n accesses to the Vat. Which of them fall in slots the class owns and which in lent
ones is timing, so where both may be it is a free value (R98, R112; log 57). -/
def State.edgeUse (s : State) (cls n : Nat) : State :=
  let owned := s.edgeOwned cls
  let k := if !owned then 0 else if !bit s.slotCfg 24 then n else s.freeVal % (n + 1)
  if n = 0 then s else ((s.drawn).inc VAT_EDGE_USE_count cls k).inc VAT_EDGE_LENT_count 0 (n - k)

/-! ### Stack memory (R134, R148 to R154) -/

/-- Half, region, bank, pail row and word in the pail of a stack byte address. -/
def stkHalf (a : Nat) : Nat := a / 2 ^ 35
def stkRegion (a : Nat) : Nat := a % 2 ^ 35 / 2 ^ 21
def stkBank (a : Nat) : Nat := a / 2 ^ 14 % 512
def stkPail (a : Nat) : Nat := a % 2 ^ 35 / 2 ^ 23
def stkWordNo (a : Nat) : Nat := a / 32 % 512
/-- The stack byte address of a word of a pail (R134). -/
def stkAddr (half bank pail word : Nat) : Nat := half * 2 ^ 35 + pail * 2 ^ 23 + bank * 2 ^ 14 + word * 32

/-- The key of a region. -/
def regionKey (half r : Nat) : Nat := half * 16384 + r
def State.region (s : State) (half r : Nat) : Region := s.regions.get (regionKey half r)

/-- The save and load areas (R269). -/
def areaRegion (r : Nat) : Bool := decide (16302 ≤ r)

/-- The kind of R148 in force: a retired page reads as unused, and the save and load areas are sealed. -/
def State.kindOf (s : State) (half r : Nat) : Nat :=
  let g := s.region half r
  if g.retired then 0 else if areaRegion r then 1 else g.kind

/-- Kind at a stack address. -/
def State.kindAt (s : State) (a : Nat) : Nat := s.kindOf (stkHalf a) (stkRegion a)

/-- Sealed, plain or skim-W. -/
def sealedKind (k : Nat) : Bool := k == 1 || k == 3

def State.stkWord (s : State) (a : Nat) : W256 := BitVec.ofNat 256 (leNat ((upto 32).map (fun i => mget 0 s.stk (a + i))))
def State.stkCodeAt (s : State) (a : Nat) : W16 := mget 0 s.stkCode (a / 32)

def State.stkRaw (s : State) (a : Nat) (d : W256) (code : W16) : State :=
  { s with stk := putBytes s.stk a (leBytes 32 d.toNat), stkCode := mset 0 s.stkCode (a / 32) code }

/-- A whole-word write: check bits in a sealed region, zero code bits in an open one, dropped in an unused one
(R148). A pending scrub rewrite of the word is dropped (R311). -/
def State.stkPut (s : State) (a : Nat) (d : W256) (poison : Bool) : State :=
  let k := s.kindAt a
  let s := { s with held := s.held.filter (fun h => !(h.scrub && h.word == a)) }
  if sealedKind k then s.stkRaw a d (eccCode d poison) else if k = 2 then s.stkRaw a d 0 else s

def State.stkEcc (s : State) (a : Nat) : EccRead := eccRead (s.stkWord a) (s.stkCodeAt a)

/-- The partitions that map a region (R270). -/
def State.mapped (s : State) (half r : Nat) : Option Nat :=
  (s.maps.find? (fun m => m.2 == regionKey half r)).map (·.1)

/-- The partition a fault at a stack address concerns. -/
def State.stkPart (s : State) (a : Nat) : Option Nat :=
  match s.mapped (stkHalf a) (stkRegion a) with
  | some p => some p
  | none => s.holder (stkHalf a)

/-- The serving attributes of a partition's plate. -/
def State.serving (s : State) (p : Nat) : Option ServingSpec := (s.part p).plate.bind (fun pl => pl.body.serving)

/-- Bytes of a token record (R174). -/
def tokenBytes (D : Nat) : Nat := 4 * D

/-- A stack address in a tail slot of a partition's pools (R174). -/
def State.inTails (s : State) (p a : Nat) : Bool :=
  match s.serving p with
  | none => false
  | some v => v.pools.any (fun o => s.phys p o.lq == some (stkHalf a) && decide (o.tails ≤ a % 2 ^ 35) &&
      decide (a % 2 ^ 35 < o.tails + 16384 * tokenBytes v.headDim))

/-- Keys of the faults that hold requests (R195): a sealed region by its own key, the row sums of the pools, the tails, and a
check row of an open working copy by the address of its first word. -/
abbrev faultPool : Nat := 2 ^ 18
abbrev faultTail : Nat := 2 ^ 18 + 1
def faultRow (a : Nat) : Nat := 2 ^ 40 + a

/-- The faults of a region: its own, and those of its check rows. -/
def regionFault (half r k : Nat) : Bool :=
  k == regionKey half r || (decide (2 ^ 40 ≤ k) && stkHalf (k - 2 ^ 40) == half && stkRegion (k - 2 ^ 40) == r)

/-- A fault poisons the steps of a partition from now on. -/
def State.addFault (s : State) (p k : Nat) : State :=
  s.updPart p (fun x => { x with faults := if x.faults.contains k then x.faults else x.faults ++ [k] })

/-- The repair of some faults of a partition has ended, and no request is held for them any more (R195, R320). -/
def State.repaired (s : State) (p : Nat) (ks : Nat → Bool) : State :=
  let s := s.updPart p (fun x => { x with faults := x.faults.filter (fun k => !ks k) })
  { s with reqs := s.reqs.foldl (fun (m : NMap Req) e =>
      if e.2.part = p then NMap.set m e.1 { e.2 with heldFor := e.2.heldFor.filter (fun k => !ks k) } else m) s.reqs }

/-- An uncorrectable word of a mapped sealed region is noted for every function bound to the partition (R319). -/
def State.noteRegion (s : State) (a : Nat) : State :=
  match s.mapped (stkHalf a) (stkRegion a) with
  | none => s
  | some p =>
    (s.addFault p (if s.inTails p a then faultTail else regionKey (stkHalf a) (stkRegion a))).each ((upto 64).filter (fun f => s.bound.get f == p)) (fun s f =>
      if s.on INT_FN_NOTE_valid f then
        (if s.rd INT_FN_NOTE_half f = stkHalf a ∧ s.rd INT_FN_NOTE_region f = stkRegion a then s else s.wr INT_FN_NOTE_more f 1)
      else s.wrs f [(INT_FN_NOTE_valid, 1), (INT_FN_NOTE_half, stkHalf a), (INT_FN_NOTE_region, stkRegion a)])

/-- Training of stack link k, with failing lanes among those in use as (link, group, lane): a group's spare takes the place of one,
and with two, its spare counted, the link fails (R156; log 101). Answers whether it trained. -/
def State.trainLanes (s : State) (lanes : List (Nat × Nat × Nat)) (k : Nat) : State × Bool :=
  let used := s.rd STK_LANE_SPARE_spareUsed k
  let n (g : Nat) : Nat := (lanes.dedup.filter (fun l => l.1 == k && l.2.1 == g)).length
  (s.wr STK_LANE_SPARE_spareUsed k ((upto 64).foldl (fun m g => if n g = 0 then m else m ||| 2 ^ g) used),
    (upto 64).all (fun g => decide (n g + b2n (bit used g && decide (0 < n g)) ≤ 1)))

/-- Lanes are named as a part has them. -/
def lanesOk (lanes : List (Nat × Nat × Nat)) : Bool :=
  lanes.all (fun l => decide (l.1 < 8) && decide (l.2.1 < 64) && decide (l.2.2 < 32))

/-- Log what a checked stack read found (R305, R319). -/
def State.stkLog (s : State) (a : Nat) (scrub : Bool) : State :=
  let r := s.stkEcc a
  r.res.pick s (s.logEvent 0x0103 (s.stkPart a) scrub (.stack a) r.detail)
    ((s.logEvent 0x0104 (s.stkPart a) scrub (.stack a) r.detail).noteRegion a)

/-- Data and poison of a read by plate DMA, the host or a host DMA engine (R148). -/
def State.stkRead (s : State) (a : Nat) : W256 × Bool :=
  let k := s.kindAt a
  if sealedKind k then let r := s.stkEcc a; (r.data, r.poison)
  else if k = 2 then (s.stkWord a, false)
  else (0, true)

/-- The log of such a read. -/
def State.stkReadLog (s : State) (a : Nat) : State := if sealedKind (s.kindAt a) then s.stkLog a false else s

/-! ### Check rows and row sums (R149, R150) -/

/-- Whether a region may be streamed: open with a row length of 1 to 512. -/
def Region.rowOk (g : Region) : Bool := decide (1 ≤ g.rowLen) && decide (g.rowLen ≤ 512)

/-- The stack byte address of the row-sum entry of check row `row` of a pail of `bank` (R149), from the region's
attributes. -/
def sumAddr (half : Nat) (g : Region) (bank row : Nat) : Nat :=
  half * 2 ^ 35 + g.sumRegion * 2 ^ 21 + g.sumOffset + 4 * (bank % 128 * (512 / Nat.max 1 g.rowLen) + row)

/-- The recorded sum of a check row, and whether its word is uncorrectable. -/
def State.sumEntry (s : State) (half : Nat) (g : Region) (bank row : Nat) : Nat × Bool :=
  let a := sumAddr half g bank row
  let r := s.stkEcc (a / 32 * 32)
  (bits r.data.toNat (8 * (a % 32)) 32, r.res == .uncorrectable)

/-- Record the sum of a check row, in its sealed table word. -/
def State.putSum (s : State) (half : Nat) (g : Region) (bank row v : Nat) : State :=
  let a := sumAddr half g bank row
  let w := a / 32 * 32
  let r := s.stkEcc w
  s.stkRaw w (BitVec.ofNat 256 (setBits r.data.toNat (8 * (a % 32)) 32 v))
    (eccCode (BitVec.ofNat 256 (setBits r.data.toNat (8 * (a % 32)) 32 v)) (r.res == .uncorrectable))

/-- The words of a check row. -/
def rowWords (half bank pail row len : Nat) : List Nat := (upto len).map (fun i => stkAddr half bank pail (row * len + i))

/-! ### Service access to the stacks (R153, R154) -/

/-- Plate bank cycles are counted from cold reset: 29 in each run frame (R137). -/
def State.bcEnd (s : State) : Nat := (s.rd PKG_RUN_FRAME_runFrame 0 + 1) * 29

/-- A streaming command is in flight on the bank in the service cycle of the current frame (R136, R153). -/
def State.streaming (s : State) (half bank : Nat) : Bool :=
  (s.seqs.get half).flight.any (fun f => f.banks.contains bank && decide (f.t0 < s.bcEnd) && decide (s.bcEnd < f.tRead))

/-- A whole-word service write lands: it replaces what a pending buffer entry or scrub rewrite would write. -/
def State.svcLand (s : State) (a : Nat) (d : W256) (code : W16) : State :=
  let s := { s with wcb := s.wcb.filter (fun e => e.word != a), held := s.held.filter (fun h => !(h.scrub && h.word == a)) }
  let k := s.kindAt a
  if sealedKind k then s.stkRaw a d code else if k = 2 then s.stkRaw a d 0 else s

/-- The base die reads the old word of a buffer entry, merges the pending bytes and writes the word (R154). -/
def State.wcbLand (s : State) (e : WcbEntry) : State :=
  let r := s.stkEcc e.word
  let d := mergeBytes r.data (BitVec.ofNat 256 e.data) e.mask
  let s := s.stkLog e.word false
  { s.stkRaw e.word d (eccCode d (r.res == .uncorrectable || r.poison)) with
    wcb := s.wcb.filter (fun x => x.word != e.word)
    held := s.held.filter (fun h => !(h.scrub && h.word == e.word)) }

/-- Drain the write-combining buffer of a half. -/
def State.wcbDrain (s : State) (half : Nat) : State :=
  s.each (s.wcb.filter (fun e => stkHalf e.word == half)) State.wcbLand

/-- A partial write to a sealed word: merged into its entry, or a new entry; with 64 in use the oldest merges first
(R154; log 25). -/
def State.wcbPut (s : State) (a : Nat) (d : W256) (mask : Nat) : State :=
  let mine := s.wcb.filter (fun e => stkHalf e.word == stkHalf a)
  if s.wcb.any (fun e => e.word == a) then
    { s with wcb := s.wcb.map (fun e => if e.word = a then
        ⟨a, e.mask ||| mask, (mergeBytes (BitVec.ofNat 256 e.data) d mask).toNat⟩ else e) }
  else
    let s := if mine.length < 64 then s else match mine.head? with | some e => s.wcbLand e | none => s
    { s with wcb := s.wcb ++ [⟨a, mask, d.toNat⟩] }

/-- The value a host read of a stack word returns: held writes and pending buffer bytes over the stored word
(R153). -/
def State.svcRead (s : State) (a : Nat) : W256 × Bool :=
  let base := s.stkRead a
  let base := (s.held.filter (fun h => h.word == a && !h.scrub)).foldl
    (fun (acc : W256 × Bool) h => (mergeBytes acc.1 h.data h.mask, if h.mask = fullMask then bit h.code.toNat 10 else acc.2)) base
  (s.wcb.filter (fun e => e.word == a)).foldl (fun (acc : W256 × Bool) e => (mergeBytes acc.1 (BitVec.ofNat 256 e.data) e.mask, acc.2)) base

/-- A service write of a word is held (R153); what comes later for the word waits behind it. -/
def State.waitsHeld (s : State) (a : Nat) : Bool := s.held.any (fun h => h.word == a && !h.scrub)

/-- Hold a write. A scrub rewrite of the word is dropped, and a whole word frees the buffer entry it hits (R154, R311). -/
def State.hold (s : State) (h : Held) : State :=
  { s with
    held := s.held.filter (fun x => !(x.scrub && x.word == h.word)) ++ [h]
    wcb := if h.mask = fullMask then s.wcb.filter (fun e => e.word != h.word) else s.wcb }

/-- A service write of the masked bytes of a stack word (R148, R153, R154). A partial write to a sealed word that is held
merges with what is pending, in arrival order (log 25). -/
def State.svcWrite (s : State) (a : Nat) (d : W256) (poison : Bool) (mask : Nat) : State :=
  let k := s.kindAt a
  if k = 0 then s
  else if mask ≠ fullMask ∧ sealedKind k then
    (if s.waitsHeld a then
      let old := s.svcRead a
      let new := mergeBytes old.1 d mask
      s.hold ⟨a, new, eccCode new old.2, fullMask, false, none, 0⟩
    else s.wcbPut a d mask)
  else
    let code := if sealedKind k then eccCode d poison else 0
    if s.streaming (stkHalf a) (stkBank a) ∨ s.waitsHeld a then s.hold ⟨a, d, code, mask, false, none, 0⟩
    else if mask = fullMask then s.svcLand a d code
    else s.stkRaw a (mergeBytes (s.stkWord a) d mask) 0

/-- The service plane writes a whole word of a sealed region. -/
def State.svcPut (s : State) (a : Nat) (d : W256) (poison : Bool) : State := s.svcWrite a d poison fullMask

/-- The service plane writes a whole check row of an open region with its row sum; a row with a poisoned word records its sum
XOR 1 (R149, R153, R312). -/
def State.putRow (s : State) (half bank pail row : Nat) (g : Region) (ws : List (W256 × Bool)) : State :=
  let s := s.each (List.zip (rowWords half bank pail row g.rowLen) ws) (fun s e => s.svcPut e.1 e.2.1 false)
  let sum := rowSum (ws.map (·.1))
  let v := if ws.any (·.2) then sum ^^^ 1 else sum
  let a := sumAddr half g bank row
  let old := s.svcRead (a / 32 * 32)
  s.svcPut (a / 32 * 32) (BitVec.ofNat 256 (setBits old.1.toNat (8 * (a % 32)) 32 v)) old.2

end Sys2Proof.Machine
end

