-- ==== Sys2Proof/Machine/Access.lean ====
section
/-! DEFINITION. How an access to register space is served: by block, package state, boot state and source
(R288, R361, R362, R373 to R376). -/

namespace Sys2Proof.Machine

open Sys2Proof

/-- What becomes of an access. -/
inductive Serve where
  /-- served now -/
  | now
  /-- held until AWAKE -/
  | held
  /-- as an offset that no register occupies (R7) -/
  | nothing
  deriving DecidableEq, Repr

/-- The 64 KiB block of an offset. -/
def blockOf (off : Nat) : Nat := off / 65536

/-- A block whose registers lie in the fast domain (R373): VAT, PRESS, STK, COL, SVC, HIF. -/
def fastBlock (off : Nat) : Bool := [2, 3, 4, 6, 8, 9].contains (blockOf off)

/-- What BAR0 serves in RECOVERY: the identification registers, INT and BOOT (R362, R374). -/
def recoveryServes (off : Nat) : Bool := decide (off < 0x20) || blockOf off == 0xA || blockOf off == 0xC

/-- A function exists: the PF, or a VF that SR-IOV enables; in RECOVERY the PF alone (R362, R380). -/
def State.fnEnabled (s : State) (f : Nat) : Bool :=
  f == 0 || (s.vfEnable && decide (f ≤ s.numVfs) && s.boot.phase == .running)

/-- The access reaches the part: BARs respond once it has booted, for a function that exists; MCTP once the firmware
runs; the management core's accesses, MCTP's among them, while its crossbar input is not quarantined (R282, R300, R360, R361;
log 50, log 56). -/
def State.reaches (s : State) (src : Src) : Bool :=
  match src with
  | .fn f => (s.boot.phase == .running || s.boot.phase == .recovery) && s.fnEnabled f
  | .mctp => (s.boot.phase == .running || s.boot.phase == .recovery) && !bit (s.rd SVC_QUAR_quarantined 0) 2
  | .core => !bit (s.rd SVC_QUAR_quarantined 0) 2

/-- How an access at a PF offset is served (R374). -/
def State.serve (s : State) (src : Src) (off : Nat) : Serve :=
  if s.boot.phase = .recovery ∧ ¬ recoveryServes off then .nothing
  else if !fastBlock off then .now
  else
    match s.rd PWR_STATUS_state 0 with
    | 2 => .now
    | 3 => .now
    | 1 => .held
    | 0 => (match src with
        | .fn _ => if bit (s.rd PWR_WAKE_CFG_src 0) 0 then .held else .nothing
        | _ => .nothing)
    | _ => .nothing

/-- The registers that MCTP may write: PWR_CFG, PWR_CMD, the wake registers and the BOOT block (R347, R372, R376). -/
def mctpWrites (off : Nat) : Bool := blockOf off == 0xB || blockOf off == 0xC

/-- The PF offset that a write of a source at an offset of its view acts on, none where it acts on nothing (R375,
R376). -/
def State.writeOff (s : State) (src : Src) (off : Nat) : Option Nat :=
  match src with
  | .core => some off
  | .mctp => if mctpWrites off then some off else none
  | .fn f =>
    if f = 0 then some off
    else match regFindVf f (s.bound.get f) (off / 8 * 8) with
      | some (r, i) => if r.any then some (r.addr i + off % 8) else none
      | none => none

/-- A wake event that the package state and the supply accept: the state becomes WAKING (R337, R345, R392). -/
def State.startWake (s : State) : State :=
  if s.rd PWR_STATUS_state 0 = 0 ∧ ¬ s.pwr.overVolt then s.wr PWR_STATUS_state 0 1 else s

/-- An access to a memory BAR is PCIe activity, a wake event where it is enabled (R337). -/
def State.pcieWake (s : State) : State := if bit (s.rd PWR_WAKE_CFG_src 0) 0 then s.startWake else s

/-- The die of a port or stack register (R382). -/
def dieReg (off : Nat) : Option Nat :=
  if 0x51000 ≤ off ∧ off < 0x52000 then some ((off - 0x51000) / 0x100 / 4)
  else if 0x40100 ≤ off ∧ off < 0x40180 then some ((off - 0x40100) / 8 % 8 / 2)
  else none

/-- Writes to the stack and port registers of a fenced die are ignored. -/
def State.regFenced (s : State) (off : Nat) : Bool := (dieReg off).any (fun d => bit s.dieFence d)

/-- A write of a source at an offset of its view: `f` acts on the state when it is served, it waits while the package
wakes, or nothing happens. -/
def State.access (s : State) (src : Src) (off size : Nat) (val : W64) (f : State → State) : State :=
  if !s.reaches src then s
  else match s.writeOff src off with
    | none => s
    | some a =>
      match s.serve src a with
      | .now => if s.regFenced a then s else f s
      | .held => { s.startWake with heldAccess := s.heldAccess ++ [{ src := src, off := off, write := some (size, val) }] }
      | .nothing => s

/-- The offset of a register of function fn in the view of a source. -/
def viewOff (src : Src) (fn : Nat) (f : Fld) : Nat :=
  match src with
  | .fn g => if g = 0 then f.addr fn else f.addr 0
  | _ => f.addr fn

/-- A source reaches the registers of function fn: a VF reaches its own only. -/
def ownFn (src : Src) (fn : Nat) : Bool :=
  match src with
  | .fn g => g == 0 || g.val == fn
  | _ => true

end Sys2Proof.Machine
end

