-- ==== Sys2Proof/Machine/Hash.lean ====
section
/-! DEFINITION. Digests, cyclic codes, the random generator and the proof field: SHA3-512 (FIPS 202, named by R64, R177,
R225), CRC-16 of a cell header (R219), CRC-32C of a retirement record (R356), Philox-4x32-10 (R56 to R58), the proof
of R88. -/

namespace Sys2Proof

/-- Rotate a 64-bit lane left. -/
def rotl (x : W64) (n : Nat) : W64 := x.rotateLeft n

/-- Keccak rotation offsets, lane x + 5y. -/
def keccakRot : List Nat :=
  [0, 1, 62, 28, 27, 36, 44, 6, 55, 20, 3, 10, 43, 25, 39, 41, 45, 15, 21, 8, 18, 2, 61, 56, 14]

/-- Keccak round constants. -/
def keccakRC : List W64 :=
  [0x0000000000000001#64, 0x0000000000008082#64, 0x800000000000808A#64, 0x8000000080008000#64,
   0x000000000000808B#64, 0x0000000080000001#64, 0x8000000080008081#64, 0x8000000000008009#64]
  ++ [0x000000000000008A#64, 0x0000000000000088#64, 0x0000000080008009#64, 0x000000008000000A#64,
   0x000000008000808B#64, 0x800000000000008B#64, 0x8000000000008089#64, 0x8000000000008003#64]
  ++ [0x8000000000008002#64, 0x8000000000000080#64, 0x000000000000800A#64, 0x800000008000000A#64,
   0x8000000080008081#64, 0x8000000000008080#64, 0x0000000080000001#64, 0x8000000080008008#64]

/-- One Keccak-f[1600] round on 25 lanes. -/
def keccakRound (a : List W64) (rc : W64) : List W64 :=
  let g (l : List W64) (i : Nat) : W64 := l.getD i 0#64
  let c := (upto 5).map fun x => g a x ^^^ g a (x + 5) ^^^ g a (x + 10) ^^^ g a (x + 15) ^^^ g a (x + 20)
  let d := (upto 5).map fun x => g c ((x + 4) % 5) ^^^ rotl (g c ((x + 1) % 5)) 1
  let t := (upto 25).map fun i => rotl (g a i ^^^ g d (i % 5)) (keccakRot.getD i 0)
  -- pi: lane (y, 2x + 3y) takes lane (x, y)
  let b := (upto 25).map fun i =>
    let X := i % 5
    let Y := i / 5
    let x := (X + 3 * Y) % 5
    g t (x + 5 * X)
  (upto 25).map fun i =>
    let x := i % 5
    let y := i / 5
    let v := g b i ^^^ (~~~ (g b ((x + 1) % 5 + 5 * y)) &&& g b ((x + 2) % 5 + 5 * y))
    if i = 0 then v ^^^ rc else v

/-- Keccak-f[1600]. -/
def keccakF (a : List W64) : List W64 := keccakRC.foldl keccakRound a

/-- Absorb rate blocks of 72 bytes. -/
def sha3Absorb : Nat → List W64 → List Byte → List W64
  | 0, st, _ => st
  | n + 1, st, bs =>
    let lanes := (upto 9).map fun i => BitVec.ofNat 64 (leAt bs (8 * i) 8)
    let st := keccakF (st.mapIdx fun i v => v ^^^ lanes.getD i 0#64)
    sha3Absorb n st (bs.drop 72)

/-- The SHA3-512 digest as 64 bytes. -/
def sha3Bytes (msg : List Byte) : List Byte :=
  let padLen := 72 - msg.length % 72
  let pad : List Byte :=
    if padLen = 1 then [0x86#8] else [0x06#8] ++ List.replicate (padLen - 2) 0#8 ++ [0x80#8]
  let st := sha3Absorb ((msg.length + padLen) / 72) (List.replicate 25 0#64) (msg ++ pad)
  (st.take 8).flatMap fun v => leBytes 8 v.toNat

/-- The SHA3-512 digest, byte 0 least significant. -/
def sha3 (msg : List Byte) : W512 := BitVec.ofNat 512 (leNat (sha3Bytes msg))

/-- CRC-16 with polynomial 0x1021 and initial value 0xFFFF over bits taken from the most significant of each byte. -/
def crc16 (bs : List Byte) : Nat :=
  bs.foldl (fun c b =>
    (upto 8).foldl (fun c i =>
      let top := bit c 15 != bit b.toNat (7 - i)
      let c := c * 2 % 65536
      if top then c ^^^ 0x1021 else c) c) 0xFFFF

/-- CRC-32C (reflected polynomial 0x82F63B78). -/
def crc32c (bs : List Byte) : Nat :=
  (bs.foldl (fun c b =>
    (upto 8).foldl (fun c _ => if c % 2 = 1 then (c / 2) ^^^ 0x82F63B78 else c / 2) (c ^^^ b.toNat)) 0xFFFFFFFF)
    ^^^ 0xFFFFFFFF

/-- One Philox round (R56). -/
def philoxRound (c : List Nat) (k0 k1 : Nat) : List Nat :=
  let p0 := 0xD2511F53 * c.getD 0 0
  let p1 := 0xCD9E8D57 * c.getD 2 0
  [(p1 / 2 ^ 32) ^^^ c.getD 1 0 ^^^ k0, p1 % 2 ^ 32, (p0 / 2 ^ 32) ^^^ c.getD 3 0 ^^^ k1, p0 % 2 ^ 32]

/-- `n` rounds, the key growing between them. -/
def philoxRounds : Nat → List Nat → Nat → Nat → List Nat
  | 0, c, _, _ => c
  | n + 1, c, k0, k1 =>
    philoxRounds n (philoxRound c k0 k1) ((k0 + 0x9E3779B9) % 2 ^ 32) ((k1 + 0xBB67AE85) % 2 ^ 32)

/-- Draw `d` of the generator keyed by R57: seed, step number, request id, stream. -/
def philoxDraw (seed step req stream d : Nat) : Nat :=
  (philoxRounds 10 [d / 4 % 2 ^ 32, step % 2 ^ 32, req % 2 ^ 32, stream % 2 ^ 32]
    (seed % 2 ^ 32) (seed / 2 ^ 32 % 2 ^ 32)).getD (d % 4) 0

/-- Multiplication by x in GF(2^64) modulo x^64 + x^4 + x^3 + x + 1 (R88). -/
def gfDouble (a : Nat) : Nat :=
  if a ≥ 2 ^ 63 then (a * 2 % 2 ^ 64) ^^^ 0x1B else a * 2

/-- Product in GF(2^64), over the low `n` bits of `b`. -/
def gfMulAux : Nat → Nat → Nat → Nat
  | 0, _, _ => 0
  | n + 1, a, b => (if b % 2 = 1 then a else 0) ^^^ gfMulAux n (gfDouble a) (b / 2)

/-- Product in GF(2^64). -/
def gfMul (a b : Nat) : Nat := gfMulAux 64 a b

/-- `a ^ e` in GF(2^64) for e below 2^n. -/
def gfPow : Nat → Nat → Nat → Nat
  | 0, _, _ => 1
  | n + 1, a, e => let r := gfPow n (gfMul a a) (e / 2); if e % 2 = 1 then gfMul a r else r

/-- α of R88. -/
def proofAlpha : Nat := 0x9E3779B97F4A7C15
/-- β of R88. -/
def proofBeta : Nat := 0xC2B2AE3D27D4EB4F

/-- One element's contribution to A and B, from its index and its term words u and u' (R88). -/
def proofTerm (i u u' : Nat) : Nat × Nat :=
  (gfMul u (gfPow 49 proofAlpha (i + 1)), gfMul u' (gfPow 49 proofBeta (i + 1)))

/-- The term words of an element: stored bits, scale code for a Microscaling element, or an INT64 (R88). -/
def proofWords (bits : Nat) (scale : Option Nat) (int64 : Bool) : Nat × Nat :=
  if int64 then (2 ^ 63 + bits % 2 ^ 63, 2 ^ 63 + bits / 2 % 2 ^ 63)
  else
    let u := 2 ^ 63 + bits % 2 ^ 32 + (scale.getD 0) % 256 * 2 ^ 32
    (u, u)

/-- XOR of the contributions of (index, u, u') triples. -/
def proofOf (ts : List (Nat × Nat × Nat)) : Nat × Nat :=
  ts.foldl (fun acc t => let p := proofTerm t.1 t.2.1 t.2.2; (acc.1 ^^^ p.1, acc.2 ^^^ p.2)) (0, 0)

end Sys2Proof
end

