-- ==== Sys2Proof/Machine/Num.lean ====
section
/-! DEFINITION. Number formats, roundings, conversions, exact block sums, the reduction tree and the function units
(02_arithmetic.md, R31 to R63). Values are exact: a finite value is a signed integer times a power of two. -/

namespace Sys2Proof

/-- A value of a floating-point format: NaN, an infinity, or (-1)^neg * m * 2^e exactly. -/
inductive FVal where
  | nan
  | inf (neg : Bool)
  | fin (neg : Bool) (m : Nat) (e : Int)
  deriving DecidableEq, Repr, Inhabited

/-- The element formats of R32, and the integer formats of R102. -/
inductive NumFmt where
  | fp32 | fp16 | bf16 | e4m3 | e5m2 | e3m2 | e2m3 | e2m1 | e8m0 | int8 | int4 | int32 | int64
  deriving DecidableEq, Repr, Inhabited

/-- Exponent bits, mantissa bits and bias of a floating-point format (R32). -/
def NumFmt.shape : NumFmt → Nat × Nat × Int
  | .fp32 => (8, 23, 127)
  | .fp16 => (5, 10, 15)
  | .bf16 => (8, 7, 127)
  | .e4m3 => (4, 3, 7)
  | .e5m2 => (5, 2, 15)
  | .e3m2 => (3, 2, 3)
  | .e2m3 => (2, 3, 1)
  | .e2m1 => (2, 1, 1)
  | _ => (0, 0, 0)

/-- Width in bits. -/
def NumFmt.width : NumFmt → Nat
  | .fp32 => 32 | .fp16 => 16 | .bf16 => 16 | .e4m3 => 8 | .e5m2 => 8 | .e3m2 => 6 | .e2m3 => 6 | .e2m1 => 4
  | .e8m0 => 8 | .int8 => 8 | .int4 => 4 | .int32 => 32 | .int64 => 64

/-- Formats with infinities (R32). -/
def NumFmt.hasInf : NumFmt → Bool
  | .fp32 | .fp16 | .bf16 | .e5m2 => true
  | _ => false

/-- The canonical NaN (R34). -/
def NumFmt.canonNaN : NumFmt → Nat
  | .fp32 => 0x7FC00000 | .fp16 => 0x7E00 | .bf16 => 0x7FC0 | .e4m3 => 0x7F | .e5m2 => 0x7E | .e8m0 => 0xFF
  | _ => 0

/-- The largest finite code without its sign (R32). -/
def NumFmt.maxCode (f : NumFmt) : Nat :=
  match f with
  | .e4m3 => 0x7E
  | _ =>
    let (eb, mb, _) := f.shape
    if f.hasInf then (2 ^ eb - 1) * 2 ^ mb - 1 else 2 ^ (eb + mb) - 1

/-- Two's complement value of the low `w` bits of `x`. -/
def signedOf (w x : Nat) : Int :=
  let y := x % 2 ^ w
  if y ≥ 2 ^ (w - 1) then (y : Int) - (2 ^ w : Nat) else y

/-- The exact value of an integer. -/
def FVal.ofInt (i : Int) : FVal := .fin (decide (i < 0)) i.natAbs 0

/-- The value that bits `x` stand for in format `f` (R32). -/
def decodeFmt (f : NumFmt) (x : Nat) : FVal :=
  match f with
  | .int8 => .ofInt (signedOf 8 x)
  | .int4 => .ofInt (signedOf 4 x)
  | .int32 => .ofInt (signedOf 32 x)
  | .int64 => .ofInt (signedOf 64 x)
  | .e8m0 => if x % 256 = 255 then .nan else .fin false 1 ((x % 256 : Nat) - 127)
  | _ =>
    let (eb, mb, bias) := f.shape
    let m := x % 2 ^ mb
    let e := x / 2 ^ mb % 2 ^ eb
    let neg := x / 2 ^ (mb + eb) % 2 == 1
    if f = .e4m3 ∧ e = 15 ∧ m = 7 then .nan
    else if f.hasInf ∧ e = 2 ^ eb - 1 then (if m = 0 then .inf neg else .nan)
    else if e = 0 then .fin neg m (1 - bias - mb)
    else .fin neg (2 ^ mb + m) ((e : Int) - bias - mb)

/-- `n / 2^k` rounded to nearest, ties to even (R36). -/
def rneShift (n k : Nat) : Nat :=
  let q := n / 2 ^ k
  let r := n % 2 ^ k
  if 2 * r > 2 ^ k then q + 1
  else if 2 * r < 2 ^ k then q
  else if k = 0 then q else if q % 2 = 1 then q + 1 else q

/-- The code, without its sign, of `n * 2^s` rounded once to a floating-point format, with what an overflow gives:
an infinity where the format has one, else the largest finite code (R36, R37). -/
def roundMag (f : NumFmt) (n : Nat) (s : Int) : Nat :=
  if n = 0 then 0 else
  let (eb, mb, bias) := f.shape
  let top : Int := s + (Nat.log2 n : Nat)
  let q : Int := (if top < 1 - bias then 1 - bias else top) - mb
  let m := if q ≤ s then n * 2 ^ (s - q).toNat else rneShift n (q - s).toNat
  let code := if m < 2 ^ mb then m else (q + mb + bias).toNat * 2 ^ mb + (m - 2 ^ mb)
  if code > f.maxCode then (if f.hasInf then (2 ^ eb - 1) * 2 ^ mb else f.maxCode) else code

/-- The sign bit placed above the code. -/
def withSign (f : NumFmt) (neg : Bool) (code : Nat) : Nat :=
  if neg then code + 2 ^ (f.width - 1) else code

/-- An integer saturated to a format's range, as bits. -/
def satInt (w : Nat) (i : Int) : Nat :=
  let hi : Int := (2 ^ (w - 1) : Nat) - 1
  let lo : Int := -((2 ^ (w - 1) : Nat) : Int)
  let v := if i > hi then hi else if i < lo then lo else i
  (v % (2 ^ w : Nat)).toNat

/-- `m * 2^e` rounded to an integer by RNE. -/
def rneInt (m : Nat) (e : Int) : Nat :=
  if e ≥ 0 then m * 2 ^ e.toNat else rneShift m (-e).toNat

/-- floor(log2 (m * 2^e)) for m > 0. -/
def floorLog (m : Nat) (e : Int) : Int := (Nat.log2 m : Nat) + e

/-- Clamp an integer. -/
def clampInt (lo hi x : Int) : Int := if x < lo then lo else if x > hi then hi else x

/-- Conversion of an exact value to a format, by the table of R37. INT32 and INT64, for which the table has no row, take the row of
INT8: DESIGN CHOICE (log 99). -/
def encodeFmt (f : NumFmt) (v : FVal) : Nat :=
  match f with
  | .int8 | .int4 | .int32 | .int64 =>
    match v with
    | .nan => 0
    | .inf neg => satInt f.width (if neg then -((2 ^ 70 : Nat) : Int) else ((2 ^ 70 : Nat) : Int))
    | .fin neg m e => satInt f.width (if neg then -(rneInt m e : Int) else (rneInt m e : Int))
  | .e8m0 =>
    match v with
    | .nan | .inf _ => 0xFF
    | .fin _ m e => if m = 0 then 0 else (clampInt 0 0xFE (floorLog m e + 127)).toNat
  | .e3m2 | .e2m3 | .e2m1 =>
    match v with
    | .nan => 0
    | .inf neg => withSign f neg f.maxCode
    | .fin neg m e => withSign f neg (roundMag f m e)
  | .e4m3 =>
    match v with
    | .nan => 0x7F
    | .inf neg => withSign f neg f.maxCode
    | .fin neg m e => withSign f neg (roundMag f m e)
  | _ =>
    match v with
    | .nan => f.canonNaN
    | .inf neg => withSign f neg ((2 ^ f.shape.1 - 1) * 2 ^ f.shape.2.1)
    | .fin neg m e => withSign f neg (roundMag f m e)

/-- The canonical FP32 NaN (R34). -/
def nan32 : W32 := 0x7FC00000#32
/-- FP32 infinity. -/
def inf32 (neg : Bool) : W32 := if neg then 0xFF800000#32 else 0x7F800000#32
/-- FP32 one. -/
def one32 : W32 := 0x3F800000#32

/-- The exact value of FP32 bits. -/
def dec32 (x : W32) : FVal := decodeFmt .fp32 x.toNat
/-- Rounded once to FP32. -/
def enc32 (v : FVal) : W32 := BitVec.ofNat 32 (encodeFmt .fp32 v)

/-- round_fp32(N, s) of R49. -/
def roundFp32 (n : Int) (s : Int) : W32 :=
  BitVec.ofNat 32 (withSign .fp32 (decide (n < 0)) (roundMag .fp32 n.natAbs s))

/-- Widen bits of any format exactly to FP32 (R37). -/
def widen (f : NumFmt) (x : Nat) : W32 := enc32 (decodeFmt f x)

/-- Convert FP32 to a format (R37). -/
def narrow (f : NumFmt) (x : W32) : Nat := encodeFmt f (dec32 x)

/-- Signed integer and exponent of a finite value. -/
def FVal.sig : FVal → Int × Int
  | .fin neg m e => (if neg then -(m : Int) else m, e)
  | _ => (0, 0)

/-- The exact sum of two integers scaled by powers of two. -/
def addScaled (a b : Int × Int) : Int × Int :=
  if a.2 ≤ b.2 then (a.1 + b.1 * (2 ^ (b.2 - a.2).toNat : Nat), a.2)
  else (a.1 * (2 ^ (a.2 - b.2).toNat : Nat) + b.1, b.2)

/-- FP32 addition by RNE (R44). The sum of two -0 is -0, every other exact zero is +0 (R41). -/
def fadd (x y : W32) : W32 :=
  match dec32 x, dec32 y with
  | .nan, _ | _, .nan => nan32
  | .inf a, .inf b => if a = b then inf32 a else nan32
  | .inf a, _ => inf32 a
  | _, .inf b => inf32 b
  | .fin sa ma ea, .fin sb mb eb =>
    if ma = 0 ∧ mb = 0 then (if sa ∧ sb then 0x80000000#32 else 0#32)
    else
      let r := addScaled (FVal.fin sa ma ea).sig (FVal.fin sb mb eb).sig
      roundFp32 r.1 r.2

/-- The product of two exact values. -/
def mulVal : FVal → FVal → FVal
  | .nan, _ | _, .nan => .nan
  | .inf a, .inf b => .inf (a != b)
  | .inf a, .fin b m _ => if m = 0 then .nan else .inf (a != b)
  | .fin a m _, .inf b => if m = 0 then .nan else .inf (a != b)
  | .fin a m e, .fin b n f => .fin (a != b) (m * n) (e + f)

/-- FP32 multiplication by RNE. -/
def fmul (x y : W32) : W32 := enc32 (mulVal (dec32 x) (dec32 y))

/-- Negation. A NaN result is canonical (R34). -/
def fneg (x : W32) : W32 :=
  match dec32 x with
  | .nan => nan32
  | _ => x ^^^ 0x80000000#32

/-- Absolute value. -/
def fabs (x : W32) : W32 :=
  match dec32 x with
  | .nan => nan32
  | _ => x &&& 0x7FFFFFFF#32

/-- FP32 subtraction. -/
def fsub (x y : W32) : W32 := fadd x (fneg y)

/-- FP32 fused multiply-add: one rounding. -/
def ffma (x y z : W32) : W32 :=
  match mulVal (dec32 x) (dec32 y), dec32 z with
  | .nan, _ | _, .nan => nan32
  | .inf a, .inf b => if a = b then inf32 a else nan32
  | .inf a, _ => inf32 a
  | _, .inf b => inf32 b
  | .fin sa ma ea, .fin sb mb eb =>
    if ma = 0 ∧ mb = 0 then (if sa ∧ sb then 0x80000000#32 else 0#32)
    else
      let r := addScaled (FVal.fin sa ma ea).sig (FVal.fin sb mb eb).sig
      roundFp32 r.1 r.2

/-- FP32 division by RNE. -/
def fdiv (x y : W32) : W32 :=
  match dec32 x, dec32 y with
  | .nan, _ | _, .nan => nan32
  | .inf _, .inf _ => nan32
  | .inf a, .fin b _ _ => inf32 (a != b)
  | .fin a _ _, .inf b => if a != b then 0x80000000#32 else 0#32
  | .fin a m e, .fin b n f =>
    if n = 0 then (if m = 0 then nan32 else inf32 (a != b))
    else if m = 0 then (if a != b then 0x80000000#32 else 0#32)
    else
      let num := m * 2 ^ 64
      let q := 2 * (num / n) + (if num % n = 0 then 0 else 1)
      BitVec.ofNat 32 (withSign .fp32 (a != b) (roundMag .fp32 q (e - f - 65)))

/-- Integer square root by bits, from bit `k - 1` down. -/
def isqrtAux (n : Nat) : Nat → Nat → Nat
  | 0, r => r
  | k + 1, r => let t := r + 2 ^ k; if t * t ≤ n then isqrtAux n k t else isqrtAux n k r

/-- FP32 square root by RNE. -/
def fsqrt (x : W32) : W32 :=
  match dec32 x with
  | .nan => nan32
  | .inf neg => if neg then nan32 else inf32 false
  | .fin neg m e =>
    if m = 0 then x
    else if neg then nan32
    else
      let odd := e % 2 ≠ 0
      let n := (if odd then 2 * m else m) * 2 ^ 64
      let r := isqrtAux n 50 0
      let q := 2 * r + (if r * r = n then 0 else 1)
      BitVec.ofNat 32 (roundMag .fp32 q ((if odd then e - 1 else e) / 2 - 33))

/-- `x < y` on exact values; false with NaN; zeros equal. -/
def ltVal : FVal → FVal → Bool
  | .nan, _ | _, .nan => false
  | .inf a, .inf b => a && !b
  | .inf a, _ => a
  | _, .inf b => !b
  | .fin a m e, .fin b n f =>
    let r := addScaled (FVal.fin a m e).sig (FVal.fin (!b) n f).sig
    decide (r.1 < 0)

/-- FP32 less-than, false with NaN (R75). -/
def flt (x y : W32) : Bool := ltVal (dec32 x) (dec32 y)
/-- FP32 is NaN. -/
def isNaN (x : W32) : Bool := dec32 x == .nan
/-- FP32 equality: zeros of either sign are equal, NaN equals nothing. -/
def feq (x y : W32) : Bool := !isNaN x && !isNaN y && !flt x y && !flt y x
/-- FP32 is a zero of either sign. -/
def isZero (x : W32) : Bool := x &&& 0x7FFFFFFF#32 == 0#32
/-- FP32 is finite. -/
def isFin (x : W32) : Bool := match dec32 x with | .fin _ _ _ => true | _ => false
/-- FP32 is positive, normal and finite. -/
def isPosNormal (x : W32) : Bool := isFin x && decide (0x00800000 ≤ x.toNat) && decide (x.toNat < 0x7F800000)

/-- The total order of R43 on non-NaN values, as a key: -0 lies below +0. -/
def orderKey (x : W32) : Int :=
  if x.toNat ≥ 2 ^ 31 then -((x.toNat - 2 ^ 31 : Nat) : Int) - 1 else x.toNat

/-- Maximum of R43. -/
def fmax (x y : W32) : W32 :=
  if isNaN x || isNaN y then nan32 else if orderKey x ≥ orderKey y then x else y
/-- Minimum of R43. -/
def fmin (x y : W32) : W32 :=
  if isNaN x || isNaN y then nan32 else if orderKey x ≤ orderKey y then x else y
/-- relu (R67). -/
def frelu (x : W32) : W32 := fmax x 0#32

/-- Maximum over a list; over none, -inf (R43). -/
def reduceMax (xs : List W32) : W32 := xs.foldl fmax (inf32 true)
/-- Minimum over a list; over none, +inf (R43). -/
def reduceMin (xs : List W32) : W32 := xs.foldl fmin (inf32 false)

/-- Exact sum of finite terms. -/
def sumSig (ts : List FVal) : Int × Int :=
  ts.foldl (fun acc t => if acc.1 = 0 then t.sig else if t.sig.1 = 0 then acc else addScaled acc t.sig) (0, 0)

/-- The sum of one block: exact, then one rounding; an exact zero is +0; NaN and infinities by the table (R40). -/
def blockSum (ts : List FVal) : W32 :=
  if ts.any (fun t => t == .nan) then nan32
  else
    let pos := ts.any (fun t => t == .inf false)
    let neg := ts.any (fun t => t == .inf true)
    if pos && neg then nan32
    else if pos then inf32 false
    else if neg then inf32 true
    else let r := sumSig ts; roundFp32 r.1 r.2

/-- A list cut into blocks of `n` (`fuel` blocks at most). -/
def chunk {α : Type} (n : Nat) : Nat → List α → List (List α)
  | 0, _ => []
  | fuel + 1, l => if l.isEmpty then [] else l.take n :: chunk n fuel (l.drop n)

/-- The block sums of a reduction whose absent positions are `none`; a block with no present position has no sum (R39). -/
def blockSums (ts : List (Option FVal)) : List (Option W32) :=
  (chunk 32 (ts.length + 1) ts).map fun b =>
    let present := b.filterMap id
    if present.isEmpty then none else some (blockSum present)

/-- Block sums added in ascending order by FP32 RNE, from an initial value if there is one; `none` when nothing is
present (R41, R47). -/
def chain (init : Option W32) (sums : List (Option W32)) : Option W32 :=
  sums.foldl (fun acc s =>
    match acc, s with
    | acc, none => acc
    | none, some x => some x
    | some a, some x => some (fadd a x)) init

/-- One level of the canonical tree: pairs added left to right, an absent child giving the other (R46, R47). -/
def treeLevel : List (Option W32) → List (Option W32)
  | a :: b :: t =>
    (match a, b with
      | some x, some y => some (fadd x y)
      | some x, none => some x
      | none, y => y) :: treeLevel t
  | l => l

/-- The root of the tree over the leaves (fuel: levels). -/
def treeRoot : Nat → List (Option W32) → Option W32
  | 0, l => l.headD none
  | n + 1, l => treeRoot n (treeLevel l)

/-- A sum reduction over V virtual shards, each a list of terms: leaves by R39 to R41, C belonging to shard 0, then the
tree of R46; an absent result is +0, or C. -/
def reduceSum (init : Option W32) (shards : List (List (Option FVal))) : W32 :=
  let leaves := shards.mapIdx fun v ts => chain (if v = 0 then init else none) (blockSums ts)
  (treeRoot 13 leaves).getD 0#32

/-- A plain unsharded sum of FP32 values. -/
def sum32 (xs : List W32) : W32 := reduceSum none [xs.map (fun x => some (dec32 x))]

/-- The contraction of two rows of exact values (R39): present where both are. -/
def dotTerms (a b : List FVal) : List (Option FVal) := List.zipWith (fun x y => some (mulVal x y)) a b

/-- T[j] of R50. -/
def tabT : List Int :=
  [4611686018427387904, 4661903986662671290, 4712668792719003884, 4763986391269842979, 4815862801830788490, 4868304109465667592, 4921316465500308116, 4974906088244084429]
    ++ [5029079263719320435, 5083842346398635251, 5139201759950318048, 5195163997991819502, 5251735624851448219, 5308923276338361494, 5366733660520940721, 5425173558513642752]
    ++ [5484249825272419512, 5543969390398799154, 5604339258952723100, 5665366512274234280, 5727058308814112983, 5789421884973557729, 5852464555953009676, 5916193716610220111]
    ++ [5980616842327661685, 6045741489889385141, 6111575298367424380, 6178125990017853852, 6245401371186603363, 6313409333225136570, 6382157853416100552, 6451654995909055045]
    ++ [6521908912666391106, 6592927844419550153, 6664720121635655541, 6737294165494670078, 6810658488877194079, 6884821697363019841, 6959792490240559659, 7035579661527265796]
    ++ [7112192101001162095, 7189638795243608238, 7267928828693418961, 7347071384712461870, 7427075746662858866, 7507951298995917514, 7589707528352920109, 7672354024677899536]
    ++ [7755900482342532474, 7840356701283281883, 7925732588150922155, 8012038157472581778, 8099283532826439817, 8187478948029213993, 8276634748336579668, 8366761391656660532]
    ++ [8457869449776733335, 8549969609603290562, 8643072674415606502, 8737189565132953757, 8832331321595618838, 8928509103859867100, 9025734193507008925, 9124017994966720698]

/-- L[j] of R50. -/
def tabL : List Int :=
  [52182671806929211, 151142203897606811, 251595896995022282, 353589563489981097, 450215319575370371, 548265085340865783, 640623573397532102, 734282223581664982]
    ++ [829278164848984671, 918187147805024323, 1008300352203286019, 1099650847447036895, 1184505124623950953, 1270455611837161577, 1357531003483213661, 1445761135573508750]
    ++ [1526998488550713098, 1609240036944017259, 1692510918031521445, 1768356335894250899, 1845076351837975151, 1922691371948162559, 2001222524919401373, 2080691696581529887]
    ++ [2152136748740952428, 2233440284507604315, 2306553729597334854, 2380479562923237251, 2455236040970580913, 2521344172996879381, 2588115766892370496, 2665255837397404570]
    ++ [2733494964303776674, 2802441245013112651, 2872109489430923555, 2932411321101875260, 3003461265327937819, 3064971008970011983, 3137458567775104801, 3200225604514440782]
    ++ [3263590431550360072, 3327564545113312663, 3392159776285783234, 3446472376256666693, 3512238215355095452, 3567544074541858797, 3634523733001158714, 3690859857478914175]
    ++ [3747677081925273972, 3816504487614748792, 3874409609859193191, 3932823124227658132, 3979926022198173915, 4039277500075857628, 4099163201857432666, 4159592832081013076]
    ++ [4208334856301263457, 4269768871265903464, 4319327808412101870, 4369258673517892041, 4432203859656751932, 4482992324215768986, 4534171473109602107, 4585747363550023203]

/-- H[j] of R50. -/
def tabH : List Int :=
  [4593636297432083323, 4559600489250505577, 4525308697764314969, 4490755058845814016, 4458263381011862130, 4425533160015115039, 4394922560608953298, 4364097257979678406]
    ++ [4333052669938589231, 4304197392226832454, 4275147359102676972, 4245898573074128619, 4218909056978757525, 4191745766298554597, 4164405300580903386, 4136884147003731583]
    ++ [4111705068628998682, 4086370846735279563, 4060878577685697382, 4037797931521506780, 4014584592319871015, 3991236244822505012, 3967750505648962471, 3944124920457051595]
    ++ [3923004956496643160, 3899108257254468088, 3877743119691769992, 3856259612998552556, 3834655747700258927, 3815652027023907833, 3796553184046376756, 3774607606072393721]
    ++ [3755300023670624355, 3735892658487609259, 3716383947293745576, 3699580316616711273, 3679879102234043565, 3662908009007869500, 3643008477949923660, 3625864813504522200]
    ++ [3608639705097385819, 3591331980839492347, 3573940440465632041, 3559382577754880709, 3541834159050949064, 3527143784005614790, 3509434163571758919, 3494607590456175178]
    ++ [3479717844036096273, 3461765611577187958, 3446733992104363950, 3431636530164141533, 3419510568110651683, 3404292377021946578, 3389005849962351233, 3373650058009624412]
    ++ [3361314915947594595, 3345832038073801511, 3333393957705049169, 3320909292276435226, 3305237145857658022, 3292645720483866465, 3280005958970831328, 3267317300347122026]

/-- C1 to C4 of R50. -/
def tabC : List Int :=
  [3196577161300663915, 1107849223398934356, 255967521894832113, 44355791529079737]

/-- D1 to D9 of R50. -/
def tabD : List Int :=
  [6653256548922161246, -3326628274461080623, 2217752182974053749, -1663314137230540311, 1330651309784432249, -1108876091487026874, 950465221274594464, -831657068615270156]
    ++ [739250727658017916]

/-- S2 of R50. -/
def constS2 : Int := 3260954456333195553

/-- G[j] of R50: round(2^17 / (129 + 2j)). -/
def tabG (j : Nat) : Int := ((2 ^ 18 / (129 + 2 * j) + 1) / 2 : Nat)

/-- (2k)! / (k!)^2 for k = 0 to 9. -/
def centralBinom : List Int := [1, 2, 6, 20, 70, 252, 924, 3432, 12870, 48620]

/-- Bk of R50. -/
def tabB (k : Nat) : Int :=
  (if k % 2 = 1 then -1 else 1) * (centralBinom.getD k 0) * (2 ^ (62 - 2 * k) : Nat)

/-- floor(a / 2^s) for signed a. -/
def ashr (a : Int) (s : Nat) : Int := a / ((2 ^ s : Nat) : Int)

/-- floor of `v * 2^k` for a finite value. -/
def floorScaled (v : FVal) (k : Int) : Int :=
  let (n, e) := v.sig
  if e + k ≥ 0 then n * (2 ^ (e + k).toNat : Nat) else ashr n (-(e + k)).toNat

/-- exp2 of R51. -/
def exp2 (x : W32) : W32 :=
  if isNaN x then nan32
  else if !flt x 0x43000000#32 then inf32 false
  else if flt x 0xC3170000#32 then 0#32
  else
    let X := floorScaled (dec32 x) 48
    let n := ashr X 48
    let f := X - n * (2 ^ 48 : Nat)
    let j := (ashr f 42).toNat
    let R := (f % (2 ^ 42 : Nat)) * (2 ^ 14 : Nat)
    let A := tabC.getD 3 0
    let A := tabC.getD 2 0 + ashr (A * R) 62
    let A := tabC.getD 1 0 + ashr (A * R) 62
    let A := tabC.getD 0 0 + ashr (A * R) 62
    let P := (2 ^ 62 : Nat) + ashr (A * R) 62
    roundFp32 (ashr (tabT.getD j 0 * P) 62) (n - 62)

/-- normalize of R52: a positive x as M * 2^(e - 23) with 2^23 ≤ M < 2^24. -/
def normalize (x : W32) : Int × Nat :=
  match dec32 x with
  | .fin _ m e =>
    let sh := 23 - Nat.log2 m
    (e + 23 - sh, m * 2 ^ sh)
  | _ => (0, 0)

/-- j and Z of R52. -/
def reduceArg (M : Nat) : Nat × Int :=
  let j := M / 2 ^ 17 % 64
  (j, ((M : Int) * tabG j - (2 ^ 33 : Nat)) * (2 ^ 29 : Nat))

/-- Horner steps A := ck + ((Z * A) >> 62). -/
def horner (Z : Int) (A : Int) : List Int → Int
  | [] => A
  | c :: t => horner Z (c + ashr (Z * A) 62) t

/-- log2 of R52. -/
def log2 (x : W32) : W32 :=
  if isNaN x || flt x 0#32 then nan32
  else if isZero x then inf32 true
  else if x = inf32 false then inf32 false
  else if x = one32 then 0#32
  else
    let (e, M) := normalize x
    let (j, Z) := reduceArg M
    let A := horner Z (tabD.getD 8 0) ((tabD.take 8).reverse)
    let Y := ashr (Z * A) 62
    roundFp32 (e * (2 ^ 62 : Nat) + tabL.getD j 0 + Y) (-62)

/-- The sign of x on a non-negative result. -/
def signFrom (x r : W32) : W32 := r ||| (x &&& 0x80000000#32)

/-- A := 2^62 - ((Z * A) >> 62), n times (R53). -/
def recipIter (Z : Int) : Nat → Int → Int
  | 0, A => A
  | n + 1, A => recipIter Z n ((2 ^ 62 : Nat) - ashr (Z * A) 62)

/-- recip of R53. -/
def recip (x : W32) : W32 :=
  if isNaN x then nan32
  else if isZero x then signFrom x (inf32 false)
  else if fabs x = inf32 false then signFrom x 0#32
  else
    let (e, M) := normalize (fabs x)
    let (j, Z) := reduceArg M
    signFrom x (roundFp32 (tabG j * recipIter Z 9 (2 ^ 62 : Nat)) (-72 - e))

/-- rsqrt of R53. -/
def rsqrt (x : W32) : W32 :=
  if isNaN x || flt x 0#32 then nan32
  else if isZero x then signFrom x (inf32 false)
  else if x = inf32 false then 0#32
  else
    let (e, M) := normalize x
    let (j, Z) := reduceArg M
    let A := horner Z (tabB 9) ((List.range 9).reverse.map tabB)
    let Y := ashr (tabH.getD j 0 * A) 62
    let Y := if e % 2 ≠ 0 then ashr (Y * constS2) 62 else Y
    roundFp32 Y (-62 - e / 2)

/-- The FP32 value nearest log2 e (R71). -/
def LOG2E : W32 := 0x3FB8AA3B#32
/-- The FP32 value nearest ln 2. -/
def LN2 : W32 := 0x3F317218#32

/-- emax of the Microscaling element formats (R38). -/
def NumFmt.emax : NumFmt → Int
  | .e2m1 => 2 | .e2m3 => 2 | .e3m2 => 4 | .e4m3 => 8 | .e5m2 => 15
  | _ => 0

/-- A value divided by 2^k. -/
def FVal.scale (v : FVal) (k : Int) : FVal :=
  match v with
  | .fin neg m e => .fin neg m (e + k)
  | v => v

/-- The largest magnitude among finite values, as the FP32 pattern without sign. -/
def maxMag (vs : List W32) : W32 := vs.foldl (fun a v => if (fabs v).toNat > a.toNat then fabs v else a) 0#32

/-- Rounded by RNE and saturated to the largest finite magnitude, sign kept (R38 step 4, R61 step 4). -/
def encodeSat (f : NumFmt) (v : FVal) : Nat :=
  match v with
  | .fin neg m e => withSign f neg (Nat.min f.maxCode (roundMag f m e))
  | v => encodeFmt f v

/-- Quantize FP32 values to one Microscaling block: scale code and element codes (R38). -/
def quantizeMx (f : NumFmt) (vs : List W32) : Nat × List Nat :=
  if vs.any (fun v => !isFin v) then (0xFF, vs.map fun _ => 0)
  else
    let a := maxMag vs
    match dec32 a with
    | .fin _ m e =>
      if m = 0 then (0, vs.map fun _ => 0)
      else
        let X := clampInt (-127) 127 (floorLog m e - f.emax)
        ((X + 127).toNat, vs.map fun v => encodeSat f ((dec32 v).scale (-X)))
    | _ => (0xFF, vs.map fun _ => 0)

/-- The exact value of a Microscaling element with its scale code (R32, R33). -/
def mxVal (f : NumFmt) (scale code : Nat) : FVal :=
  if scale % 256 = 0xFF then .nan else (decodeFmt f code).scale ((scale % 256 : Nat) - 127)

/-- The smallest X with a ≤ 6 * 2^X, for a = m * 2^e > 0 (R61). -/
def skimX (m : Nat) (e : Int) : Int :=
  let x := floorLog m e - 3
  let fits (X : Int) : Bool := !ltVal (.fin false 6 X) (.fin false m e)
  if fits x then x else if fits (x + 1) then x + 1 else x + 2

/-- Quantize the 16 values of a skim-K group (R61): scale code and E2M1 codes. -/
def skimKPack (vs : List W32) : Nat × List Nat :=
  if vs.any (fun v => !isFin v) then (0xFF, vs.map fun _ => 0)
  else
    match dec32 (maxMag vs) with
    | .fin _ m e =>
      if m = 0 then (0, vs.map fun v => if v.toNat ≥ 2 ^ 31 then 8 else 0)
      else
        let X := clampInt (-127) 125 (skimX m e)
        ((X + 127).toNat, vs.map fun v => encodeSat .e2m1 ((dec32 v).scale (-X)))
    | _ => (0xFF, vs.map fun _ => 0)

/-- Dequantize a skim-K element to FP32 (R62). -/
def skimKUnpack (scale code : Nat) : W32 := enc32 (mxVal .e2m1 scale code)

end Sys2Proof
end

