-- ==== Sys2Proof/Machine/Compose.lean ====
section
/-! DEFINITION. The contract's compositions: scalar functions, softmax, norms, rotation (R71 to R74), attention
(R159 to R165), sampling and log-probabilities (R205, R207), skim-W decoding (R59, R60), node keys (R177). -/

namespace Sys2Proof

/-- exp of R71. -/
def fexp (x : W32) : W32 := exp2 (fmul x LOG2E)
/-- log of R71. -/
def flog (x : W32) : W32 := fmul (log2 x) LN2
/-- sigmoid of R71. -/
def fsigmoid (x : W32) : W32 := recip (fadd one32 (fexp (fneg x)))
/-- silu of R71. -/
def fsilu (x : W32) : W32 := fmul x (fsigmoid x)
/-- gelu of R71: the sigmoid form with the constant nearest 1.702. -/
def fgelu (x : W32) : W32 := fmul x (fsigmoid (fmul 0x3FD9DB23#32 x))

/-- FP32 of a natural number. -/
def f32OfNat (n : Nat) : W32 := roundFp32 n 0

/-- How a dimension of N is spread over A shards (R103): kind 0 whole, 1 block, 2 cyclic, 3 block-cyclic of length c. -/
structure Sharding where
  kind : Nat
  count : Nat
  cycle : Nat
  deriving DecidableEq, Repr, Inhabited

/-- The shard that holds global index g of N (R103). -/
def Sharding.shardOf (sh : Sharding) (N g : Nat) : Nat :=
  match sh.kind with
  | 1 => g / Nat.max 1 ((N + sh.count - 1) / Nat.max 1 sh.count)
  | 2 => g % Nat.max 1 sh.count
  | 3 => (g / Nat.max 1 sh.cycle) % Nat.max 1 sh.count
  | _ => 0

/-- How many of N indices shard a holds (R103). -/
def Sharding.held (sh : Sharding) (N a : Nat) : Nat :=
  match sh.kind with
  | 1 => let b := (N + sh.count - 1) / Nat.max 1 sh.count; Nat.min b (N - a * b)
  | 2 => (N - a + sh.count - 1) / Nat.max 1 sh.count
  | 3 =>
    let per := Nat.max 1 sh.cycle * Nat.max 1 sh.count
    N / per * sh.cycle + Nat.min sh.cycle (N % per - a * sh.cycle)
  | _ => N

/-- Local index l on shard a, as a global index (R103). -/
def Sharding.global (sh : Sharding) (N a l : Nat) : Nat :=
  match sh.kind with
  | 1 => a * ((N + sh.count - 1) / Nat.max 1 sh.count) + l
  | 2 => l * sh.count + a
  | 3 => l / Nat.max 1 sh.cycle * sh.cycle * sh.count + a * sh.cycle + l % Nat.max 1 sh.cycle
  | _ => l

/-- Number of virtual shards of a reduction over this dimension (R65). -/
def Sharding.V (sh : Sharding) : Nat := if sh.kind = 0 then 1 else sh.count

/-- A row split into its V shards, positions ascending (R46). -/
def Sharding.split {α : Type} (sh : Sharding) (xs : List α) : List (List α) :=
  let tagged := xs.mapIdx fun g x => (sh.shardOf xs.length g, x)
  (upto sh.V).map fun v => tagged.filterMap fun t => if t.1 = v then some t.2 else none

/-- softmax over a row whose masked positions are `none` (R72). -/
def softmax (sh : Sharding) (xs : List (Option W32)) : List W32 :=
  let present := xs.filterMap id
  let m := reduceMax present
  if present.isEmpty || m = inf32 true then xs.map fun _ => 0#32
  else
    let es := xs.map fun x => x.map fun x => exp2 (fmul (fsub x m) LOG2E)
    let s := reduceSum none (sh.split (es.map fun e => e.map dec32))
    let r := recip s
    es.map fun e => match e with | some e => fmul e r | none => 0#32

/-- The contraction of a row with itself. -/
def sumSquares (sh : Sharding) (xs : List W32) : W32 :=
  reduceSum none (sh.split (xs.map fun x => some (mulVal (dec32 x) (dec32 x))))

/-- rmsnorm of R73. -/
def rmsnorm (sh : Sharding) (xs g : List W32) (eps : W32) : List W32 :=
  let rn := recip (f32OfNat xs.length)
  let r := rsqrt (fadd (fmul (sumSquares sh xs) rn) eps)
  List.zipWith (fun x g => fmul (fmul x r) g) xs g

/-- layernorm of R73. -/
def layernorm (sh : Sharding) (xs g : List W32) (b : Option (List W32)) (eps : W32) : List W32 :=
  let rn := recip (f32OfNat xs.length)
  let mu := fmul (reduceSum none (sh.split (xs.map fun x => some (dec32 x)))) rn
  let d := xs.map fun x => fsub x mu
  let v := fmul (sumSquares sh d) rn
  let r := rsqrt (fadd v eps)
  let y := List.zipWith (fun d g => fmul (fmul d r) g) d g
  match b with
  | some b => List.zipWith fadd y b
  | none => y

/-- rotate_pairs of R74. -/
def rotatePairs : List W32 → List W32 → List W32 → List W32
  | x0 :: x1 :: xs, c :: cs, s :: ss =>
    fsub (fmul x0 c) (fmul x1 s) :: fadd (fmul x0 s) (fmul x1 c) :: rotatePairs xs cs ss
  | _, _, _ => []

/-! ### Attention (R159 to R165) -/

/-- The score of a query and a key: a sum reduction over channels (R162). -/
def attnDot (q k : List W32) : W32 := reduceSum none [dotTerms (q.map dec32) (k.map dec32)]

/-- The partial of one page: m, s and o. A position's key and value are `none` when invisible (R162). -/
def attnPartial (c : W32) (q : List W32) (D : Nat) (kv : List (Option (List W32 × List W32))) :
    W32 × W32 × List W32 :=
  let xs := kv.map fun p => p.map fun p => attnDot q p.1
  let m := reduceMax (xs.filterMap id)
  let es := xs.map fun x => x.map fun x =>
    if x = inf32 true then 0#32 else exp2 (fmul (fsub x m) c)
  let s := blockSum (es.filterMap fun e => e.map dec32)
  let o := (upto D).map fun d =>
    blockSum (List.zipWith (fun e p => match e, p with
      | some e, some (p : List W32 × List W32) => some (mulVal (dec32 e) (dec32 (p.2.getD d 0#32)))
      | _, _ => none) es kv |>.filterMap id)
  (m, s, o)

/-- The sums S and O of the combine under a maximum M (R163). -/
def attnSums (sh : Sharding) (c M : W32) (D : Nat) (ps : List (Option (W32 × W32 × List W32))) : W32 × List W32 :=
  let a := ps.map fun p => p.map fun p => exp2 (fmul (fsub p.1 M) c)
  let term (f : W32 × W32 × List W32 → W32) : List (Option FVal) :=
    List.zipWith (fun a p => match a, p with
      | some a, some p => some (mulVal (dec32 a) (dec32 (f p)))
      | _, _ => none) a ps
  (reduceSum none (sh.split (term fun p => p.2.1)),
    (upto D).map fun d => reduceSum none (sh.split (term fun p => p.2.2.getD d 0#32)))

/-- The combine of the partials of the present pages in ascending page order: Y and L (R163). Pages are sharded over
the page dimension by `sh`; an absent page is `none`. -/
def attnCombine (sh : Sharding) (c : W32) (D : Nat) (ps : List (Option (W32 × W32 × List W32))) : List W32 × W32 :=
  let M := reduceMax (ps.filterMap fun p => p.map fun p => p.1)
  if ps.all Option.isNone || M = inf32 true then ((upto D).map fun _ => 0#32, inf32 true)
  else
    let r := attnSums sh c M D ps
    let rS := recip r.1
    (r.2.map fun x => fmul x rS, fadd (fmul M c) (log2 r.1))

/-! ### Sampling (R205 to R210) -/

/-- What the sampling kernel takes from a request and its step (R205). -/
structure SampleArgs where
  temperature : W32
  topK : Nat
  topP : W32
  repetition : W32
  presence : W32
  frequency : W32
  seed : Nat
  reqId : Nat
  step : Nat
  deriving DecidableEq, Repr, Inhabited

/-- Insert by a strict order. -/
def insertBy {α : Type} (lt : α → α → Bool) (x : α) : List α → List α
  | [] => [x]
  | y :: t => if lt x y then x :: y :: t else y :: insertBy lt x t

/-- Stable insertion sort by a strict order. -/
def sortBy {α : Type} (lt : α → α → Bool) (xs : List α) : List α :=
  xs.foldr (fun x acc => insertBy lt x acc) []

/-- Value descending by R43, ties to the lower index. -/
def ranksBefore (a b : Nat × W32) : Bool :=
  orderKey a.2 > orderKey b.2 || (orderKey a.2 == orderKey b.2 && decide (a.1 < b.1))

/-- The logits after penalties, each used entry with a token id below V applied once (R205). -/
def penalise (a : SampleArgs) (counts : Nat → Option Nat) (z : List W32) : List W32 :=
  z.mapIdx fun v x =>
    match counts v with
    | none => x
    | some n =>
      let x := if flt 0#32 x then fdiv x a.repetition else fmul x a.repetition
      fsub (fsub x a.presence) (fmul (f32OfNat n) a.frequency)

/-- The lowest index whose value is bit-identical to the maximum. -/
def argmax (z : List W32) : Nat := (z.findIdx? (fun x => x == reduceMax z)).getD 0

/-- The running sums c_1, c_2, … one FP32 addition each. -/
def scan : W32 → List W32 → List W32
  | _, [] => []
  | c, p :: t => let c' := fadd c p; c' :: scan c' t

/-- The candidate token, or `none` for NUMERIC (R205). -/
def sample (sh : Sharding) (a : SampleArgs) (counts : Nat → Option Nat) (logits : List W32) : Option Nat :=
  let z := penalise a counts logits
  if z.any isNaN then none
  else
    let g := argmax z
    if isZero a.temperature then some g
    else
      let rt := recip a.temperature
      let t := z.map fun x => fmul x rt
      if t.any isNaN then none
      else
        let ranked := sortBy ranksBefore (t.mapIdx fun v x => (v, x))
        let kept := if a.topK = 0 ∨ a.topK ≥ t.length then ranked else ranked.take a.topK
        let inK (v : Nat) : Bool := kept.any fun e => e.1 == v
        let p := softmax sh (t.mapIdx fun v x => if inK v then some x else none)
        let pk := kept.map fun e => (e.1, p.getD e.1 0#32)
        if pk.any (fun e => isNaN e.2) then none
        else
          let order := sortBy ranksBefore pk
          let c := scan 0#32 (order.map (·.2))
          let m := order.length
          let r := if !flt a.topP one32 then m
            else match c.findIdx? (fun x => !flt x a.topP) with | some i => i + 1 | none => m
          let P := c.getD (r - 1) 0#32
          if P = 0#32 then some g
          else
            let w := philoxDraw a.seed a.step a.reqId 0 0
            let u0 := roundFp32 (w / 2 ^ 8 : Nat) (-24)
            let target := fmul u0 P
            let i := ((c.take r).findIdx? (fun x => flt target x)).getD (r - 1)
            some (order.getD i (g, 0#32)).1

/-- u1 of R58. -/
def uniform1 (w : Nat) : W32 := roundFp32 ((w / 2 ^ 8 + 1 : Nat)) (-24)

/-- The chosen token's log-probability and the `n` best alternatives (R207), from the penalised logits. -/
def logProbs (sh : Sharding) (z : List W32) (chosen n : Nat) : W32 × List (Nat × W32) :=
  let y := softmax sh (z.map some)
  let lp := y.map flog
  (lp.getD chosen nan32, (sortBy ranksBefore (lp.mapIdx fun v x => (v, x))).take n)

/-- The bucket of a token in a count table (R208). -/
def bucketOf (v : Nat) : Nat := v * 0x9E3779B1 % 2 ^ 32 / 2 ^ 25

/-- A count table: the 16 entries of each bucket, token id and count (R208). -/
abbrev CountTab := Nat → List (Nat × Nat)

/-- The token id of an unused entry. -/
abbrev noToken : Nat := 0xFFFFFFFF

/-- The count of a token. -/
def countOf (t : CountTab) (v : Nat) : Option Nat := ((t (bucketOf v)).find? (fun e => e.1 == v)).map (·.2)

/-- Count one token in its bucket: its entry gains 1, or it takes the lowest unused one; `none` when the bucket is full
(R209, R210). -/
def countToken (t : CountTab) (v : Nat) : Option CountTab :=
  let b := bucketOf v
  let l := t b
  let put (i n : Nat) : CountTab := fun x => if x = b then l.set i (v, n) else t x
  match l.findIdx? (fun e => e.1 == v) with
  | some i => some (put i ((l.getD i (v, 0)).2 + 1))
  | none => (l.findIdx? (fun e => e.1 == noToken)).map (fun i => put i 1)

/-- Count tokens in order: the table and whether some token found its bucket full. -/
def countTokens (t : CountTab) (vs : List Nat) : CountTab × Bool :=
  vs.foldl (fun acc v => match countToken acc.1 v with
    | some t => (t, acc.2)
    | none => (acc.1, true)) (t, false)

/-- The node key of R177. -/
def nodeKey (domain prev : Nat) (tokens : List Nat) : Nat :=
  leAt (sha3Bytes (leBytes 8 domain ++ leBytes 8 prev ++ tokens.flatMap (leBytes 4))) 0 8

/-! ### skim-W (R59, R60) -/

/-- Canonical prefix code from 256 code lengths: (length, code, byte). DESIGN CHOICE (log 88), as R59 says only that the lengths
define a canonical prefix code: the first code is 0, and codes follow in ascending length and then ascending byte value. -/
def canonCode (lens : List Nat) : List (Nat × Nat × Nat) :=
  let syms := (upto 16).flatMap fun l => (upto 256).filterMap fun b => if lens.getD b 0 = l ∧ l > 0 then some (l, b) else none
  (syms.foldl (fun (acc : List (Nat × Nat × Nat) × Nat × Nat) s =>
    let code := if acc.1.isEmpty then 0 else (acc.2.2 + 1) * 2 ^ (s.1 - acc.2.1)
    (acc.1 ++ [(s.1, code, s.2)], s.1, code)) ([], 0, 0)).1

/-- A code is complete when every byte value has a length from 1 to 15 and the Kraft sum is exactly 1 (R59, R60). -/
def codeComplete (lens : List Nat) : Bool :=
  lens.length == 256 && lens.all (fun l => decide (1 ≤ l) && decide (l ≤ 15)) &&
    (lens.foldl (fun acc l => acc + 2 ^ (15 - l)) 0 == 2 ^ 15)

/-- Decode one symbol from the front of a bit list. -/
def decodeSym (tbl : List (Nat × Nat × Nat)) : Nat → Nat → Nat → List Bool → Option (Nat × List Bool)
  | 0, _, _, _ => none
  | _ + 1, _, _, [] => none
  | n + 1, len, acc, b :: t =>
    let acc := acc * 2 + b2n b
    match tbl.find? (fun e => e.1 == len + 1 && e.2.1 == acc) with
    | some e => some (e.2.2, t)
    | none => decodeSym tbl n (len + 1) acc t

/-- Decode symbols until the bits end. -/
def decodeAll (tbl : List (Nat × Nat × Nat)) : Nat → List Bool → Option (List Nat)
  | 0, l => if l.isEmpty then some [] else none
  | n + 1, l =>
    if l.isEmpty then some []
    else match decodeSym tbl 15 0 0 l with
      | some (b, t) => (decodeAll tbl n t).map (b :: ·)
      | none => none

/-- A curd: its header and coded words to 4,096 bytes, `none` when malformed (R60). DESIGN CHOICE (log 88), as R59 says only "in
stream order": the bits of the stream run from bit 0 of the first byte, and a code's own bits from its most significant. -/
def decodeCurd (B : Nat) (lens : List Nat) (header : Nat) (coded : List Byte) : Option (List Nat) :=
  let n := header % 2 ^ 16
  if n > 256 * B || !codeComplete lens then none
  else
    let bs := (coded.flatMap fun b => (upto 8).map fun i => bit b.toNat i).take n
    match decodeAll (canonCode lens) 4096 bs with
    | some out => if out.length = 4096 then some out else none
    | none => none

end Sys2Proof
end

