-- ==== Sys2Proof/Machine/Operands.lean ====
section
/-! DEFINITION. The operand forms: tensor descriptors (R101 to R108), Press descriptors (R118, R120), churn commands
(R140), and the fields of request records and ring entries. -/

namespace Sys2Proof.Machine

open Sys2Proof

/-! ### Tensor descriptors (R101 to R108) -/

/-- A dimension of a tensor descriptor (R101). -/
structure TDim where
  extent : Nat
  stride : Nat
  gext : Nat
  kind : Nat
  count : Nat
  coord : Nat
  cyc : Nat
  deriving DecidableEq, Repr, Inhabited

/-- A tensor descriptor (R101). -/
structure TDesc where
  rank : Nat
  fmt : Nat
  space : Nat
  ro : Bool
  shift : Nat
  mask : Nat
  base : Nat
  scale : Nat
  dims : List TDim
  deriving DecidableEq, Repr, Inhabited

/-- Word `i` of a descriptor's words. -/
def wordOf (ws : List W64) (i : Nat) : Nat := (ws.getD i 0).toNat

/-- Dimension `d` of the words. -/
def TDim.ofWords (ws : List W64) (d : Nat) : TDim :=
  let a := wordOf ws (4 + 2 * d)
  let b := wordOf ws (5 + 2 * d)
  ⟨bits a 0 24, bits a 25 39, bits b 0 24, bits b 24 2, bits b 26 13, bits b 39 13, bits b 52 5⟩

def TDesc.ofWords (ws : List W64) : TDesc :=
  let h := wordOf ws 0
  ⟨bits h 0 3, bits h 8 4, bits h 12 1, bit h 13, bits h 16 3, bits h 24 8, bits (wordOf ws 1) 0 40,
    bits (wordOf ws 2) 0 40, (upto (Nat.min 6 (bits h 0 3))).map (TDim.ofWords ws)⟩

/-- Width in bits of an element of a format code (R102); a skim-K image counts its words (log 26). -/
def fmtWidth : Nat → Nat
  | 0x0 => 32 | 0x1 => 16 | 0x2 => 16 | 0x3 => 8 | 0x4 => 8 | 0x5 => 8 | 0x6 => 8 | 0x7 => 6 | 0x8 => 6 | 0x9 => 4
  | 0xA => 8 | 0xB => 4 | 0xC => 32 | 0xD => 64 | 0xE => 256
  | _ => 0

/-- A Microscaling format code. -/
def fmtMx (f : Nat) : Bool := decide (5 ≤ f) && decide (f ≤ 9)

/-- The element format of a format code (R102). -/
def fmtNum : Nat → NumFmt
  | 0x1 => .fp16 | 0x2 => .bf16 | 0x3 => .e4m3 | 0x4 => .e5m2 | 0x5 => .e4m3 | 0x6 => .e5m2 | 0x7 => .e2m3
  | 0x8 => .e3m2 | 0x9 => .e2m1 | 0xA => .int8 | 0xB => .int4 | 0xC => .int32 | 0xD => .int64
  | _ => .fp32

/-- Round up to a multiple of `m`. -/
def roundUp (m x : Nat) : Nat := (x + (m - 1)) / m * m

/-- Ceiling of a quotient. -/
def ceilDiv (x m : Nat) : Nat := (x + (m - 1)) / m

def TDesc.dim (t : TDesc) (d : Nat) : TDim := t.dims.getD d ⟨1, 0, 1, 0, 1, 0, 0⟩
def TDesc.ext (t : TDesc) (d : Nat) : Nat := (t.dim d).extent
def TDesc.mx (t : TDesc) : Bool := fmtMx t.fmt
def TDesc.width (t : TDesc) : Nat := fmtWidth t.fmt

/-- Bytes of a row (R105). -/
def TDesc.rowBytes (t : TDesc) : Nat :=
  let n := if t.mx then roundUp 32 (t.ext 0) else t.ext 0
  roundUp 32 (ceilDiv (n * t.width) 8)

/-- Rows over dimensions 1 and up. -/
def TDesc.nRows (t : TDesc) : Nat := (t.dims.drop 1).foldl (fun n d => n * d.extent) 1

/-- Bytes of a row of the scale array (R105). -/
def TDesc.scaleRow (t : TDesc) : Nat := roundUp 32 (ceilDiv (t.ext 0) 32)

/-- Bytes from the base to the end of the last element's row. -/
def TDesc.span (t : TDesc) : Nat := t.rowBytes + (t.dims.drop 1).foldl (fun n d => n + (d.extent - 1) * d.stride) 0

/-- Unit size of an address space: a quarter's 64 MiB of addresses, or a half. -/
def spaceBits (space : Nat) : Nat := if space = 0 then 26 else 35
/-- Populated bytes of a unit (R95, R134). -/
def spaceTop (space : Nat) : Nat := if space = 0 then 0x3000000 else 2 ^ 35

/-- The logical or physical quarter (or half) of an address. -/
def TDesc.unit (t : TDesc) : Nat := t.base / 2 ^ spaceBits t.space
/-- The offset of the base in its unit. -/
def TDesc.off (t : TDesc) : Nat := t.base % 2 ^ spaceBits t.space
def TDesc.scaleOff (t : TDesc) : Nat := t.scale % 2 ^ spaceBits t.space

/-- How dimension `d` is sharded. -/
def TDim.sharding (d : TDim) : Sharding := ⟨d.kind, d.count, 2 ^ d.cyc⟩

/-- Whether a dimension meets R103 (and R46 on virtual sizes); a Microscaling dimension 0 also R104 (log 27). -/
def TDim.ok (d : TDim) (blocked : Bool) : Bool :=
  decide (1 ≤ d.count) && decide (d.count ≤ 4096) && decide (2 ^ Nat.log2 d.count = d.count) &&
  decide (d.coord < d.count) && decide (d.cyc ≤ 20) &&
  (d.kind != 0 || (d.count == 1 && d.coord == 0)) && (d.kind == 3 || d.cyc == 0) &&
  decide (1 ≤ d.extent) && d.extent == d.sharding.held d.gext d.coord &&
  (!blocked ||
    (match d.kind with
      | 1 => d.count == 1 || ceilDiv d.gext d.count % 32 == 0
      | 2 => d.count == 1
      | 3 => decide (5 ≤ d.cyc)
      | _ => true))

/-- The bits that R101 names, by word. -/
def namedBits (rank i : Nat) : Nat :=
  match i with
  | 0 => 0xFF073F07
  | 1 => 2 ^ 40 - 1
  | 2 => 2 ^ 40 - 1
  | 3 => 0
  | n => if n < 4 + 2 * rank then (if n % 2 = 0 then 2 ^ 64 - 1 - 2 ^ 24 else 2 ^ 57 - 1) else 0

/-- The cause of R108 for which the part refuses a descriptor, 0 for none; `ok` tells whether a quarter or half is
within reach. DESIGN CHOICE (log 84): base bits above the quarter or half number (a Vat base's [39:30], bit 39 of a stack
base) that are not zero give RANGE, as they name no quarter or half; R101 wants them zero and R108 names no cause. -/
def descCause (ws : List W64) (ok : Nat → Bool) : Nat :=
  let t := TDesc.ofWords ws
  if t.rank = 0 ∨ t.rank > 6 ∨ (upto 16).any (fun i => decide (4 + 2 * t.rank ≤ i) && wordOf ws i != 0) then 1
  else if t.fmt = 0xF ∨ (t.scale ≠ 0 ∧ ¬ t.mx) then 2
  else if t.base % 32 ≠ 0 ∨ t.scale % 32 ≠ 0 then 3
  else if (t.dim 0).stride ≠ 0 ∨ t.dims.any (fun d => d.stride % 32 != 0) then 4
  else if t.unit ≥ 16 ∨ ¬ ok t.unit ∨ t.off + t.span > spaceTop t.space ∨
      (t.mx ∧ (t.scale / 2 ^ spaceBits t.space ≠ t.unit ∨ t.scaleOff + t.nRows * t.scaleRow > spaceTop t.space)) then 5
  else if !(t.dims.mapIdx (fun i d => d.ok (i == 0 && t.mx))).all id then 6
  else if t.shift > 5 ∨ (t.space = 1 ∧ (t.shift ≠ 0 ∨ t.mask ≠ 0)) then 7
  else if ¬ t.ro ∧ ((2 ≤ t.rank ∧ (t.dim 1).stride < t.rowBytes) ∨
      (upto t.rank).any (fun d => decide (2 ≤ d) && decide ((t.dim d).stride < (t.dim (d - 1)).stride * t.ext (d - 1)))) then 8
  else if (upto 16).any (fun i => (wordOf ws i) &&& (2 ^ 64 - 1 - namedBits t.rank i) != 0) then 9
  else 0

/-- The byte of the unit at which a row starts: indices of dimensions 1 and up (R105). -/
def TDesc.rowByte (t : TDesc) (hi : List Nat) : Nat :=
  t.off + (List.zipWith (fun (d : TDim) l => l * d.stride) (t.dims.drop 1) hi).foldl (· + ·) 0

/-- Row-major number of a row. -/
def TDesc.rowNo (t : TDesc) (hi : List Nat) : Nat :=
  (List.zip (t.dims.drop 1) hi).reverse.foldl (fun n e => n * e.1.extent + e.2) 0

/-- The byte of the unit that holds the scale of element l0 of a row. -/
def TDesc.scaleByte (t : TDesc) (l0 : Nat) (hi : List Nat) : Nat := t.scaleOff + t.rowNo hi * t.scaleRow + l0 / 32

/-! ### Press descriptors (R118) -/

structure PressDesc where
  kind : Nat
  engine : Nat
  lq : Nat
  pc : Nat
  frame : Nat
  desc : Nat
  slot : Nat
  rowSlot : Nat
  rows : Nat
  acc : Nat
  cls : Nat
  cont : Bool
  o0 : Nat
  o1 : Nat
  kLen : Nat
  ncols : Nat
  deriving DecidableEq, Repr, Inhabited

def PressDesc.ofWords (d : Words4) : PressDesc :=
  let a := d.w0.toNat
  let b := d.w1.toNat
  let c := d.w2.toNat
  ⟨bits a 0 4, bits a 4 2, bits a 6 4, bits a 10 6, bits a 16 32, bits b 0 16, bits b 16 5, bits b 21 13, bits b 34 10,
    bits b 44 9, bits b 53 2, bit b 55, bits c 0 24, bits c 24 24, bits c 48 10, bits d.w3.toNat 0 10⟩

/-- Reserved bits of a Press descriptor are zero. -/
def pressReserved (d : Words4) : Bool :=
  bits d.w0.toNat 48 16 == 0 && bits d.w1.toNat 56 8 == 0 && bits d.w2.toNat 58 6 == 0 && bits d.w3.toNat 10 54 == 0

/-- Tile depth of a rate class (R114). -/
def classDepth (c : Nat) : Nat := match c with | 0 => 512 | 1 => 256 | _ => 128

/-- Whether a format fits a rate class (R114). -/
def fmtFits (f c : Nat) : Bool :=
  match c with
  | 0 => f == 9 || f == 0xB
  | 1 => (decide (3 ≤ f) && decide (f ≤ 0xB))
  | _ => (decide (1 ≤ f) && decide (f ≤ 0xB))

/-- The check of R120 on a descriptor by itself, given the tensor descriptor it names. DESIGN CHOICE (log 85), as the manual
states only the range of each field: the origins of a PASS, which no kind of the table is named for, are zero as a field
marked "—" is; and the last row slot and the last accumulator row lie in their buffers. -/
def pressDescOk (d : Words4) (t : TDesc) : Bool :=
  let p := PressDesc.ofWords d
  let rowsOk := decide (1 ≤ p.rows) && decide (p.rows ≤ 512)
  let colsOk := decide (1 ≤ p.ncols) && decide (p.ncols ≤ 512)
  pressReserved d &&
  (match p.kind with
    | 1 => decide (p.slot < 30) && p.rowSlot == 0 && p.rows == 0 && p.acc == 0 && decide (p.cls ≤ 2) && !p.cont &&
        p.kLen == 0 && colsOk && p.o0 % 32 == 0 && fmtFits t.fmt p.cls
    | 2 => p.slot == 0 && decide (p.rowSlot + p.rows ≤ 7168) && rowsOk && p.acc == 0 && decide (p.cls ≤ 2) && !p.cont &&
        p.kLen == 0 && p.ncols == 0 && p.o0 % 32 == 0 && fmtFits t.fmt p.cls
    | 3 => p.desc == 0 && decide (p.slot < 30) && decide (p.rowSlot + p.rows ≤ 7168) && rowsOk &&
        decide (p.acc + p.rows ≤ 512) && p.cls == 0 && p.o0 == 0 && p.o1 == 0 && decide (1 ≤ p.kLen) &&
        decide (p.kLen ≤ 512) && p.ncols == 0
    | 4 => p.slot == 0 && p.rowSlot == 0 && rowsOk && decide (p.acc + p.rows ≤ 512) && p.cls == 0 && !p.cont &&
        p.kLen == 0 && colsOk && (!t.mx || (p.ncols % 32 == 0 && p.o0 % 32 == 0)) && t.fmt != 0xE && t.fmt != 0xF
    | 5 => p.slot == 0 && p.rowSlot == 0 && rowsOk && decide (p.acc + p.rows ≤ 512) && p.cls == 0 && !p.cont &&
        p.kLen == 0 && colsOk && t.fmt == 0
    | _ => false)

/-! ### Churn commands (R140) -/

structure ChurnCmd where
  op : Nat
  lq : Nat
  bc : Nat
  frame : Nat
  indirect : Bool
  first : Nat
  n : Nat
  stride : Nat
  pail : Nat
  row : Nat
  count : Nat
  reg : Nat
  acc : Nat
  lane : Nat
  fmt : Nat
  cont : Bool
  kLen : Nat
  imm : W32
  mask : Nat
  deriving DecidableEq, Repr, Inhabited

def ChurnCmd.ofWords (d : Words4) : ChurnCmd :=
  let a := d.w0.toNat
  let b := d.w1.toNat
  let c := d.w2.toNat
  let e := d.w3.toNat
  ⟨bits a 0 5, bits a 5 4, bits a 9 5, bits a 14 32, bit a 46, bits b 0 9, bits b 9 10, bits b 19 9, bits b 28 12,
    bits b 40 9, bits c 0 10, bits c 10 4, bits c 14 2, bits c 16 4, bits c 20 4, bit c 24, bits c 25 9,
    BitVec.ofNat 32 (bits e 0 32), bits e 32 16⟩

/-- The banks of the set (R140). -/
def ChurnCmd.banks (c : ChurnCmd) : List Nat := (upto c.n).map (fun i => c.first + i * c.stride)

/-- The check-row length in words that a streaming command needs (R141, R142, R167); 0 for a format that the command
does not take (R139). -/
def ChurnCmd.rowLen (c : ChurnCmd) : Nat :=
  match c.op with
  | 2 => (match c.fmt with
      | 9 => 17 | 5 => 33 | 6 => 33 | 3 => 32 | 4 => 32 | 0xA => 32 | 0xB => 16 | 1 => 64 | 2 => 64
      | _ => 0)
  | 8 => (match c.fmt with
      | 0xE => c.kLen / 32 + c.kLen / 4
      | 1 => c.kLen | 2 => c.kLen
      | _ => 0)
  | 12 => (match c.fmt with
      | 0xE => 18
      | 1 => 64 | 2 => 64
      | _ => 0)
  | _ => 0

/-- A streaming command: DOT, SCORE or WACC. -/
def ChurnCmd.streams (c : ChurnCmd) : Bool := c.op == 2 || c.op == 8 || c.op == 12

/-- Operand ranges by opcode (R140, R141). -/
def churnRange (c : ChurnCmd) : Bool :=
  match c.op with
  | 1 => decide (1 ≤ c.count) && decide (c.count + c.reg ≤ 16)
  | 2 => decide (1 ≤ c.count) && decide (c.count ≤ 16) && decide (16 * c.acc + c.lane + 4 * c.count ≤ 64) &&
      decide (1 ≤ c.kLen) && decide (c.kLen ≤ 256) && decide (c.reg + ceilDiv c.kLen 16 ≤ 16) && c.rowLen != 0
  | 4 => decide (1 ≤ c.count) && decide (c.acc + c.count ≤ 4)
  | 8 => (c.kLen == 64 || c.kLen == 128 || c.kLen == 256) && decide (c.reg + c.kLen / 16 ≤ 16) && c.rowLen != 0
  | 9 => decide (c.acc ≤ 2)
  | 10 => decide (c.acc ≤ 2)
  | 11 => decide (c.acc ≤ 2)
  | 12 => decide (c.acc ≤ 1) && c.kLen == 16 && c.rowLen != 0
  | _ => true

/-- The fields that an opcode does not use are zero (R140): set and start of an indirect command, the operand's place and
format of a command that streams nothing, and count, registers, lanes, mode, length, constant and mask elsewhere. SCORE and
WACC stream one check row, so their count, in which R140 codes the rows of a streaming command, is 1, or 0 for a field not
used. -/
def churnUnused (c : ChurnCmd) : Bool :=
  let z (used : Bool) (v : Nat) : Bool := used || v == 0
  let op := c.op
  let streams := c.streams
  z (!c.indirect) c.n && z (!c.indirect) c.stride && z (streams && !c.indirect) c.pail && z (streams && !c.indirect) c.row &&
  (if op == 8 ∨ op == 12 then decide (c.count ≤ 1) else z (op == 1 || op == 2 || op == 4) c.count) && z (op == 1 || op == 2 || op == 8) c.reg && z (op != 1 && op != 5) c.acc &&
  z (op == 2) c.lane && z streams c.fmt && z (op == 2) (b2n c.cont) && z streams c.kLen && z (op == 10) c.imm.toNat &&
  z (op == 9 || op == 10) c.mask

/-- Reserved bits zero, the opcode the row's, the set's members below 512, the operands in range, unused fields zero. -/
def churnCmdOk (op : Nat) (d : Words4) : Bool :=
  let c := ChurnCmd.ofWords d
  bits d.w0.toNat 47 17 == 0 && bits d.w1.toNat 49 15 == 0 && bits d.w2.toNat 34 30 == 0 && bits d.w3.toNat 48 16 == 0 &&
  c.op == op && decide (c.bc ≤ 28) && churnRange c && churnUnused c &&
  (if c.indirect then decide (c.first < 256)
   else decide (1 ≤ c.n) && decide (c.n ≤ 256) && decide (1 ≤ c.stride) && decide (c.first + (c.n - 1) * c.stride < 512))

/-! ### The request record (R187) -/

def rqId (r : List Byte) : Nat := leAt r 0 4
def rqFlags (r : List Byte) : Nat := leAt r 4 1
def rqShare (r : List Byte) : Bool := bit (rqFlags r) 0
def rqCountPrompt (r : List Byte) : Bool := bit (rqFlags r) 1
def rqOverflowRetire (r : List Byte) : Bool := bit (rqFlags r) 2
def rqShip (r : List Byte) : Bool := bit (rqFlags r) 3
def rqLpAlts (r : List Byte) : Nat := leAt r 5 1
/-- Holds allowed: 0 means 3. -/
def rqHoldLimit (r : List Byte) : Nat := let h := leAt r 6 1; if h = 0 then 3 else h
def rqSeed (r : List Byte) : Nat := leAt r 8 8
def rqDomain (r : List Byte) : Nat := leAt r 0x10 8
def rqDeadline (r : List Byte) : Nat := leAt r 0x18 8
def rqStepBase (r : List Byte) : Nat := leAt r 0x20 4
def rqMaxNew (r : List Byte) : Nat := leAt r 0x24 4
def rqPromptLen (r : List Byte) : Nat := leAt r 0x28 4
def rqTopK (r : List Byte) : Nat := leAt r 0x2C 4
def rqTemperature (r : List Byte) : W32 := BitVec.ofNat 32 (leAt r 0x30 4)
def rqTopP (r : List Byte) : W32 := BitVec.ofNat 32 (leAt r 0x34 4)
def rqRepetition (r : List Byte) : W32 := BitVec.ofNat 32 (leAt r 0x38 4)
def rqPresence (r : List Byte) : W32 := BitVec.ofNat 32 (leAt r 0x3C 4)
def rqFrequency (r : List Byte) : W32 := BitVec.ofNat 32 (leAt r 0x40 4)
def rqShipTarget (r : List Byte) : Nat := leAt r 0x44 4
def rqPromptAddr (r : List Byte) : Nat := leAt r 0x48 8
/-- The stop set: used entries. -/
def rqStop (r : List Byte) : List Nat := ((upto 8).map (fun i => leAt r (0x50 + 4 * i) 4)).filter (· != 0xFFFFFFFF)

/-! ### Register accesses and ring entries -/

/-- An access the part accepts: naturally aligned, 64 or 32 bits (R5). -/
def regAccessOk (off size : Nat) : Bool := (size == 8 || size == 4) && off % size == 0

/-- The kind field of a Press descriptor. -/
def pressKindIs (k : Nat) (d : Words4) : Bool := bits d.w0.toNat 0 4 == k

/-- A ring entry as read: 192 bytes (R291). -/
def ringReadOk (r : RingRead) : Bool := r.bytes.length == 192

/-- A codeword carries eight cells at most (R218). -/
def codewordOk (w : Codeword) : Bool := decide (w.cells.length ≤ 8)

/-! ### The plate's header (R82) -/

def plMagic (i : PlateImage) : Nat := leAt i.bytes 0 8
def plContainer (i : PlateImage) : Nat := leAt i.bytes 8 4
def plContract (i : PlateImage) : Nat := leAt i.bytes 0xC 4
def plTarget (i : PlateImage) : Nat := leAt i.bytes 0x10 4
def plDies (i : PlateImage) : Nat := leAt i.bytes 0x18 1
def plShape (i : PlateImage) (k : Nat) : Nat := bits (leAt i.bytes 0x1A 2) (4 * k) 4
def plSections (i : PlateImage) : Nat := leAt i.bytes 0x1C 4
def plModule (i : PlateImage) : W512 := BitVec.ofNat 512 (leAt i.bytes 0x20 64)
def plDigest (i : PlateImage) : W512 := BitVec.ofNat 512 (leAt i.bytes 0x60 64)
def plSectionType (i : PlateImage) (k : Nat) : Nat := leAt i.bytes (0xA8 + 24 * k) 4
def plSectionFlags (i : PlateImage) (k : Nat) : Nat := leAt i.bytes (0xAC + 24 * k) 4
def plSectionOff (i : PlateImage) (k : Nat) : Nat := leAt i.bytes (0xB0 + 24 * k) 8
def plSectionLen (i : PlateImage) (k : Nat) : Nat := leAt i.bytes (0xB8 + 24 * k) 8

/-- A plate has a section of a type with contents. -/
def plHas (i : PlateImage) (ty : Nat) : Bool :=
  (upto (Nat.min 32 (plSections i))).any (fun k => plSectionType i k == ty && plSectionLen i k != 0)

/-- What the sections say has a section that says it. -/
def plateOk (i : PlateImage) : Bool :=
  let b := i.body
  i.readError ||
  ((b.slots.isEmpty || plHas i 2) && (b.press.isEmpty || plHas i 3) && (b.code.isEmpty || plHas i 6) &&
    (b.commitFrames.isEmpty || plHas i 7) && (b.breaks.isEmpty || plHas i 8) && (b.proofs.isEmpty || plHas i 9) &&
    (b.init.isEmpty || plHas i 0xB))

end Sys2Proof.Machine
end

