-- ==== Sys2Proof/Machine/Attest.lean ====
section
/-! DEFINITION. What a copy of the image says; attestation: the report of the part and the requests for it (R353 to R355, R366,
R368, R369, R372). -/

namespace Sys2Proof

/-! ### A copy of the image (R353 to R355) -/

/-- Header bytes 0x0000 to 0x005F. -/
def ImageCopy.header (c : ImageCopy) : List Byte :=
  leBytes 8 c.magic.toNat ++ leBytes 4 c.headerVersion ++ leBytes 4 c.target ++ leBytes 4 c.svn ++ leBytes 4 c.sequence ++
    leBytes 4 c.bodyLength ++ leBytes 4 c.flags ++ leBytes 64 c.bodyDigest.toNat

/-- D: the copy's image digest. -/
def ImageCopy.imageDigest (c : ImageCopy) : W512 := sha3 c.header

/-- owner_signed. -/
def ImageCopy.ownerSigned (c : ImageCopy) : Bool := bit c.flags 0

/-- The entry k of the section table: type, flags, offset and length (R354). -/
def ImageCopy.secEntry (c : ImageCopy) (k : Nat) : Nat × Nat × Nat × Nat :=
  (leAt c.body (4 + 24 * k) 4, leAt c.body (8 + 24 * k) 4, leAt c.body (12 + 24 * k) 8, leAt c.body (20 + 24 * k) 8)

/-- The section table. -/
def ImageCopy.sections (c : ImageCopy) : List (Nat × Nat × Nat × Nat) := (upto (Nat.min 16 (leAt c.body 0 4))).map c.secEntry

/-- The table is well formed, types 1 and 2 are there, and a section of an unknown type is optional (R354, R357). A table or
section that ends beyond the body is not well formed: DEDUCED (log 76). -/
def ImageCopy.sectionsOk (c : ImageCopy) : Bool :=
  let n := leAt c.body 0 4
  decide (n ≤ 16) && decide (4 + 24 * n ≤ c.bodyLength) &&
    c.sections.all (fun e => decide (e.2.2.1 + e.2.2.2 ≤ c.bodyLength) && ((decide (1 ≤ e.1) && decide (e.1 ≤ 4)) || bit e.2.1 0)) &&
    c.sections.any (fun e => e.1 == 1) && c.sections.any (fun e => e.1 == 2)

/-- The configuration records: an offset and a value each (R355). -/
def ImageCopy.records (c : ImageCopy) : List (Nat × W64) :=
  (c.sections.filter (fun e => e.1 == 4)).flatMap (fun e =>
    (upto (e.2.2.2 / 16)).map (fun i => (leAt c.body (e.2.2.1 + 16 * i) 8, BitVec.ofNat 64 (leAt c.body (e.2.2.1 + 16 * i + 8) 8))))

/-- Digests of the raw public keys of a copy. -/
def ImageCopy.vendorKeySha (c : ImageCopy) : W512 := sha3 c.vendorKey
def ImageCopy.ownerKeySha (c : ImageCopy) : W512 := sha3 c.ownerKey

/-- The image in the first `len` bytes of a buffer: nothing of its body stands beyond them, and less than a header fails the
length check. DESIGN CHOICE (log 76): R363 does not say what BOOT_UPDATE_LEN cuts off. -/
def ImageCopy.cut (c : ImageCopy) (len : Nat) : ImageCopy :=
  if len < 0x4000 then { c with bodyLength := 2 ^ 32 - 1, body := [] } else { c with body := c.body.take (len - 0x4000) }

end Sys2Proof

namespace Sys2Proof.Machine

open Sys2Proof

/-! ### The report (R368) -/

/-- The copy of the image that runs: the one BOOT_STATUS.copy names, in an ordinary boot (R372). -/
def State.runningCopy (s : State) : Option ImageCopy :=
  if s.boot.phase = .running then (if s.on BOOT_STATUS_copy 0 then s.boot.copyB else s.boot.copyA) else none

/-- The owner hash as reports show it: zero where no owner is fused. -/
def State.ownerHash (s : State) : W512 := if s.boot.fuses.ownerFused then s.boot.fuses.ownerHash else 0

/-- The codes of R26, a nibble for each quarter. -/
def State.quarterNibbles (s : State) : Nat := (upto 16).foldl (fun n q => n + s.quarterCode q * 16 ^ q) 0

/-- The entry of a partition in a report (R368). -/
def State.reportPart (s : State) (p : Nat) : List Byte :=
  let x := s.part p
  let digests := if x.passed then (x.plate.map (fun i => (plModule i, plDigest i))).getD (0, 0) else (0, 0)
  leBytes 2 (s.pstate p) ++ leBytes 2 (s.rd PART_CFG_quarters p) ++ leBytes 4 0 ++ leBytes 64 digests.1.toNat ++
    leBytes 64 digests.2.toNat

/-- The body of a report for a function, or 0xFF for MCTP; a VF's is filtered (R368, R369). -/
def State.reportBody (s : State) (fn : Nat) (nonce : W256) : List Byte :=
  let filtered := decide (1 ≤ fn) && decide (fn ≤ 63)
  let flags := b2n s.boot.fuses.ownerFused + 2 * b2n s.boot.fuses.ownerRequired + 4 * b2n (!s.boot.fuses.debugDisable) + 8 * b2n filtered
  leBytes 8 0x5453455454415844 ++ leBytes 2 1 ++ leBytes 1 (s.rd BOOT_STATUS_copy 0) ++ leBytes 1 flags ++ leBytes 4 0x48 ++
    leBytes 8 (s.rd BOOT_FINGERPRINT_fingerprint 0) ++ leBytes 4 ((s.runningCopy.map ImageCopy.svn).getD 0) ++
    leBytes 4 (s.rd BOOT_STATUS_svnMin 0) ++ leBytes 4 0x10000 ++ leBytes 4 (s.rd BOOT_STATUS_warmResets 0) ++ leBytes 8 s.dt ++
    leBytes 32 nonce.toNat ++ leBytes 64 ((s.runningCopy.map ImageCopy.imageDigest).getD 0).toNat ++ leBytes 64 s.ownerHash.toNat ++
    leBytes 8 (if filtered then 0 else s.quarterNibbles) ++ leBytes 1 fn ++ leBytes 7 0 ++
    (upto 16).flatMap (fun p => if filtered ∧ s.bound.get fn ≠ p then leBytes 136 0 else s.reportPart p)

/-- A signature as the part writes it: 4,627 bytes. -/
def sigBytes (b : List Byte) : List Byte := (b ++ leBytes 4627 0).take 4627

/-- A signed report. -/
def State.report (s : State) (fn : Nat) (nonce : W256) : List Byte :=
  let b := s.reportBody fn nonce
  b ++ sigBytes (Config.sign s.boot.fuses.identitySeed 1 (sha3 b))

/-- A request of a function (R369): queued, or ignored with lost set while its request is busy; in RECOVERY it does not
act (R362). -/
def State.attestAsk (s : State) (fn : Nat) (nonce : W256) : State :=
  if s.boot.phase = .recovery then s
  else if s.on BOOT_ATTEST_STATUS_busy fn then s.wr BOOT_ATTEST_STATUS_lost fn 1
  else { s with boot := { s.boot with attest := s.boot.attest ++ [(fn, s.rd BOOT_ATTEST_ADDR_addr fn, nonce)] } }.wr BOOT_ATTEST_STATUS_busy fn 1

/-- ATTEST_REQUEST. -/
def execAttestRequest (src : Src) (fn : Fin 64) (nonce : W256) (s : State) : Result :=
  .next (if ownFn src fn then
    s.access src (viewOff src fn BOOT_ATTEST_CMD_start) 8 1 (fun s => s.attestAsk fn nonce) else s)

/-- The oldest request is served at a frame start: the report over the buffer, or an error without an identity or with a
buffer off its alignment (R362, R369; log 64). -/
def State.attestServe (s : State) : State :=
  match s.boot.attest with
  | [] => s
  | (fn, addr, nonce) :: t =>
    let ok := s.on BOOT_STATUS_identityOk 0 && addr % 4096 == 0
    let s' := { s with boot := { s.boot with attest := t } }
    let s' := if ok then s'.emit (.hostWrite addr (s.report fn nonce) []) else s'
    s'.wrs fn [(BOOT_ATTEST_STATUS_busy, 0), (BOOT_ATTEST_STATUS_done, 1), (BOOT_ATTEST_STATUS_error, b2n (!ok))]

end Sys2Proof.Machine
end

