-- ==== Sys2Proof/Machine/Flags.lean ====
section
/-! DEFINITION. The status bits: command status registers, fault records of a partition, and the live status words. -/

namespace Sys2Proof.Machine

open Sys2Proof

/-! ### Command status registers: busy while it runs; at its end done, error and cause (R284, R302, R327, R372) -/

/-- PART_CMD_STATUS changes to busy (R266, R298). -/
def State.pcmdBusy (s : State) : State := (s.wr PART_CMD_STATUS_busy 0 1).partEvent 1

/-- A partition command ends with a cause, 0 for success. -/
def State.pcmdEnd (s : State) (cause : Nat) : State :=
  ((({ s with pcmd := none }.wr PART_CMD_STATUS_busy 0 0).wr PART_CMD_STATUS_done 0 1).wrs 0
    [(PART_CMD_STATUS_error, b2n (cause != 0)), (PART_CMD_STATUS_cause, cause)]).partEvent 1

/-- A partition command written while busy sets lost (R276). -/
def State.pcmdLost (s : State) : State :=
  if s.on PART_CMD_STATUS_lost 0 then s else (s.wr PART_CMD_STATUS_lost 0 1).partEvent 1

/-- Causes of PART_CMD_STATUS (R284). -/
abbrev causeState : Nat := 1
abbrev causeQuarter : Nat := 2
abbrev causePriority : Nat := 3
abbrev causeRefused : Nat := 4
abbrev causeFetch : Nat := 5

/-- A repair operation ends with a cause, 0 for success (R327). -/
def State.repairEnd (s : State) (cause : Nat) : State :=
  { s with repair := none }.wrs 0 [(INT_REPAIR_STATUS_busy, 0), (INT_REPAIR_STATUS_done, 1),
    (INT_REPAIR_STATUS_error, b2n (cause != 0)), (INT_REPAIR_STATUS_cause, cause)]

/-- A repair operation that takes time starts. -/
def State.repairStart (s : State) (r : Repair) : State := { s with repair := some r }.wr INT_REPAIR_STATUS_busy 0 1

/-- An update operation ends with a cause and a detail (R372). -/
def State.updateEnd (s : State) (cause detail : Nat) : State :=
  s.wrs 0 [(BOOT_UPDATE_STATUS_busy, 0), (BOOT_UPDATE_STATUS_done, 1), (BOOT_UPDATE_STATUS_error, b2n (cause != 0)),
    (BOOT_UPDATE_STATUS_cause, cause), (BOOT_UPDATE_STATUS_detail, detail)]

/-- A remote access ends with a cause (R301, R302). -/
def State.rmtEnd (s : State) (cause : Nat) : State :=
  { s with rmt := none }.wrs 0 [(HIF_RMT_STATUS_busy, 0), (HIF_RMT_STATUS_done, 1), (HIF_RMT_STATUS_error, b2n (cause != 0)),
    (HIF_RMT_STATUS_cause, cause)]

/-- A refill ends (R151, R158). -/
def State.refillEnd (s : State) (err : Bool) : State :=
  { s with refill := none }.wrs 0 [(STK_REFILL_STATUS_busy, 0), (STK_REFILL_STATUS_done, 1), (STK_REFILL_STATUS_error, b2n err)]

/-! ### Fault records of a partition: written while valid is 0, afterwards only more (R113, R131, R158) -/

/-- A PLATE_CONFLICT of partition p at a bank and run-frame plate cycle, with the ports that met (R111, R113). -/
def State.recConflict (s : State) (p bank T portA portB : Nat) : State :=
  if s.on VAT_CONFLICT_STATUS_valid p then s.wr VAT_CONFLICT_STATUS_more p 1
  else s.wrs p [(VAT_CONFLICT_STATUS_valid, 1), (VAT_CONFLICT_STATUS_bank, bank), (VAT_CONFLICT_STATUS_pc, T % 64),
    (VAT_CONFLICT_STATUS_portA, Nat.min portA portB), (VAT_CONFLICT_STATUS_portB, Nat.max portA portB),
    (VAT_CONFLICT_FRAME_runFrame, T / 64)]

/-- A Press hazard or Burin overrun of a unit (R131). -/
def State.recPress (s : State) (p cause unit T : Nat) : State :=
  if s.on PRESS_FAULT_STATUS_valid p then s.wr PRESS_FAULT_STATUS_more p 1
  else s.wrs p [(PRESS_FAULT_STATUS_valid, 1), (PRESS_FAULT_STATUS_cause, cause), (PRESS_FAULT_STATUS_unit, unit),
    (PRESS_FAULT_STATUS_pc, T % 64), (PRESS_FAULT_FRAME_runFrame, T / 64)]

/-- A churn hazard at a plate bank cycle counted from cold reset (R158). -/
def State.recChurn (s : State) (p cause half bank B : Nat) : State :=
  if s.on STK_FAULT_STATUS_valid p then s.wr STK_FAULT_STATUS_more p 1
  else s.wrs p [(STK_FAULT_STATUS_valid, 1), (STK_FAULT_STATUS_cause, cause), (STK_FAULT_STATUS_half, half),
    (STK_FAULT_STATUS_bank, bank), (STK_FAULT_STATUS_bc, B % 29), (STK_FAULT_FRAME_runFrame, B / 29)]

/-- A row-sum mismatch (R150, R158). -/
def State.recRowSum (s : State) (p half bank pail : Nat) : State :=
  if s.on STK_ROWSUM_STATUS_valid p then s.wr STK_ROWSUM_STATUS_more p 1
  else s.wrs p [(STK_ROWSUM_STATUS_valid, 1), (STK_ROWSUM_STATUS_cause, 0), (STK_ROWSUM_STATUS_half, half),
    (STK_ROWSUM_STATUS_bank, bank), (STK_ROWSUM_STATUS_bc, 0), (STK_ROWSUM_STATUS_pail, pail)]

/-! ### Live status (R378, 17_package_and_signals.md) -/

/-- DEV_STATUS: the live value of each of its sources (R378). -/
def State.devStatus (s : State) : Nat :=
  let fields : List (Fld × Nat) :=
    [(DEV_STATUS_bootState, s.rd BOOT_STATUS_state 0), (DEV_STATUS_pwrState, s.rd PWR_STATUS_state 0),
     (DEV_STATUS_logUnread, b2n (s.rd INT_LOG_STATUS_unread 0 != 0)), (DEV_STATUS_logLost, b2n (s.rd INT_LOG_STATUS_lost 0 != 0)),
     (DEV_STATUS_halted, b2n ((upto 16).any (s.on PART_STATUS_halted))),
     (DEV_STATUS_svcQuarantine, b2n (s.rd SVC_QUAR_quarantined 0 != 0)),
     (DEV_STATUS_portQuarantine, b2n ((upto 16).any (fun j => s.rd LRT_PORT_STATUS_state j == 7))),
     (DEV_STATUS_stalled, b2n ((upto 64).any (s.on HIF_FN_STATUS_stalled))),
     (DEV_STATUS_hardTrip, s.rd PWR_STATUS_hardTrip 0),
     (DEV_STATUS_quarterOut, b2n ((upto 16).any (fun q => (s.q q).svc != .none))),
     (DEV_STATUS_dieFenced, s.dieFence),
     (DEV_STATUS_groupWithdrawn, b2n (s.groups.any (fun g => g.2.withdrawn)))]
  fields.foldl (fun n e => setBits n e.1.lo e.1.wid e.2) 0

/-- thermtrip_n is low from a hard trip until the part leaves TRIPPED. -/
def State.thermtripLow (s : State) : Bool := s.rd PWR_STATUS_state 0 == 4 && s.pwr.tripPin

/-- alert_n is low while any of warning, throttle, shutdown, supply or cap is set in PWR_STATUS. -/
def State.alertLow (s : State) : Bool := s.rd PWR_STATUS_warning 0 + s.rd PWR_STATUS_throttle 0 + s.rd PWR_STATUS_shutdown 0 +
  s.rd PWR_STATUS_supply 0 + s.rd PWR_STATUS_cap 0 != 0

end Sys2Proof.Machine
end

