-- ==== Sys2Proof/Machine/Links.lean ====
section
/-! DEFINITION. Shared operations of the links: cells, egress, windows, groups and their withdrawal, a port going
DOWN (R219 to R235, R248 to R258). -/

namespace Sys2Proof.Machine

open Sys2Proof

def State.port (s : State) (j : Nat) : Port := s.ports.get j
def State.updPort (s : State) (j : Nat) (f : Port → Port) : State := { s with ports := s.ports.upd j f }

/-- LRT_PORT_STATUS_j.state (R224). -/
def State.portState (s : State) (j : Nat) : Nat := s.rd LRT_PORT_STATUS_state j

/-- State codes of R224. -/
abbrev pDISABLED : Nat := 0
abbrev pDOWN : Nat := 1
abbrev pLOWTRAIN : Nat := 2
abbrev pAUTH : Nat := 3
abbrev pLOW : Nat := 4
abbrev pFULLTRAIN : Nat := 5
abbrev pUP : Nat := 6
abbrev pQUAR : Nat := 7
abbrev pAUTHFAILED : Nat := 8

def State.setPortState (s : State) (j st : Nat) : State := (s.wr LRT_PORT_STATUS_state j st).updPort j (fun p => { p with since := s.dt })

/-! ### Cells (R219, R250) -/

/-- The header bytes 0 to 9 of a cell. -/
def cellHead (c : LCell) : List Byte :=
  leBytes 10 (c.typ % 16 + c.mask % 4 * 16 + c.window % 256 * 2 ^ 8 + c.seq % 2 ^ 16 * 2 ^ 16 + c.offset % 2 ^ 32 * 2 ^ 32 +
    c.aux % 2 ^ 16 * 2 ^ 64)

/-- CRC-16 of the header (R219). -/
def cellCrc (c : LCell) : Nat := crc16 (cellHead c)

/-- The 80 bytes of a cell. -/
def cellBytes (c : LCell) : List Byte :=
  cellHead c ++ leBytes 2 c.hcrc ++ leBytes 32 c.w0.toNat ++ leBytes 32 c.w1.toNat ++ leBytes 2 c.c0.toNat ++ leBytes 2 c.c1.toNat

/-- A cell with its sequence and header check set. -/
def sequenced (c : LCell) (seq : Nat) : LCell :=
  let c := { c with seq := seq }
  { c with hcrc := cellCrc c }

/-- A control cell with clean payload words. -/
def ctlCell (typ aux : Nat) (w0 w1 : Nat) : LCell :=
  let a := BitVec.ofNat 256 w0
  let b := BitVec.ofNat 256 w1
  ⟨typ, 0, 0, 0, 0, aux, 0, a, b, eccCode a false, eccCode b false⟩

/-- Word 0 of a NOTICE cell: tag, epoch, origin, sequence and the kind's fields from bit 128 (R250). -/
def noticeWord (tag epoch origin seq kindFields : Nat) : Nat :=
  tag % 2 ^ 32 + epoch % 2 ^ 16 * 2 ^ 32 + origin % 2 ^ 12 * 2 ^ 48 + seq % 2 ^ 32 * 2 ^ 64 + kindFields * 2 ^ 128

def noticeTag (c : LCell) : Nat := bits c.w0.toNat 0 32
def noticeEpoch (c : LCell) : Nat := bits c.w0.toNat 32 16
def noticeOrigin (c : LCell) : Nat := bits c.w0.toNat 48 12
def noticeSeq (c : LCell) : Nat := bits c.w0.toNat 64 32

/-- Queue a cell at a port's egress. -/
def State.egress (s : State) (j : Nat) (c : LCell) : State := s.updPort j (fun p => { p with egress := p.egress ++ [c] })

/-! ### Windows (R229, R232) -/

def winKey (die id : Nat) : Nat := die * 256 + id
def State.win (s : State) (k : Nat) : Win := s.wins.get k
def State.updWin (s : State) (k : Nat) (f : Win → Win) : State := { s with wins := s.wins.upd k f }

/-- The key of a plate window: number n of a physical quarter (R229). -/
def plateWin (q n : Nat) : Nat := winKey (q / 4) (32 * (q % 4) + n)

/-- The windows that partition p's plate has opened. -/
def State.plateWins (s : State) (p : Nat) : List Nat :=
  (s.wins.filter (fun e => e.2.plate && e.2.owner == p)).map (·.1)

/-- Ask for the close of a window at the next frame start (R232). -/
def State.closeWin (s : State) (k : Nat) : State := s.updWin k (fun w => if w.state = 1 then { w with closeReq := true } else w)

/-- A window that no plate holds any more keeps its counts only (R232). -/
def Win.bare (w : Win) : Win := { bytes := w.bytes, cells := w.cells, drops := w.drops, cmdErr := w.cmdErr }

/-! ### Groups (R248 to R258) -/

def groupKey (p g : Nat) : Nat := p * 16 + g
def State.group (s : State) (p g : Nat) : Group := s.groups.get (groupKey p g)
def State.updGroup (s : State) (p g : Nat) (f : Group → Group) : State := { s with groups := s.groups.upd (groupKey p g) f }

/-- A group's state: FORMING or OPEN. -/
def Group.live (g : Group) : Bool := g.state == 1 || g.state == 2

/-- Withdrawal causes (R257). -/
abbrev wSTOP : Nat := 1
abbrev wSHUTDOWN : Nat := 2
abbrev wFAULT : Nat := 3
abbrev wFENCE : Nat := 4
abbrev wUNLOAD : Nat := 5
abbrev wRESET : Nat := 6
abbrev wTIMEOUT : Nat := 7
abbrev wLINKLOST : Nat := 8

/-- Send a NOTICE cell on the links of a group for which `on_` holds. -/
def State.sendLinks (s : State) (p g : Nat) (on_ : GLink → Bool) (c : LCell) : State :=
  s.each ((s.group p g).links.filter on_) (fun s l => s.egress l.port c)

/-- A member originates a notice: the next sequence of its own (R250). -/
def State.originate (s : State) (p g kind kindFields w1 : Nat) (on_ : GLink → Bool) : State :=
  let gr := s.group p g
  let s := s.updGroup p g (fun x => { x with seq := x.seq + 1 })
  s.sendLinks p g on_ (ctlCell 2 kind (noticeWord gr.inTag gr.inEpoch gr.member (gr.seq + 1) kindFields) w1)

/-- The group becomes WITHDRAWN: no further WRITE cell of its sends; cause and origin are recorded (R257). -/
def State.markWithdrawn (s : State) (p g cause origin : Nat) : State :=
  let s := { s with sendings := s.sendings.map (fun (x : Sending) => if x.part = p ∧ x.group = some g then { x with cells := [], cut := true } else x) }
  s.updGroup p g (fun x => { x with state := 3, withdrawn := true, cause := cause, origin := origin, dt := s.dt, heldGrants := [] })

/-- A FORMING or OPEN group withdraws: WITHDRAW goes out on every link (R257). -/
def State.withdraw (s : State) (p g cause : Nat) : State :=
  let gr := s.group p g
  if gr.live then
    (s.markWithdrawn p g cause gr.member).originate p g 5 cause 0 (fun _ => true)
  else s

/-- Every FORMING or OPEN group of a partition withdraws (R257). -/
def State.withdrawAll (s : State) (p cause : Nat) : State :=
  s.each (upto 16) (fun s g => s.withdraw p g cause)

/-- A link of a group by which nothing more of the group arrives: a WITHDRAW came, or the port is DOWN or DISABLED, or 10 µs
have passed since the partition's own WITHDRAW left by it (R231, R258). -/
def State.linkDone (s : State) (l : GLink) : Bool :=
  l.withdrawn || decide (s.portState l.port ≤ 1) || l.left.any (fun t => decide (t + 1000 ≤ s.dt))

/-- A cell leaves by a port: a WITHDRAW is noted in the groups it is of (R231, R258). -/
def State.noteLeft (s : State) (j : Nat) (c : LCell) : State :=
  if c.typ = 2 ∧ c.aux = 5 then
    { s with groups := s.groups.foldl (fun (m : NMap Group) e =>
        if e.2.inTag = noticeTag c ∧ e.2.inEpoch = noticeEpoch c then
          NMap.set m e.1 { e.2 with links := e.2.links.map (fun l =>
            if l.port = j ∧ l.left.isNone then { l with left := some s.dt } else l) }
        else m) s.groups }
  else s

/-- Windows of withdrawn groups whose links are all done close (R231, R258). -/
def State.pollClosing (s : State) (p : Nat) : State :=
  if (s.part p).closing.isNone then s
  else s.each (s.plateWins p) (fun s k =>
    match (s.win k).group with
    | none => s
    | some g => let gr := s.group p g; if gr.state = 3 ∧ gr.links.all s.linkDone then s.closeWin k else s)

/-- Every held-open window closes (R231, R258). -/
def State.closeAll (s : State) (p : Nat) : State := s.each (s.plateWins p) State.closeWin

/-- The windows outside withdrawn groups close; the others wait for their links (R231, R258). -/
def State.beginClosing (s : State) (p : Nat) : State :=
  let s := s.updPart p (fun x => { x with closing := some s.dt })
  let s := s.each (s.plateWins p) (fun s k =>
    match (s.win k).group with
    | none => s.closeWin k
    | some g => if (s.group p g).state = 3 then s else s.closeWin k)
  s.pollClosing p

/-- All plate windows of a partition are CLOSED. -/
def State.winsClosed (s : State) (p : Nat) : Bool := (s.plateWins p).all (fun k => (s.win k).state == 0)

/-- The groups, by key, with a link on a port. -/
def State.groupsVia (s : State) (j : Nat) : List Nat :=
  (s.groups.filter (fun e => e.2.links.any (fun l => l.port == j))).map (·.1)

/-! ### A port goes DOWN (R224, R226, R235) -/

/-- The port toward remote device k (R301, R302). -/
def State.fwdPort (s : State) (k : Nat) : Nat := s.rd HIF_FWD_port (k - 1)

/-- The path to remote device k is up: forwarding is on, and the port toward it is authenticated (R301; log 63). -/
def State.fwdUp (s : State) (k : Nat) : Bool :=
  decide (1 ≤ k) && s.on HIF_FWD_enable (k - 1) && decide (4 ≤ s.portState (s.fwdPort k)) && decide (s.portState (s.fwdPort k) ≤ 6)

/-- A remote access whose path has gone down completes with cause DOWN (R301). -/
def State.pollRmt (s : State) : State :=
  match s.rmt with
  | some r => if s.fwdUp r.dev then s else s.rmtEnd 1
  | none => s

/-- A refetch ends with a cause, FETCH with its fault; the window of a peer closes (R320; log 72). -/
def State.refetchEnd (s : State) (r : Repair) (cause : Nat) : State :=
  let s := match r.peer with
    | some (_, k) => s.updWin k (fun w => { w with state := 0 })
    | none => s
  (if cause = 3 then s.logEvent 0x0D07 none false (.stack (r.arg / 16384 * 2 ^ 35 + r.arg % 16384 * 2 ^ 21)) 0 else s).repairEnd cause

/-- A refetch from a peer ends when its port goes DOWN. -/
def State.pollRefetch (s : State) (j : Nat) : State :=
  match s.repair with
  | some r => if r.op = 10 ∧ r.peer.any (fun x => x.1 == j) then s.refetchEnd r 3 else s
  | none => s

/-- A word of a refetch that lands poisoned ends it (R320). -/
def State.refetchLanded (s : State) (k : Nat) (poison : Bool) : State :=
  match s.repair with
  | some r => if poison ∧ r.op = 10 ∧ r.peer.any (fun x => x.2 == k) then s.refetchEnd r 3 else s
  | none => s

/-- The port loses its link: state, rate and encryption go, buffers and keys empty, the groups over it withdraw with
LINK_LOST; the peer's fingerprint is kept for the comparison of R227. -/
def State.portDown (s : State) (j st : Nat) : State :=
  let peer := s.reg (LRT_PORT_PEER_fingerprint.addr j)
  let was := s.portState j
  let s := s.wrs j [(LRT_PORT_STATUS_state, st), (LRT_PORT_STATUS_rate, 0), (LRT_PORT_STATUS_encrypted, 0), (LRT_PORT_LAMBDA_active, 0)]
  let s := s.updPort j (fun p =>
    { since := s.dt, prevPeer := if was ≥ 4 ∧ was ≤ 7 then some peer else p.prevPeer, authTries := p.authTries,
      heldDown := p.heldDown, dropWin := p.dropWin, drops := p.drops })
  let s := { s with sendings := s.sendings.map (fun (x : Sending) => if x.port = j then { x with cells := [], cut := true } else x) }
  let s := s.each (s.groupsVia j) (fun s k => s.withdraw (k / 16) (k % 16) wLINKLOST)
  let s := if s.on LRT_TIME_STATUS_locked 0 ∧ s.rd LRT_TIME_STATUS_masterPort 0 = j then s.wr LRT_TIME_STATUS_locked 0 0 else s
  ((s.each (upto 16) State.pollClosing).pollRmt).pollRefetch j

end Sys2Proof.Machine
end

