-- ==== Sys2Proof/Machine/Halt.lean ====
section
/-! DEFINITION. Shared operations of a partition's end: the halt of R111 and of R258, the unload, the stop taken at a
break point, and the fence that waits for it (R87, R257, R258, R267, R268, R276, R321, R324). -/

namespace Sys2Proof.Machine

open Sys2Proof

/-- State codes of PART_STATUS (R284). -/
abbrev sEMPTY : Nat := 0
abbrev sLOADING : Nat := 1
abbrev sRUNNING : Nat := 2
abbrev sSTOPPING : Nat := 3
abbrev sSAVING : Nat := 4
abbrev sSTOPPED : Nat := 5
abbrev sRESUMING : Nat := 6
abbrev sUNLOADING : Nat := 7

def State.setPState (s : State) (p st : Nat) : State := s.wr PART_STATUS_state p st

/-! ### Fences (R321, R324) -/

/-- Quarter q becomes FENCED; its buffer drains first (R154, R321), and one that is OFF powers on (R334). -/
def State.fenceNow (s : State) (q : Nat) (p : Option Nat) : State :=
  if (s.q q).svc = .none then
    ((s.wcbDrain q).setQ q (fun x =>
      { x with
        svc := .fenced
        bistRun := false
        bistPass := false
        power := if x.power = .off ∧ ¬ bit s.dieFence (q / 4) then .waking else x.power })).logEvent 0x0D01 p false .none 0
  else s

/-- Powering a die off: its ports go DISABLED and their enable bits clear (R324 steps 2 and 3). -/
def State.dieOff (s : State) (d : Nat) : State :=
  let s := { s with dieFence := s.dieFence ||| 2 ^ d }
  let s := s.each ((upto 4).map (4 * d + ·)) (fun s q => s.setQ q (fun x => { x with power := .off }))
  s.each ((upto 4).map (4 * d + ·)) (fun s j => (s.wr LRT_PORT_CTRL_enable j 0).portDown j pDISABLED)

/-- Append a completed operation to the retirement list (R318); with all 16,384 records in use it is not recorded and
list_full is set (R356). -/
def State.listAppend (s : State) (op cmd arg : Nat) : State :=
  if s.boot.list.length < 16384 then { s with boot := { s.boot with list := s.boot.list ++ [⟨op, cmd, arg, s.dt, true⟩] } }
  else s.wr BOOT_STATUS_listFull 0 1

/-- A pending fence takes effect once no partition holds its quarter (R321), a die fence once none holds a quarter of
the die (R324). -/
def State.pollRepair (s : State) : State :=
  match s.repair with
  | none => s
  | some r =>
    if r.op = 1 then
      if (s.holder r.arg).isNone then (s.fenceNow r.arg none).repairEnd 0 else s
    else if r.op = 6 then
      let qs := (upto 4).map (4 * r.arg + ·)
      if qs.all (fun q => (s.holder q).isNone) then
        let s := s.each qs (fun s q => s.fenceNow q none)
        ((((s.dieOff r.arg).logEvent 0x0D06 none false .none 0).listAppend 6 r.cmd (s.rd INT_REPAIR_ARG_arg 0)).repairEnd 0)
      else s
    else s

/-! ### Unload and halt -/

/-- Nothing of a partition's plate is in flight any more (R85, R111). -/
def State.dropWork (s : State) (p : Nat) : State := { s with work := s.work.filter (fun e => e.p != p) }

/-- The stores that the cores of a partition still buffer reach the Vat, each core's in program order (R85, R128;
log 92). -/
def State.landStores (s : State) (p : Nat) : State :=
  let cores := (s.heldQs p).flatMap (fun q => (upto 8).map (8 * q + ·))
  let s' := s.each (cores.flatMap (fun b => (s.burin.get b).stores)) (fun s e => s.vatPut e.addr e.data e.poison)
  { s' with burin := cores.foldl (fun (m : NMap Core) b => m.upd b (fun c => { c with stores := [] })) s'.burin }

/-- The partition leaves its quarters (R267): they keep their Vat and report IDLE, or STOPPED where a STOPPED
partition's mask names them. -/
def State.releaseQuarters (s : State) (p : Nat) : State :=
  let qs := s.heldQs p
  let s := s.each qs (fun s q => s.setQ q (fun x => { x with unheldSince := s.dt }))
  let s := s.dropWork p
  let s := { s with seqs := s.seqs.keep (fun h => !qs.contains h) }
  let s := { s with burin := (upto 128).foldl (fun (m : NMap Core) b =>
    if qs.contains (b / 8) then m.upd b (fun c => { c with stores := [], call := none }) else m) s.burin }
  s.wr PART_STATUS_held p 0

/-- The groups of an unloaded partition are CLOSED; the record of a withdrawal stays (R249, R261). -/
def Group.closed (g : Group) : Group :=
  { tag := g.tag, epoch := g.epoch, inTag := g.inTag, inEpoch := g.inEpoch, member := g.member, members := g.members,
    cause := g.cause, origin := g.origin, withdrawn := g.withdrawn, timeout := g.timeout, mismatch := g.mismatch,
    slowSeen := g.slowSeen, dt := g.dt, seq := g.seq, seen := g.seen }

/-- A STOP is over once its partition is STOPPED, an UNLOAD once it is EMPTY (R267, R268; log 54). -/
def State.pollStopCmd (s : State) (p : Nat) : State :=
  match s.pcmd with
  | none => s
  | some c =>
    if c.p = p ∧ ((c.op = 2 ∧ s.pstate p = sSTOPPED) ∨ (c.op = 4 ∧ s.pstate p = sEMPTY)) then s.pcmdEnd 0 else s

/-- The plate is unloaded: mapped bits clear, windows close, groups are CLOSED, sends end, the partition is EMPTY.
Notices already posted and the measurement stay. -/
def State.unloadPart (s : State) (p : Nat) : State :=
  let s := s.releaseQuarters p
  let s := { s with maps := s.maps.filter (fun m => m.1 != p), sendings := s.sendings.filter (fun x => x.part != p) }
  let s := s.each (s.plateWins p) (fun s k => s.updWin k (fun w => if w.state = 0 then w.bare else { w with closeReq := true }))
  let s := s.each (upto 16) (fun s g => s.updGroup p g (fun x => if x.state = 0 then x else x.closed))
  let s := s.updPart p (fun x => { notices := x.notices, meas := x.meas, rerun := x.rerun })
  ((s.setPState p sEMPTY).pollStopCmd p).pollRepair

/-- A command in progress that concerns a halting partition fails with STATE (R276). -/
def State.failPcmd (s : State) (p : Nat) : State :=
  match s.pcmd with
  | none => s
  | some c =>
    if c.p = p ∨ (c.op = 5 ∧ c.phase = .stops ∧ s.rd PART_STATUS_held p &&& s.rd PART_CFG_quarters c.p ≠ 0) then s.pcmdEnd causeState
    else s

/-- The first 16 bytes of the module digest of a partition's plate. -/
def State.moduleId (s : State) (p : Nat) : Nat := (((s.part p).plate.map plModule).getD 0).toNat % 2 ^ 128

/-- The firmware keeps the step that a halt breaks off, to run it again on the same module from its inputs; after a withdrawal, whose
step has done its append before it waited, with every append flag clear (R87, R259; log 97). -/
def State.keepStep (s : State) (p : Nat) (clear : Bool) : State :=
  let x := s.part p
  if x.rows.isEmpty then s
  else s.updPart p (fun y => { y with rerun := some (s.moduleId p, x.rows, x.append.map (fun e => (e.1, e.2 && !clear))) })

/-- The halt of R111: the groups withdraw, the plate is unloaded, the quarters are released at once. -/
def State.haltPart (s : State) (p cause : Nat) : State :=
  ((((s.withdrawAll p cause).failPcmd p).keepStep p false).unloadPart p).wr PART_STATUS_halted p 1

/-- The halt of R258: as R111's, but the windows of withdrawn groups stay open until their links are done, and only
then does the plate unload; until then the partition is UNLOADING (log 28). -/
def State.haltWithdrawn (s : State) (p cause : Nat) : State :=
  let s := (((s.withdrawAll p cause).failPcmd p).keepStep p true).wr PART_STATUS_halted p 1
  let s := s.updPart p (fun x => { x with wait := none, stop := none, starting := false, halting := true, heldPost := [] })
  ((s.dropWork p).setPState p sUNLOADING).beginClosing p

/-! ### Stops (R87, R267, R268, R272) -/

/-- The group of the window that a wait names (R240). -/
def State.winGroup (s : State) (p : Nat) (o : WaitOn) : Option Nat :=
  match (s.part p).plate, o with
  | some pl, .window lq num => (pl.body.windows.find? (fun w => w.lq == lq && w.num == num)).bind (·.group)
  | _, _ => none

/-- A group's sends count in the send counter that a wait names (R272). -/
def State.groupSends (s : State) (p : Nat) (o : WaitOn) : Bool :=
  match (s.part p).plate, o with
  | some pl, .sendCounter k => pl.body.sends.any (fun e => e.counter == k && e.group.isSome)
  | _, _ => false

/-- Whether a stop taken now is in mid-collective (R272). -/
def State.midCollective (s : State) (p : Nat) : Bool :=
  (match (s.part p).wait with
    | some ⟨.count o _ _ _, _, _, _⟩ => (s.winGroup p o).isSome || s.groupSends p o
    | _ => false) || s.sendings.any (fun x => x.part == p && x.group.isSome)

/-- The pending stop takes effect at break point `bp`, frame `off` of its segment (R87): SAVING, or for an unload or a
shutdown UNLOADING with nothing saved. -/
def State.takeStop (s : State) (p bp off : Nat) (k : StopKind) : State :=
  let mid := s.midCollective p
  let s := ((s.updPart p (fun x => { x with stop := none, bp := bp, bpOff := off })).dropWork p).landStores p
  match k with
  | .stop =>
    let s := (s.setPState p sSAVING).wr PART_STATUS_midCollective p (b2n mid)
    (s.withdrawAll p wSTOP).beginClosing p
  | .unload =>
    let s := (s.setPState p sUNLOADING).withdrawAll p wUNLOAD
    (s.updPart p (fun x => { x with wait := none })).beginClosing p
  | .shutdown =>
    let s := (s.setPState p sUNLOADING).withdrawAll p wSHUTDOWN
    (s.updPart p (fun x => { x with wait := none })).beginClosing p

/-- A stop of a kind becomes pending for a partition that runs, loads or resumes (R268, R276). -/
def State.askStop (s : State) (p : Nat) (k : StopKind) : State :=
  let st := if k = .unload then sUNLOADING else sSTOPPING
  (s.setPState p st).updPart p (fun x => { x with stop := some (k, s.rd PKG_GRID_FRAME_gridFrame 0) })

/-- An unload that has closed its windows and drained its queue ends (R267); a halt of R258 when its windows are
closed. -/
def State.finishUnload (s : State) (p : Nat) : State :=
  let x := s.part p
  if s.pstate p = sUNLOADING ∧ x.closing.isSome ∧ s.winsClosed p ∧ (x.halting ∨ x.notices.isEmpty) then s.unloadPart p
  else s

/-- A partition's plate has started and has not stopped, and this frame is a run frame (R24). -/
def State.started (s : State) (p : Nat) : Bool :=
  (s.pstate p == sRUNNING || s.pstate p == sSTOPPING || s.pstate p == sUNLOADING) && (s.part p).plate.isSome &&
  s.grid.cur && !(s.part p).starting && (s.part p).closing.isNone

/-- A plate acts while it is started, not waiting and not held at a post (R29; log 29). -/
def State.running (s : State) (p : Nat) : Bool := s.started p && (s.part p).wait.isNone && (s.part p).heldPost.isEmpty

end Sys2Proof.Machine
end

