-- ==== Sys2Proof/Machine/Tensor.lean ====
section
/-! DEFINITION. The plate's clock and ports, and the elements of tensors in the Vat (R3, R14, R33, R96, R97, R100, R105,
R117). -/

namespace Sys2Proof.Machine

open Sys2Proof

/-! ### Plate and bank cycles (R3, R14, R22) -/

/-- PKG_GRID_FRAME. -/
def State.gridFrame (s : State) : Nat := s.rd PKG_GRID_FRAME_gridFrame 0
/-- PKG_RUN_FRAME. -/
def State.runFrame (s : State) : Nat := s.rd PKG_RUN_FRAME_runFrame 0

/-- The plate cycle, counted from cold reset, with which plate bank cycle B of a half begins (R3, R137). -/
def pcOfBc (B : Nat) : Nat := 64 * (B / 29) + 2 * (B % 29)

/-- The plate bank cycle that spans a plate cycle, or the next one after it. -/
def bcAt (T : Nat) : Nat := 29 * (T / 64) + Nat.min 29 (T % 64 / 2)

/-- Plate cycles and plate bank cycles at which the current segment of a partition started. -/
def State.segPc (s : State) (p : Nat) : Nat := (s.part p).segStart * 64
def State.segBc (s : State) (p : Nat) : Nat := (s.part p).segStart * 29

/-- Plate bank cycles between a stack word's access and its arrival at the Press die: 6 to leave the bank (R133) and 24
on the link (R11). -/
abbrev readDelay : Nat := 30
/-- Plate bank cycles on a stack link, and plate cycles on a Press link (R11). -/
abbrev linkDelay : Nat := 24
abbrev pressDelay : Nat := 16

/-- Words that cross a half's link at plate bank cycles `bcs`, in order: at most 256 in every 5 (R157). -/
def linkRateOk (bcs : List Nat) : Bool :=
  let l := sortBy (fun (a b : Nat) => decide (a < b)) bcs
  (List.zip l (l.drop 256)).all (fun e => decide (e.1 + 5 ≤ e.2))

/-- Work is entered for a partition. -/
def State.plan (s : State) (p : Nat) (evs : List (Nat × Act)) : State :=
  { s with work := s.work ++ evs.map (fun e => ⟨e.1, p, e.2⟩) }

/-! ### The Vat slot table (R97, R117) -/

/-- The table gives a bank of a logical quarter to a port at a plate cycle of a segment, counted from its start. -/
def slotGiven (tab : List SlotSpec) (seg t lq bank port : Nat) : Bool :=
  tab.any (fun e => e.seg == seg && decide (e.frame ≤ t / 64) && decide (t / 64 < e.frame + e.frames) &&
    decide (e.pc ≤ t % 64) && decide (t % 64 < e.pc + e.pcs) && decide (t % 64 ≤ 55) && e.lq == lq &&
    decide (e.bank ≤ bank) && decide (bank < e.bank + e.banks) && e.port == port)

/-- The Vat slot table of a partition's plate. -/
def State.slotTable (s : State) (p : Nat) : List SlotSpec := ((s.part p).plate.map (fun i => i.body.slots)).getD []

/-- A port has a plate slot for the word at a physical address in a logical quarter at cycle t of the current segment. -/
def State.hasSlot (s : State) (p t lq addr port : Nat) : Bool :=
  slotGiven (s.slotTable p) (s.part p).seg t lq (vatBank addr % 256) port

/-- Words that a port moves in one plate cycle (R117). -/
def portWidth (port : Nat) : Nat :=
  if port < 8 then 16
  else if port < 0xC then 32
  else if 0x10 ≤ port ∧ port < 0x18 then 2
  else if port < 0x22 then 32
  else 8

/-- Moves of one port, as cycle and address, keep to its width. -/
def widthOk (port : Nat) (moves : List (Nat × Nat)) : Bool :=
  moves.all (fun m => decide ((moves.filter (fun x => x.1 == m.1)).length ≤ portWidth port))

/-! ### Elements of a tensor (R33, R105) -/

/-- The tensor descriptor with index `i` of a partition's plate. -/
def State.plateDesc (s : State) (p i : Nat) : TDesc :=
  match (s.part p).plate with
  | some pl => TDesc.ofWords (pl.body.descs.getD i [])
  | none => TDesc.ofWords []

/-- The physical Vat address of the word at offset `o` of a descriptor's quarter; a quarter that is not bound has none. -/
def State.tAddr (s : State) (p : Nat) (t : TDesc) (o : Nat) : Nat := vatPlace ((s.phys p t.unit).getD 16) o t.shift t.mask

/-- The newest store of a physical Vat word that a core still buffers. The egress and a proof read it in the word's place
(R88, R128, R242). -/
def State.buffered (s : State) (a : Nat) : Option Store :=
  (s.burin.flatMap (fun e => e.2.stores)).reverse.find? (fun x => x.addr == a)

/-- The word at an offset as a unit reads it. -/
def State.look (s : State) (p : Nat) (t : TDesc) (o : Nat) : W256 × Bool :=
  let r := s.vatEcc (s.tAddr p t o)
  (r.data, r.poison)

/-- The offsets of the words that hold `n` elements from `l0` on of a row. -/
def rowWordsOf (t : TDesc) (hi : List Nat) (l0 n : Nat) : List Nat :=
  if n = 0 then []
  else
    let a := 8 * t.rowByte hi + l0 * t.width
    let b := a + n * t.width - 1
    (upto (b / 256 - a / 256 + 1)).map (fun i => (a / 256 + i) * 32)

/-- The offsets of the scale words of those elements. -/
def scaleWordsOf (t : TDesc) (hi : List Nat) (l0 n : Nat) : List Nat :=
  if n = 0 ∨ ¬ t.mx then []
  else
    let a := t.scaleByte l0 hi
    let b := t.scaleByte (l0 + n - 1) hi
    (upto (b / 32 - a / 32 + 1)).map (fun i => (a / 32 + i) * 32)

/-- The code of an element and whether a word that holds it is poisoned, from what the words read as. -/
def elemAt (look : Nat → W256 × Bool) (t : TDesc) (hi : List Nat) (l0 : Nat) : Nat × Bool :=
  let b := 8 * t.rowByte hi + l0 * t.width
  let x := look (b / 256 * 32)
  if b % 256 + t.width ≤ 256 then (bits x.1.toNat (b % 256) t.width, x.2)
  else
    let y := look (b / 256 * 32 + 32)
    (bits (x.1.toNat + y.1.toNat * 2 ^ 256) (b % 256) t.width, x.2 || y.2)

/-- The scale byte of an element's block. -/
def scaleAt (look : Nat → W256 × Bool) (t : TDesc) (hi : List Nat) (l0 : Nat) : Nat × Bool :=
  let b := t.scaleByte l0 hi
  let x := look (b / 32 * 32)
  (bits x.1.toNat (8 * (b % 32)) 8, x.2)

/-- The value of a code of a format, with its block's scale (R32, R35). -/
def codeVal (f scale code : Nat) : FVal := if fmtMx f then mxVal (fmtNum f) scale code else decodeFmt (fmtNum f) code

/-- An element's exact value. -/
def elemVal (look : Nat → W256 × Bool) (t : TDesc) (hi : List Nat) (l0 : Nat) : FVal × Bool :=
  let e := elemAt look t hi l0
  if t.mx then
    let c := scaleAt look t hi l0
    (codeVal t.fmt c.1 e.1, e.2 || c.2)
  else (codeVal t.fmt 0 e.1, e.2)

/-- An element as FP32, an FP32 one with its own bits. -/
def elemF32 (look : Nat → W256 × Bool) (t : TDesc) (hi : List Nat) (l0 : Nat) : W32 × Bool :=
  if t.fmt = 0 then
    let e := elemAt look t hi l0
    (BitVec.ofNat 32 e.1, e.2)
  else
    let v := elemVal look t hi l0
    (enc32 v.1, v.2)

/-- FP32 to a code of a format that is not Microscaling (R34, R37): a NaN becomes the format's canonical one. -/
def toCode (f : Nat) (x : W32) : Nat := narrow (fmtNum f) x

/-- FP32 values to codes and scales of a format, by blocks of 32 (R37, R38): codes, scale bytes. -/
def toCodes (f : Nat) (xs : List W32) : List Nat × List Nat :=
  if fmtMx f then
    let bs := (chunk 32 (xs.length / 32 + 1) xs).map (quantizeMx (fmtNum f))
    (bs.flatMap (·.2), bs.map (·.1))
  else (xs.map (toCode f), [])

/-- Bits from `k` on of a 256-bit word made zero. -/
def clearFrom (d k : Nat) : Nat := if 256 ≤ k then d else bits d 0 k

/-- Write words of a row: codes from element `l0` on with their poison marks, none where there is no code. Bits of the
words that belong to other elements keep their values, and pad after the row's last element is zero (R100, R105;
log 34). Answers the writes as offset, data, poison. -/
def rowWrites (look : Nat → W256 × Bool) (t : TDesc) (hi : List Nat) (l0 : Nat) (codes : List (Nat × Bool)) :
    List (Nat × W256 × Bool) :=
  let offs := rowWordsOf t hi l0 codes.length
  let row := 8 * t.rowByte hi
  let padFrom := row + t.ext 0 * t.width
  let n := codes.length
  -- pad words after the last element's word
  let more := if n ≠ 0 ∧ t.ext 0 ≤ l0 + n then
      let next := offs.getLastD 0 / 32 + 1
      (upto ((row + 8 * t.rowBytes) / 256 - next)).map (fun i => (next + i) * 32)
    else []
  (offs ++ more).map (fun o =>
    let w0 := 8 * o
    let inside := (upto n).filter (fun i =>
      let b := row + (l0 + i) * t.width
      decide (b < w0 + 256) && decide (w0 < b + t.width))
    let x := look o
    -- the word stands at bit 256 while the elements are set
    let big := inside.foldl (fun (acc : Nat) i =>
      setBits acc (256 + (row + (l0 + i) * t.width) - w0) t.width (codes.getD i (0, false)).1) (x.1.toNat * 2 ^ 256)
    let d := clearFrom (bits big 256 256) (padFrom - w0)
    let covered := decide (row + l0 * t.width ≤ Nat.max w0 row) &&
      decide (Nat.min (w0 + 256) padFrom ≤ row + (l0 + n) * t.width)
    let poison := inside.any (fun i => (codes.getD i (0, false)).2) || (!covered && x.2)
    (o, BitVec.ofNat 256 d, poison))

/-- Write scale bytes from the block of element `l0` on, keeping the word's other scale bytes; pad after the row's last
scale byte is zero (R105). -/
def scaleWrites (look : Nat → W256 × Bool) (t : TDesc) (hi : List Nat) (l0 : Nat) (sc : List (Nat × Bool)) :
    List (Nat × W256 × Bool) :=
  if ¬ t.mx ∨ sc.isEmpty then []
  else
    let b0 := t.scaleByte l0 hi
    let padFrom := t.scaleByte 0 hi + ceilDiv (t.ext 0) 32
    (scaleWordsOf t hi l0 (32 * sc.length)).map (fun o =>
      let inside := (upto sc.length).filter (fun i => (b0 + i) / 32 == o / 32)
      let x := look o
      let d := inside.foldl (fun (acc : Nat) i => setBits acc (8 * ((b0 + i) % 32)) 8 (sc.getD i (0, false)).1) x.1.toNat
      let used := Nat.min 32 (padFrom - o)
      (o, BitVec.ofNat 256 (clearFrom d (8 * used)),
        inside.any (fun i => (sc.getD i (0, false)).2) || (decide (inside.length < used) && x.2)))

/-- The words that hold FP32 values from element `o0` of a row on, converted to the tensor's format: the elements that
lie in the tensor, and their scales; a Microscaling block with a poisoned value is poisoned whole (R37, R38, R124). What lies outside
is left out: DESIGN CHOICE (log 100). -/
def rowOut (look : Nat → W256 × Bool) (t : TDesc) (hi : List Nat) (o0 : Nat) (xs : List (W32 × Bool)) :
    List (Nat × W256 × Bool) :=
  let xs := xs.take (t.ext 0 - o0)
  let c := toCodes t.fmt (xs.map (·.1))
  let blockBad (b : Nat) : Bool := ((xs.drop (32 * b)).take 32).any (·.2)
  let codes := c.1.take xs.length |>.mapIdx (fun i x => (x, if t.mx then blockBad (i / 32) else (xs.getD i (0, false)).2))
  rowWrites look t hi o0 codes ++ scaleWrites look t hi o0 (c.2.mapIdx (fun i x => (x, blockBad i)))

/-- The indices of dimensions 1 and up of row number `r`. -/
def rowIdx (t : TDesc) (r : Nat) : List Nat :=
  ((t.dims.drop 1).foldl (fun (acc : List Nat × Nat) d => (acc.1 ++ [acc.2 % Nat.max 1 d.extent], acc.2 / Nat.max 1 d.extent)) ([], r)).1

end Sys2Proof.Machine
end

