-- ==== Sys2Proof/Machine/ChurnOps.lean ====
section
/-! DEFINITION. Churns: lanes, streamed rows, hazards and the arithmetic of their commands (R136 to R150, R167). -/

namespace Sys2Proof.Machine

open Sys2Proof

/-! ### Registers and lanes -/

def churnKey (half bank : Nat) : Nat := half * 512 + bank
def State.churnAt (s : State) (half bank : Nat) : Churn := s.churn.get (churnKey half bank)
def State.updChurn (s : State) (half bank : Nat) (f : Churn → Churn) : State :=
  { s with churn := s.churn.upd (churnKey half bank) f }
def State.seqAt (s : State) (half : Nat) : Seq := s.seqs.get half
def State.updSeq (s : State) (half : Nat) (f : Seq → Seq) : State := { s with seqs := s.seqs.upd half f }

/-- Element k of the registers from `reg` on: bits and poison. -/
def churnReg (c : Churn) (reg k : Nat) : W16 × Bool := mget (0, false) c.v (16 * (reg + k / 16) + k % 16)

/-- Accumulator lane n counted across accumulators. -/
def churnLane (c : Churn) (n : Nat) : W32 × Bool := mget (0, false) c.a n

def setLane (c : Churn) (n : Nat) (v : W32 × Bool) : Churn :=
  { c with a := mset (0, false) c.a n v, par := c.par.filter (· != 2 * n + 1) }

/-- The lanes that a command reads, as `Churn.par` names them (R141, R306). -/
def churnReads (c : ChurnCmd) : List Nat :=
  let regs (n : Nat) : List Nat := (upto n).map (fun k => 2 * (16 * c.reg + k))
  let acc (n : Nat) : List Nat := (upto n).map (fun i => 2 * (16 * c.acc + i) + 1)
  match c.op with
  | 2 => regs c.kLen ++ (if c.cont then (upto (4 * c.count)).map (fun i => 2 * (16 * c.acc + c.lane + i) + 1) else [])
  | 4 => acc (16 * c.count)
  | 8 => regs c.kLen
  | 9 => (acc 16).mapIdx (fun i k => (i, k)) |>.filterMap (fun e => if bit c.mask e.1 then none else some e.2)
  | 10 => acc 17
  | 11 => acc 16
  | 12 => acc 16
  | _ => []

/-- Lanes are poisoned, and their parity holds again. -/
def Churn.poisonLanes (c : Churn) (l : List Nat) : Churn :=
  l.foldl (fun (c : Churn) k =>
    if k % 2 = 0 then { c with v := mset (0, false) c.v (k / 2) ((mget (0, false) c.v (k / 2)).1, true) }
    else { c with a := mset (0, false) c.a (k / 2) ((mget (0, false) c.a (k / 2)).1, true) })
    { c with par := c.par.filter (fun k => !l.contains k) }

/-- The parity of the lanes that a command reads is checked in a churn (R306; log 98). -/
def State.churnParity (s : State) (p half : Nat) (c : ChurnCmd) (bank : Nat) : State :=
  let hit := (s.churnAt half bank).par.filter (churnReads c).contains
  if hit.isEmpty then s
  else (s.updChurn half bank (fun ch => ch.poisonLanes hit)).parityLog p (.stack (stkAddr half bank 0 0)) hit

/-- The value of a register operand of a command with bank format `fmt` (R139; log 38). -/
def regVal (fmt : Nat) (x : W16) : FVal := decodeFmt (if Config.churnFp16 fmt then .fp16 else .bf16) x.toNat

/-! ### The rows a command streams (R134, R141) -/

/-- Row k from a start: after the last whole check row of a pail comes row 0 of the next pail row. -/
def churnRow (w pail row k : Nat) : Nat × Nat :=
  let per := Nat.max 1 (512 / Nat.max 1 w)
  (pail + (row + k) / per, (row + k) % per)

/-- The words of a check row as bank reads give them: unchecked data. -/
def State.rowData (s : State) (half bank pail row w : Nat) : List W256 := (rowWords half bank pail row w).map s.stkWord

/-- The region of a pail (R134). -/
def pailRegion (bank pail : Nat) : Nat := 4 * pail + bank / 128

/-- The region of a pail is open with a check-row length (R145). -/
def State.openRow (s : State) (half bank pail w : Nat) : Bool :=
  s.kindOf half (pailRegion bank pail) == 2 && (s.region half (pailRegion bank pail)).rowLen == w &&
    (s.region half (pailRegion bank pail)).rowOk

/-- CS grows by the row sums of the words streamed, and the row is remembered (R148, R150). -/
def addRow (c : Churn) (pail row : Nat) (ws : List W256) : Churn :=
  { c with cs := (c.cs + rowSum ws) % 2 ^ 32, rows := c.rows ++ [(pail, row)] }

/-! ### Elements of a row -/

/-- Bits [lo + n - 1 : lo] of the words from `w0` on as one string. -/
def rowBits (ws : List W256) (w0 lo n : Nat) : Nat :=
  let a := (ws.getD (w0 + lo / 256) 0).toNat
  let b := (ws.getD (w0 + lo / 256 + 1) 0).toNat
  bits (a + b * 2 ^ 256) (lo % 256) n

/-- Element k of row q of a churn tile, with its scale applied exactly (R142). -/
def tileVal (fmt : Nat) (ws : List W256) (q k : Nat) : FVal :=
  let e := fmtWidth fmt
  let head := if fmtMx fmt then 1 else 0
  let code := rowBits ws (head + q * e) (k * e) e
  let scale := if fmtMx fmt then rowBits ws 0 (8 * (8 * q + k / 32)) 8 else 0
  if fmtMx fmt then mxVal (fmtNum fmt) scale code else decodeFmt (fmtNum fmt) code

/-- Channel c of token t of a key row with D channels (R167). -/
def keyVal (fmt D : Nat) (ws : List W256) (t c : Nat) : FVal :=
  if fmt = 0xE then dec32 (skimKUnpack (rowBits ws 0 (8 * c) 8) (rowBits ws (D / 32 + t * (D / 64)) (4 * c) 4))
  else decodeFmt (fmtNum fmt) (rowBits ws (t * (D / 16)) (16 * c) 16)

/-- Channel j of token t of a value row of 64 channels (R167). -/
def valueVal (fmt : Nat) (ws : List W256) (t j : Nat) : FVal :=
  if fmt = 0xE then dec32 (skimKUnpack (rowBits ws 0 (8 * j) 8) (rowBits ws (2 + t) (4 * j) 4))
  else decodeFmt (fmtNum fmt) (rowBits ws (4 * t) (16 * j) 16)

/-! ### Results -/

/-- A chain of block sums into a lane (R41, R142). -/
def laneChain (cont : Bool) (held : W32) (sums : List W32) : W32 :=
  match cont, sums with
  | true, l => l.foldl fadd held
  | false, [] => held
  | false, x :: l => l.foldl fadd x

/-- Blocks of 32 of positions below n, each summed exactly (R39, R40). -/
def blocksOf (n : Nat) (term : Nat → FVal) : List W32 :=
  (upto (ceilDiv n 32)).map (fun b => blockSum ((upto (Nat.min 32 (n - 32 * b))).map (fun i => term (32 * b + i))))

/-- DOT of one tile into its four lanes (R142, R143). -/
def dotTile (c : ChurnCmd) (x : Churn) (t : Nat) (ws : List W256) : Churn :=
  let bad := (upto c.kLen).any (fun k => (churnReg x c.reg k).2)
  (upto 4).foldl (fun (y : Churn) q =>
    let n := 16 * c.acc + c.lane + 4 * t + q
    let held := churnLane y n
    let sums := blocksOf c.kLen (fun k => mulVal (regVal c.fmt (churnReg x c.reg k).1) (tileVal c.fmt ws q k))
    setLane y n (laneChain c.cont held.1 sums, bad || (c.cont && held.2))) x

/-- SCORE of a key row into lanes 0 to 15 of acc (R141, R143). -/
def scoreRow (c : ChurnCmd) (x : Churn) (ws : List W256) : Churn :=
  let bad := (upto c.kLen).any (fun k => (churnReg x c.reg k).2)
  (upto 16).foldl (fun (y : Churn) t =>
    setLane y (16 * c.acc + t) (laneChain false 0 (blocksOf c.kLen (fun k =>
      mulVal (regVal c.fmt (churnReg x c.reg k).1) (keyVal c.fmt c.kLen ws t k))), bad)) x

/-- WACC of a value row into lanes 0 to 63; the weights are read first (R141, R143). -/
def waccRow (c : ChurnCmd) (x : Churn) (ws : List W256) : Churn :=
  let wt (t : Nat) : W32 × Bool := churnLane x (16 * c.acc + t)
  let bad := (upto 16).any (fun t => (wt t).2)
  (upto 64).foldl (fun (y : Churn) j =>
    setLane y j (blockSum ((upto 16).map (fun t => mulVal (dec32 (wt t).1) (valueVal c.fmt ws t j))), bad)) x

/-- The unmasked lanes of acc. -/
def openLanes (c : ChurnCmd) : List Nat := (upto 16).filter (fun n => !bit c.mask n)

/-- PMAX (R43, R141, R143). -/
def pmaxOf (c : ChurnCmd) (x : Churn) : Churn :=
  let ls := (openLanes c).map (fun n => churnLane x (16 * c.acc + n))
  setLane x (16 * (c.acc + 1)) (reduceMax (ls.map (·.1)), ls.any (·.2))

/-- PEXP (R51, R141, R143). -/
def pexpOf (c : ChurnCmd) (x : Churn) : Churn :=
  let m := churnLane x (16 * (c.acc + 1))
  let bad := m.2 || (openLanes c).any (fun n => (churnLane x (16 * c.acc + n)).2)
  (upto 16).foldl (fun (y : Churn) n =>
    let v := (churnLane x (16 * c.acc + n)).1
    let e := if bit c.mask n ∨ v = inf32 true then 0#32 else exp2 (fmul (fsub v m.1) c.imm)
    setLane y (16 * c.acc + n) (e, bad)) x

/-- PSUM (R40, R141, R143). -/
def psumOf (c : ChurnCmd) (x : Churn) : Churn :=
  let ls := (upto 16).map (fun n => churnLane x (16 * c.acc + n))
  setLane x (16 * (c.acc + 1) + 1) (blockSum (ls.map (fun v => dec32 v.1)), ls.any (·.2))

/-- The result lanes of a streaming command that reads nothing: +0, poisoned or not (R144). -/
def nullResult (c : ChurnCmd) (x : Churn) (bad : Bool) : Churn :=
  let lanes := match c.op with
    | 2 => (upto (4 * c.count)).map (fun i => 16 * c.acc + c.lane + i)
    | 8 => (upto 16).map (fun i => 16 * c.acc + i)
    | _ => upto 64
  lanes.foldl (fun (y : Churn) n => setLane y n (0, bad)) x

/-! ### Registers and lanes in use, with the cycle from which they are free (R141) -/

/-- Registers r as r, accumulator lane n as 256 + n; the number of banks matters to ACC_OUT. -/
def churnUses (c : ChurnCmd) (banks : Nat) : List (Nat × Nat) :=
  let w := c.rowLen
  let lanes (a n e : Nat) : List (Nat × Nat) := (upto n).map (fun i => (256 + 16 * a + i, e))
  match c.op with
  | 1 => (upto c.count).map (fun i => (c.reg + i, i + 1))
  | 2 => (upto (ceilDiv c.kLen 16)).map (fun i => (c.reg + i, c.count * w)) ++
      (upto (4 * c.count)).map (fun i => (256 + 16 * c.acc + c.lane + i, (i / 4 + 1) * w + 10))
  | 4 => lanes c.acc (16 * c.count) (5 * ceilDiv (2 * c.count * banks) 256)
  | 8 => (upto (c.kLen / 16)).map (fun i => (c.reg + i, w)) ++ lanes c.acc 16 (w + 10)
  | 9 => lanes c.acc 16 4 ++ [(256 + 16 * (c.acc + 1), 4)]
  | 10 => lanes c.acc 16 24 ++ [(256 + 16 * (c.acc + 1), 24)]
  | 11 => lanes c.acc 16 6 ++ [(256 + 16 * (c.acc + 1) + 1, 6)]
  | 12 => lanes 0 64 (w + 12)
  | _ => []

/-! ### Hazards (R136, R145) -/

/-- A hazard found in a plate bank cycle: half, cause, bank. -/
structure ChurnHaz where
  half : Nat
  cause : Nat
  bank : Nat
  deriving DecidableEq, Repr

/-- Banks of a half that are streaming in a plate bank cycle, each as often as a command streams there (R136). -/
def Seq.streams (q : Seq) (B : Nat) : List Nat :=
  (q.flight.filter (fun f => decide (f.t0 ≤ B) && decide (B < f.tRead))).flatMap (·.banks)

/-- The lowest of some banks. -/
def lowest (bs : List Nat) : Nat := bs.foldl Nat.min (bs.headD 0)

/-- The banks of a half in which accesses or streams meet (R133). -/
def bankClash (active : List Nat) : List Nat := (active.filter (fun b => decide (1 < (active.filter (· == b)).length))).dedup

/-- Conflicts and the budget of a half in a plate bank cycle, given the banks that are active, each as often as it is
(R133, R136, R145). -/
def activityHaz (half : Nat) (active : List Nat) : List ChurnHaz :=
  (bankClash active).map (fun b => ⟨half, 3, b⟩) ++
  (if 256 < active.dedup.length then [⟨half, 2, lowest active⟩] else [])

/-- A command meets registers or lanes that an earlier command still uses (R145). -/
def busyHaz (half : Nat) (q : Seq) (banks : List Nat) (uses : List (Nat × Nat)) (t0 : Nat) : List ChurnHaz :=
  (q.flight.filter (fun f => f.uses.any (fun u => decide (t0 < u.2) && uses.any (fun v => v.1 == u.1)))).flatMap
    (fun f => (banks.filter f.banks.contains).map (fun b => ⟨half, 4, b⟩))

end Sys2Proof.Machine
end

