-- ==== Sys2Proof/Machine/Frame.lean ====
section
/-! DEFINITION. The frame grid, the waits of a plate, notices posted, break points and the measurement windows
(R19 to R30, R70, R87, R135, R240, R255, R277, R278, R331, R343). -/

namespace Sys2Proof.Machine

open Sys2Proof

/-! ### Grid -/

/-- The skip level in force (R331). -/
def State.skipLevel (s : State) : Nat := s.rd PWR_STATUS_level 0

/-- Whether skip level k skips grid frame f (R330). -/
def skips (k f : Nat) : Bool :=
  match k with
  | 0 => false
  | 1 => f % 8 == 7
  | 2 => f % 4 == 3
  | 3 => f % 2 == 1
  | _ => f % 4 != 0

/-- The frame timing generator runs: the part has booted and its fast clocks run (R25, R333, R337). -/
def State.framesRun (s : State) : Bool :=
  s.boot.phase == .running && (s.rd PWR_STATUS_state 0 == 1 || s.rd PWR_STATUS_state 0 == 2 || s.rd PWR_STATUS_state 0 == 3)

/-- A half whose DRAM is refreshed by the rotation (R12, R135, R324). -/
def State.refreshed (s : State) (h : Nat) : Bool :=
  (s.q h).svc != .retired && !(s.q h).linkBad && !bit s.dieFence (h / 4)

/-! ### Measurement (R277, R278) -/

/-- In a skipped frame, whether a partition stands at a break point of its table with a stop pending (R86, R277). -/
def State.atBreak (s : State) (p : Nat) : Bool :=
  let x := s.part p
  !s.grid.cur && x.stop.any (fun k => decide (k.2 < s.gridFrame)) &&
    x.plate.any (fun pl => pl.body.breaks.any (fun b => b.seg == x.seg && x.segStart + b.frame == s.runFrame + 1))

/-- The class of the current frame for a partition: 0 segment, 1 link, 2 host, 3 notice, 4 time, 5 off. -/
def State.frameClass (s : State) (p : Nat) : Nat :=
  let x := s.part p
  let st := s.pstate p
  if st = sEMPTY ∨ st = sLOADING ∨ st = sSAVING ∨ st = sSTOPPED ∨ st = sRESUMING ∨ x.starting ∨ x.closing.isSome then 5
  else if !x.heldPost.isEmpty then 3
  else match x.wait with
    | none => if s.atBreak p then 4 else 0
    | some w => match w.kind with
      | .count _ _ _ _ => 1
      | .time _ => 4
      | .ring => 2
      | .notice => 3

/-- Add n frames of class c. -/
def Meas.add (m : Meas) (c : Nat) (run power : Bool) (n : Int) : Meas :=
  let up (x : Nat) : Nat := ((x : Int) + n).toNat
  match c with
  | 0 => if run then { m with runSeg := up m.runSeg }
         else { m with skipSeg := up m.skipSeg, skipPower := if power then up m.skipPower else m.skipPower }
  | 1 => { m with link := up m.link }
  | 2 => { m with host := up m.host }
  | 3 => { m with notice := up m.notice }
  | 4 => { m with time := up m.time }
  | _ => { m with off := up m.off }

/-- Frames are counted now (R277). -/
def State.measuring (s : State) : Bool := s.measOn && decide (s.measStart ≤ s.dt)

/-- The current frame is counted for every partition. -/
def State.countFrame (s : State) : State :=
  if s.measuring then
    s.each (upto 16) (fun s p => s.updPart p (fun x => { x with meas := x.meas.add (s.frameClass p) s.grid.cur s.grid.curPower 1 }))
  else s

/-- A release or a stop at the frame's start moves the frame to its new class. -/
def State.reclass (s : State) (p before : Nat) : State :=
  if s.measuring then
    let c := s.frameClass p
    s.updPart p (fun x => { x with meas := (x.meas.add before s.grid.cur s.grid.curPower (-1)).add c s.grid.cur s.grid.curPower 1 })
  else s

/-- floor(256 (run_seg + skip_seg) / run_seg), saturated (R278). -/
def stretchOf (m : Meas) : Nat :=
  if m.runSeg = 0 then 0xFFFF else Nat.min 0xFFFE (256 * (m.runSeg + m.skipSeg) / m.runSeg)

/-- The reports of the window are written, and the next window opens (R277, R278). -/
def State.measEndNow (s : State) : State :=
  let s := s.each (upto 16) (fun s p =>
    let m := (s.part p).meas
    let w := [s.measStart, m.runSeg, m.skipSeg, m.link, m.host, m.notice, m.time % 2 ^ 32 + m.off % 2 ^ 32 * 2 ^ 32,
      stretchOf m + m.skipPower % 2 ^ 32 * 2 ^ 16]
    ((upto 8).foldl (fun s i => s.wr PART_MEAS_word (p * 8 + i) (w.getD i 0)) s).updPart p (fun x => { x with meas := {} }))
  let W := s.measNext.getD (s.rd PART_MEAS_CFG_window 0)
  if W = 0 then { s with measOn := false, measNext := none }
  else { s with measStart := s.measEnd, measEnd := (s.measEnd / W + 1) * W, measNext := none }

/-- The window ends when dt has reached its end. -/
def State.measDue (s : State) : State := if s.measOn ∧ s.measEnd ≤ s.dt then s.measEndNow else s

/-! ### Notices and waits -/

/-- A notice is posted, or held while the queue is full or another post is held (R19). -/
def State.postNotice (s : State) (p : Nat) (n : Notice) : State :=
  s.updPart p (fun x =>
    if x.notices.length < 256 ∧ x.heldPost.isEmpty then { x with notices := x.notices ++ [{ n with frame := s.gridFrame }] }
    else { x with heldPost := x.heldPost ++ [(n, s.runFrame)] })

/-- The plate reaches an external wait. -/
def State.reachWait (s : State) (p : Nat) (k : WaitKind) : State :=
  if s.running p then s.updPart p (fun x => { x with wait := some ⟨k, s.runFrame, s.dt, 0⟩ }) else s

/-- The segment after the current one; a plate that repeats goes on with its first (log 80). -/
def Part.nextSeg (x : Part) : Nat :=
  let n := (x.plate.map (fun i => i.body.commitFrames.length)).getD 0
  if n = 0 then x.seg + 1 else (x.seg + 1) % n

/-- The wait ends: the next segment starts at pc 0 of the current frame (R28, R29). -/
def State.resumePlate (s : State) (p : Nat) : State :=
  s.updPart p (fun x => { x with wait := none, segStart := s.runFrame, seg := x.nextSeg })

/-- The effective factor of a group: the largest in force, never below 16 (R256). -/
def State.slowF (s : State) (g : Group) : Nat :=
  g.slow.foldl (fun m e => if s.dt < e.2.2 then Nat.max m e.2.1 else m) 16

/-- The count that a wait observes, now (R240). -/
def State.waitCount (s : State) (p : Nat) (o : WaitOn) (cells : Bool) : Nat :=
  match o with
  | .window lq num =>
    match s.phys p lq with
    | none => 0
    | some q => let w := s.win (plateWin q num); if cells then w.cells else w.bytes
  | .sendCounter k => (s.part p).sends.get k

/-- A function of the partition waits for completion-ring space (R295). -/
def State.partStalled (s : State) (p : Nat) : Bool :=
  (upto 64).any (fun f => s.bound.get f == p && s.on HIF_FN_STATUS_stalled f)

/-- The condition of a wait, with the count as it stood at the frame's pc 0 (R27, R70, R240, R295, R343). -/
def State.waitTrue (s : State) (p : Nat) (w : Wait) : Bool :=
  match w.kind with
  | .count o _ target _ =>
    (match s.winGroup p o with
      | some g => (s.group p g).state == 2
      | none => true) && decide (target ≤ w.count)
  | .time t => decide (t ≤ s.dt)
  | .ring => s.rd PWR_STATUS_state 0 != 3 && !s.partStalled p && (decide (0 < (s.part p).releases) || decide (0 < (s.part p).hostData))
  | .notice => decide ((s.part p).notices.length < 256)

/-- What the release of a wait_ring uses up: a release of the firmware, else one host-data count (log 30). -/
def State.useRing (s : State) (p : Nat) (k : WaitKind) : State :=
  match k with
  | .ring => s.updPart p (fun x => if 0 < x.releases then { x with releases := x.releases - 1 } else { x with hostData := x.hostData - 1 })
  | _ => s

/-- The window of R255 has run out: its limit, stretched by the factor of the window's group. -/
def State.waitExpired (s : State) (p : Nat) (w : Wait) : Bool :=
  match w.kind with
  | .count o _ _ limit =>
    limit != 0 &&
    (let F := match s.winGroup p o with
      | some g => s.slowF (s.group p g)
      | none => 16
     decide (limit * F ≤ 16 * (s.dt - w.t0)))
  | _ => false

/-- Whether a shutdown lets the plate run on from a point of a segment: its next step_commit comes before any external
wait and ends before the grace does (R343). -/
def State.runsToCommit (s : State) (p seg off : Nat) : Bool :=
  match (s.part p).plate, s.pwr.shutAt with
  | some pl, some t =>
    match (pl.body.commitFrames.getD seg none) with
    | some n =>
      let (num, den) := match s.skipLevel with
        | 0 => (1, 1)
        | 1 => (8, 7)
        | 2 => (4, 3)
        | 3 => (2, 1)
        | _ => (4, 1)
      decide (off ≤ n) && decide (s.dt * 100 * den + (n - off) * 256 * num < (t + 200000) * 100 * den)
    | none => false
  | _, _ => false

/-- The pending stop that a wait, or a post that is held, takes: one requested in an earlier frame (R87, R240). -/
def State.stopDue (s : State) (p : Nat) : Option StopKind :=
  (s.part p).stop.bind (fun e => if e.2 < s.gridFrame then some e.1 else none)

/-- The pending stop that takes effect at a place of the table reached now; a shutdown may run past it (R87, R343). -/
def State.stopHere (s : State) (p seg off : Nat) : Option StopKind :=
  (s.stopDue p).bind (fun k => if k = .shutdown ∧ s.runsToCommit p seg off then none else some k)

/-- The number of the break point at a place of the plate. DESIGN CHOICE (log 91), as R86 gives no numbers to the break
points that the table does not name: a place that it does not name has number 0, as the plate's first frame has, and a
wait is the place of frame 0 of the segment after it. -/
def bpNumber (pl : Option PlateImage) (seg off : Nat) : Nat :=
  match pl with
  | none => 0
  | some pl => ((pl.body.breaks.find? (fun b => b.seg == seg && b.frame == off)).map (·.num)).getD 0

/-- The test of a wait at a run frame's start, in the order of R240. -/
def State.waitTest (s : State) (p : Nat) (w : Wait) : State :=
  let x := s.part p
  let g := match w.kind with
    | .count o _ _ _ => s.winGroup p o
    | _ => none
  if g.any (fun g => (s.group p g).state == 3) then (s.logEvent 0x0902 (some p) false .none 0).haltWithdrawn p wFAULT
  else match s.stopDue p with
    | some k => s.takeStop p (bpNumber x.plate x.nextSeg 0) 0 k
    | none =>
      if s.waitTrue p w then (s.useRing p w.kind).resumePlate p
      else if s.waitExpired p w then
        let s := s.logEvent 0x0903 (some p) false .none 0
        let s := match g with
          | some g => s.updGroup p g (fun y => { y with timeout := true })
          | none => s
        s.haltWithdrawn p wTIMEOUT
      else s

/-- The frame of its segment at which a plate that was held at a post in a run frame goes on: the one after it
(log 80). -/
def Part.heldFrame (x : Part) (f : Nat) : Nat := f + 1 - x.segStart

/-- The test of a plate that is held at a post, at the start of a later run frame: a pending stop takes effect; with an entry
free the post is made and the plate goes on at pc 0 of this frame, to the posts that follow (R19, R27, R28, R86, R87). -/
def State.postTest (s : State) (p : Nat) (n : Notice) (f : Nat) (rest : List (Notice × Nat)) : State :=
  let x := s.part p
  let off := x.heldFrame f
  match s.stopDue p with
  | some k => s.takeStop p (bpNumber x.plate x.seg off) off k
  | none =>
    if x.notices.length < 256 then
      (s.updPart p (fun x => { x with heldPost := [], segStart := s.runFrame - off })).each (n :: rest.map (·.1)) (fun s n => s.postNotice p n)
    else s

/-- The test at a run frame's start of a plate that waits or is held at a post. -/
def State.frameTest (s : State) (p : Nat) : State :=
  let x := s.part p
  if s.started p then
    match x.wait, x.heldPost with
    | some w, _ => if w.frame < s.runFrame then (s.waitTest p w).reclass p (s.frameClass p) else s
    | none, (n, f) :: rest => if f < s.runFrame then (s.postTest p n f rest).reclass p (s.frameClass p) else s
    | none, [] => s
  else s

/-- The counts that waits test are those of the frame's pc 0 (R240). -/
def State.sampleWait (s : State) (p : Nat) : State :=
  match (s.part p).wait with
  | some ⟨.count o cells target limit, f, t0, _⟩ =>
    s.updPart p (fun x => { x with wait := some ⟨.count o cells target limit, f, t0, s.waitCount p o cells⟩ })
  | _ => s

/-! ### The start of a frame -/

/-- The counters and the choice of the next frame (R23, R25, R331). -/
def State.gridAdvance (s : State) : State :=
  let f := s.gridFrame + 1
  let g : Grid := ⟨s.grid.next, !skips s.skipLevel (f + 1), s.grid.nextPower, !skips (s.rd PWR_STATUS_levelT 0) (f + 1),
    s.grid.refresh⟩
  let s := { s with grid := g }.wr PKG_GRID_FRAME_gridFrame 0 f
  if g.cur then s.inc PKG_RUN_FRAME_runFrame 0 1
  else if g.curPower then s.inc PWR_SKIP_POWER_count 0 1 else s.inc PWR_SKIP_THERMAL_count 0 1

/-- One refresh operation in every bank of the frame's class (R135). -/
def State.refreshFrame (s : State) : State :=
  let b := s.gridFrame % 8
  { s with grid := { s.grid with refresh := (upto 16).foldl (fun m h =>
      if s.refreshed h then m.upd (8 * h + b) (fun n => (n + 1) % 16384) else m) s.grid.refresh } }

/-! ### Meanings -/

/-- WAIT_RELEASE (R28, R240). -/
def execWaitRelease (p : Fin 16) (s : State) : Result := .next (s.frameTest p)

/-- PEER_TIMEOUT (R240, R255): the same frame-start test, in the same order. -/
def execPeerTimeout (p : Fin 16) (s : State) : Result := .next (s.frameTest p)

/-- WAIT_COUNT (R240). -/
def execWaitCount (p : Fin 16) (on : WaitOn) (cells : Bool) (target limit : Nat) (s : State) : Result :=
  .next (s.reachWait p (.count on cells target limit))

/-- WAIT_TIME (R70). -/
def execWaitTime (p : Fin 16) (t : Nat) (s : State) : Result := .next (s.reachWait p (.time t))

/-- WAIT_RING (R70). -/
def execWaitRing (p : Fin 16) (s : State) : Result := .next (s.reachWait p .ring)

/-- NOTICE_POST_RESUME (R19, R28): the same frame-start test. -/
def execNoticePostResume (p : Fin 16) (s : State) : Result := .next (s.frameTest p)

/-- STEP_COMMIT (R193): the commit count grows and is posted. -/
def State.stepCommit (s : State) (p : Nat) : State :=
  let n := (s.part p).commits + 1
  (s.updPart p (fun x => { x with commits := n, indexLogged := false })).postNotice p ⟨0x20, n % 2 ^ 32, 0⟩

def execStepCommit (p : Fin 16) (s : State) : Result := .next (if s.running p then s.stepCommit p else s)

/-- BREAK_POINT (R86, R87): a place of the table that the plate has reached; with no stop pending it costs nothing. -/
def State.breakPoint (s : State) (p num : Nat) : State :=
  let x := s.part p
  match x.plate with
  | none => s
  | some pl =>
    match pl.body.breaks.find? (fun b => b.num == num) with
    | none => s
    | some b =>
      if b.seg ≠ x.seg ∨ s.runFrame ≠ x.segStart + b.frame then s
      else match s.stopHere p b.seg b.frame with
        | none => s
        | some k => (s.takeStop p num b.frame k).reclass p (s.frameClass p)

def execBreakPoint (p : Fin 16) (num : Nat) (s : State) : Result := .next (if s.running p then s.breakPoint p num else s)

/-- MEAS_CFG_WRITE (R277). -/
def State.measCfg (s : State) (v : Nat) : State :=
  let W := v % 2 ^ 32
  let s := s.wr PART_MEAS_CFG_window 0 W
  if s.measOn then { s with measNext := some W }
  else if W = 0 then s
  else
    let k := (s.dt + (W - 1)) / W
    (s.each (upto 16) (fun s p => s.updPart p (fun x => { x with meas := {} }))) |> fun s =>
      { s with measOn := true, measStart := k * W, measEnd := (k + 1) * W, measNext := none }

/-- MEAS_WINDOW_END (R278): in effect once dt has reached the end of the window. -/
def execMeasWindowEnd (s : State) : Result := .next s.measDue

end Sys2Proof.Machine
end

