-- ==== Sys2Proof/Machine/BurinOps.lean ====
section
/-! DEFINITION. A Burin core: scalar and vector operations with their timing, local memory, and its ordered Vat port (R75,
R76, R125 to R130). The operations are the model's own spelling of the kernel IR (log 36). -/

namespace Sys2Proof.Machine

open Sys2Proof

/-! ### Operations on values (R44, R51 to R54, R71, R75) -/

def fbinOf : FBin → W32 → W32 → W32
  | .add => fadd | .sub => fsub | .mul => fmul | .div => fdiv | .min => fmin | .max => fmax

def funOf : FUn → W32 → W32
  | .sqrt => fsqrt | .abs => fabs | .neg => fneg | .relu => frelu | .exp2 => exp2 | .log2 => log2 | .recip => recip
  | .rsqrt => rsqrt | .exp => fexp | .log => flog | .sigmoid => fsigmoid | .silu => fsilu | .gelu => fgelu

/-- Integer operations of a width (R75). -/
def ibinOf (op : IBin) (w a b : Nat) : Nat :=
  let m := 2 ^ w
  let a := a % m
  let b := b % m
  let sa := signedOf w a
  let sb := signedOf w b
  match op with
  | .add => (a + b) % m
  | .sub => (a + (m - b)) % m
  | .mul => a * b % m
  | .divu => if b = 0 then 0 else a / b
  | .divs => if b = 0 then 0 else (Int.tdiv sa sb % (m : Int)).toNat
  | .remu => if b = 0 then a else a % b
  | .rems => if b = 0 then a else (Int.tmod sa sb % (m : Int)).toNat
  | .and => a &&& b
  | .or => a ||| b
  | .xor => a ^^^ b
  | .shl => if w ≤ b then 0 else a * 2 ^ b % m
  | .shr => if w ≤ b then 0 else a / 2 ^ b
  | .sar => if w ≤ b then (if sa < 0 then m - 1 else 0) else (sa / (2 ^ b : Int) % (m : Int)).toNat

/-- Comparisons: with NaN every one but "not equal" is false (R75). -/
def relOf (r : Rel) (a b : W32) : Bool :=
  match r with
  | .feq => feq a b
  | .fne => !feq a b
  | .flt => flt a b
  | .fle => flt a b || feq a b
  | .ieq => a == b
  | .ltu => decide (a.toNat < b.toNat)
  | .lts => decide (a.toInt < b.toInt)

/-- Comparisons of 64-bit integers; a relation of floating-point values is false (log 36). -/
def rel64 (r : Rel) (a b : Nat) : Bool :=
  match r with
  | .ieq => a == b
  | .ltu => decide (a < b)
  | .lts => decide (signedOf 64 a < signedOf 64 b)
  | _ => false

/-- The format that a conversion or a narrow operation names: a code of R102, or 16 for E8M0, which is the model's own
(log 36). -/
def kopFmt (f : Nat) : NumFmt := if f = 16 then .e8m0 else fmtNum f

/-- Bits of a lane that hold a value of that format. -/
def kopWidth (f : Nat) : Nat := if f = 16 then 8 else fmtWidth f

/-- FP32 of a code of a narrower format, exact (R37, R54). -/
def laneUp (f : Nat) (x : W32) : W32 := widen (kopFmt f) (bits x.toNat 0 (kopWidth f))
/-- The code of an FP32 value (R34, R37). -/
def laneDown (f : Nat) (x : W32) : W32 := BitVec.ofNat 32 (narrow (kopFmt f) x)

/-! ### Timing (R126) -/

/-- Half plate cycles until the next operation may issue (R126; log 35). -/
def kopCost : KOp → Nat
  | .fbin op _ _ _ => match op with | .div => 16 | _ => 2
  | .nbin op _ _ _ _ => match op with | .div => 16 | _ => 2
  | .pair op _ _ => match op with | .div => 16 | _ => 2
  | .fun1 op _ _ =>
    (match op with
      | .sqrt => 16
      | .abs => 2 | .neg => 2 | .relu => 2
      | .exp2 => 8 | .log2 => 8 | .recip => 8 | .rsqrt => 8
      | .exp => 10 | .log => 10 | .sigmoid => 22 | .silu => 24 | .gelu => 26)
  | .loadLocal _ _ => 1
  | _ => 2

/-- Plate cycles after which a result is usable (R126; log 35): an operation of several steps takes those of its steps. -/
def kopLatency : KOp → Nat
  | .fbin op _ _ _ => match op with | .div => 28 | _ => 4
  | .nbin op _ _ _ _ => match op with | .div => 28 | _ => 4
  | .fma _ _ _ _ => 4
  | .nfma _ _ _ _ _ => 4
  | .fun1 op _ _ =>
    (match op with
      | .sqrt => 28
      | .abs => 4 | .neg => 4 | .relu => 4
      | .exp2 => 24 | .log2 => 24 | .recip => 24 | .rsqrt => 24
      | .exp => 28 | .log => 28 | .sigmoid => 60 | .silu => 64 | .gelu => 68)
  | .cvt _ _ _ => 4
  | .uncvt _ _ _ => 4
  | .cmp _ _ _ _ => 4
  | .perm _ _ _ => 3
  | .lane _ _ _ => 3
  | .splat _ _ => 3
  | .pair _ _ _ => 3
  | .loadLocal _ _ => 5
  | _ => 2

/-- Registers by number: vector 0 to 31, scalar from 32 on, predicate from 64 on. -/
def rV (r : Nat) : Nat := r % 32
def rS (r : Nat) : Nat := 32 + r % 32
def rP (r : Nat) : Nat := 64 + r % 8

/-- The registers that an operation reads or writes, the one it writes first where it writes one. -/
def kopUses : KOp → List Nat
  | .fbin _ d a b => [rV d, rV a, rV b]
  | .nbin _ _ d a b => [rV d, rV a, rV b]
  | .fma d a b c => [rV d, rV a, rV b, rV c]
  | .nfma _ d a b c => [rV d, rV a, rV b, rV c]
  | .fun1 _ d a => [rV d, rV a]
  | .cvt _ d a => [rV d, rV a]
  | .uncvt _ d a => [rV d, rV a]
  | .ibin _ _ d a b => [rV d, rV a, rV b]
  | .sbin _ _ d a b => [rS d, rS a, rS b]
  | .sconst d _ => [rS d]
  | .splat d x => [rV d, rS x]
  | .lane d a _ => [rS d, rV a]
  | .perm d a _ => [rV d, rV a]
  | .pair _ d a => [rV d, rV a]
  | .cmp _ p a b => [rP p, rV a, rV b]
  | .cmp64 _ p a b => [rP p, rV a, rV b]
  | .pbin _ d a b => [rP d, rP a, rP b]
  | .pnot d a => [rP d, rP a]
  | .pget d p => [rS d, rP p]
  | .pset p x => [rP p, rS x]
  | .select d p a b => [rV d, rP p, rV a, rV b]
  | .loadLocal d x => [rV d, rS x]
  | .storeLocal x a => [rS x, rV a]
  | .loadVat _ d col row => [rV d, rS col, rS row]
  | .storeVat _ a col row => [rV a, rS col, rS row]
  | .jump _ => []
  | .jumpIf p _ => [rP p]
  | .jumpNz x _ => [rS x]
  | .halt => []

/-- Whether an operation writes the first of its registers. -/
def kopWrites : KOp → Bool
  | .storeLocal _ _ => false
  | .storeVat _ _ _ _ => false
  | .jump _ => false
  | .jumpIf _ _ => false
  | .jumpNz _ _ => false
  | .halt => false
  | _ => true

/-! ### The core -/

/-- Unit code of a core (R131). -/
def coreUnit (b : Nat) : Nat := 0x80 + b

/-- Registers cleared and written marks cleared at a call's first pc (R127). -/
def callStart (c : Core) : Core := { c with v := [], sreg := [], preg := [], lines := [], call := none, taint := false, par := [] }

/-- The 32-bit lanes of the registers, numbered for parity: of a vector, a scalar, a predicate register. -/
def laneV (r i : Nat) : Nat := 32 * (r % 32) + i
def laneS (r h : Nat) : Nat := 1024 + 2 * (r % 32) + h
def laneP (r : Nat) : Nat := 1088 + r % 8

/-- The lanes of a register by the number `kopUses` gives it. -/
def regLanes (r : Nat) : List Nat :=
  if r < 32 then (upto 32).map (laneV r) else if r < 64 then (upto 2).map (laneS r) else [laneP r]

/-- The parity of lanes that are written holds. -/
def Core.parityOk (c : Core) (l : List Nat) : Core := { c with par := c.par.filter (fun k => !l.contains k) }

/-- A core at work at a plate cycle: the part, the core, its partition. -/
structure KState where
  s : State
  b : Nat
  p : Nat
  T : Nat

def KState.core (k : KState) : Core := k.s.burin.get k.b
def KState.upd (k : KState) (f : Core → Core) : KState := { k with s := { k.s with burin := k.s.burin.upd k.b f } }
def KState.call (k : KState) : Option Call := k.core.call
def KState.updCall (k : KState) (f : Call → Call) : KState := k.upd (fun c => { c with call := c.call.map f })
def KState.plan (k : KState) (t : Nat) (a : Act) : KState := { k with s := k.s.plan k.p [(t, a)] }
/-- Tensor t of the call. -/
def KState.desc (k : KState) (t : Nat) : TDesc := TDesc.ofWords ((k.call.map (fun c => c.descs.getD t [])).getD [])

/-- The call becomes tainted (R130). -/
def KState.taintIf (k : KState) (x : Bool) : KState := if x then k.upd (fun c => { c with taint := true }) else k

/-- Lane i of vector register r. -/
def vLane (c : Core) (r i : Nat) : W32 × Bool := mget (0, false) c.v (32 * (r % 32) + i)
def setVec (c : Core) (r : Nat) (f : Nat → W32 × Bool) : Core :=
  { c.parityOk (regLanes (rV r)) with v := (upto 32).foldl (fun (m : NMap (W32 × Bool)) i => mset (0, false) m (32 * (r % 32) + i) (f i)) c.v }
def sVal (c : Core) (r : Nat) : W64 × Bool := mget (0, false) c.sreg (r % 32)
def setS (c : Core) (r : Nat) (v : W64 × Bool) : Core := { c.parityOk (regLanes (rS r)) with sreg := mset (0, false) c.sreg (r % 32) v }
def pVal (c : Core) (r : Nat) : Nat := (mget (0, false) c.preg (r % 8)).1.toNat
def setP (c : Core) (r v : Nat) : Core := { c.parityOk (regLanes (rP r)) with preg := mset (0, false) c.preg (r % 8) (BitVec.ofNat 32 v, false) }

/-- A lane whose parity does not hold is poisoned; a predicate register taints the call (R130, R306). -/
def Core.poisonLane (c : Core) (k : Nat) : Core :=
  if k < 1024 then { c with v := mset (0, false) c.v k ((mget (0, false) c.v k).1, true) }
  else if k < 1088 then { c with sreg := mset (0, false) c.sreg ((k - 1024) / 2) ((mget (0, false) c.sreg ((k - 1024) / 2)).1, true) }
  else { c with taint := true }

/-- The registers that an operation reads. -/
def kopReads (op : KOp) : List Nat := if kopWrites op then (kopUses op).tail else kopUses op

/-- The parity of the lanes that an operation reads is checked (R306; log 98). -/
def KState.parity (k : KState) (op : KOp) : KState :=
  let ls := (kopReads op).flatMap regLanes
  let hit := k.core.par.filter ls.contains
  if hit.isEmpty then k
  else
    let k := k.upd (fun c => hit.foldl Core.poisonLane (c.parityOk hit))
    { k with s := k.s.parityLog k.p (.unit (coreUnit k.b)) hit }

/-- A range error of a kernel (R76). -/
def KState.rangeFault (k : KState) : KState := { k with s := k.s.logEvent 0x0503 (some k.p) false (.unit (coreUnit k.b)) 0 }

/-! ### Local memory (R76, R127, R130, R306) -/

/-- Words of the data area. -/
abbrev localWords : Nat := 114688

/-- A word of the data area as delivered: zero without poison from an unmarked line. -/
def localAt (c : Core) (w : Nat) : W32 × Bool × EccResult :=
  if c.lines.get (w / 8) then
    let x := mget (0, false, 0) c.mem w
    localRead x.1 x.2.1 x.2.2
  else (0, false, .clean)

/-- What a local access logs. -/
def State.localLog (s : State) (p b : Nat) (r : EccResult) : State :=
  match r with
  | .clean => s
  | .corrected => s.logEvent 0x0105 (some p) false (.unit (coreUnit b)) 0
  | .uncorrectable => s.logEvent 0x0106 (some p) false (.unit (coreUnit b)) 0

/-- A word of the data area is written; the other words of a line that was unmarked are scratch that nothing has written
and read as zero (R76, R127). -/
def setLocal (c : Core) (w : Nat) (v : W32 × Bool) : Core :=
  let m := if c.lines.get (w / 8) then c.mem else c.mem.keep (fun x => x / 8 != w / 8)
  { c with mem := mset (0, false, 0) m w (v.1, v.2, localCode v.1 v.2), lines := c.lines.set (w / 8) true }

/-! ### The Vat port (R128, R130) -/

/-- What a core sees at a Vat word: its newest buffered store, else the Vat. -/
def State.coreSees (s : State) (b a : Nat) : W256 × Bool :=
  match (s.burin.get b).stores.reverse.find? (fun e => e.addr == a) with
  | some e => (e.data, e.poison)
  | none => let r := s.vatEcc a; (r.data, r.poison)

/-- The words of a tensor as a core sees them. -/
def State.coreLook (s : State) (b p : Nat) (t : TDesc) (o : Nat) : W256 × Bool := s.coreSees b (s.tAddr p t o)

/-- Stores a core buffers (R125). -/
abbrev storeRoom : Nat := 16

/-- Words stored by a call enter the buffer: poisoned when the call is tainted (R130). -/
def KState.store (k : KState) (t : TDesc) (ws : List (Nat × W256 × Bool)) : KState :=
  ws.foldl (fun (k : KState) w =>
    let a := k.s.tAddr k.p t w.1
    (k.upd (fun c => { c with stores := c.stores ++ [⟨a, w.2.1, w.2.2 || c.taint⟩] })).updCall
      (fun x => { x with stored := a :: x.stored })) k

/-- The logical quarter of a core's partition in which the core lies. -/
def State.lqOf (s : State) (p b : Nat) : Nat := ((s.part p).bind.findIdx? (· == b / 8)).getD 0

/-- The slot table gives the core's port the bank of a word at a plate cycle. -/
def State.coreSlot (s : State) (p b T a : Nat) : Bool := s.hasSlot p (T - s.segPc p) (s.lqOf p b) a (0x10 + b % 8)

/-- Groups of words that one slot each takes: two, where they lie in two banks. -/
def slotGroups : Nat → List Nat → List (List Nat)
  | 0, _ => []
  | _ + 1, [] => []
  | _ + 1, [a] => [[a]]
  | n + 1, a :: b :: l => if vatBank a = vatBank b then [a] :: slotGroups n (b :: l) else [a, b] :: slotGroups n l

/-- The slots that take groups of words, in order: each takes the first one left whose banks the table gives; and the slots
that are left. -/
def assignSlots (ok : Nat → Nat → Bool) : List Nat → List (List Nat) → Option (List (Nat × List Nat) × List Nat)
  | slots, [] => some ([], slots)
  | [], _ :: _ => none
  | t :: slots, g :: gs =>
    if g.all (ok t) then (assignSlots ok slots gs).map (fun r => ((t, g) :: r.1, r.2)) else assignSlots ok slots (g :: gs)

/-- A buffered store of a core touches one of some words (R128). -/
def KState.overlaps (k : KState) (as : List Nat) : Bool := k.core.stores.any (fun e => as.contains e.addr)

/-- Words that loads in flight on a core have still to take. -/
def State.loading (s : State) (b : Nat) : List Nat :=
  s.work.flatMap (fun e => match e.act with
    | .coreLoad b' _ _ _ _ now rest _ => if b' = b then now ++ rest.flatMap (·.2) else []
    | _ => [])

/-- Loads in flight on a core. -/
def State.loadsOf (s : State) (b : Nat) : Nat :=
  (s.work.filter (fun e => match e.act with
    | .coreLoad b' _ _ _ _ _ _ _ => b' == b
    | _ => false)).length

/-- Lanes of one element, and elements of one vector. -/
def elemLanes (t : TDesc) : Nat := Nat.max 1 (t.width / 32)
def vecElems (t : TDesc) : Nat := 32 / elemLanes t

/-- What a vector load delivers to a lane: codes of a plain format, FP32 values of a Microscaling one; lanes past the row's
end are zero (log 36). -/
def loadLane (look : Nat → W256 × Bool) (t : TDesc) (hi : List Nat) (l0 n i : Nat) : W32 × Bool :=
  let e := i / elemLanes t
  if e < n then
    if t.mx then elemF32 look t hi (l0 + e)
    else
      let v := elemAt look t hi (l0 + e)
      (BitVec.ofNat 32 (bits v.1 (32 * (i % elemLanes t)) 32), v.2)
  else (0, false)

/-- The words of a vector load, from element l0 of a row. -/
def loadOffs (t : TDesc) (hi : List Nat) (l0 : Nat) : List Nat :=
  let n := Nat.min (vecElems t) (t.ext 0 - l0)
  rowWordsOf t hi l0 n ++ scaleWordsOf t hi l0 n

/-- The core goes on at a plate cycle; it is entered once. -/
def KState.goAt (k : KState) (t : Nat) : KState :=
  if k.s.work.any (fun e => e.act == .coreGo k.b) then k else k.plan t (.coreGo k.b)

/-- Register r is usable at a time in half plate cycles. -/
def KState.readyAt (k : KState) (r t : Nat) : KState := k.updCall (fun c => { c with ready := c.ready.set r t })

/-- The next operation is at a place of the code. -/
def KState.goto (k : KState) (n : Nat) : KState := k.updCall (fun c => { c with pc := n })
def KState.next (k : KState) : KState := k.updCall (fun c => { c with pc := c.pc + 1 })

/-- A load at a bad index delivers zero bits with poison (R76, R130). -/
def KState.badLoad (k : KState) (d : Nat) : KState := k.upd (fun x => setVec x d (fun _ => (0, true)))

/-- A vector load from element `col` of row number `row` issues: its words are taken in the next slots of the core, two in
each where they lie in two banks, and are usable 12 pc after the last. None where it must wait: for a buffered store of one
of its words to reach the Vat, for one of 16 loads in flight to end, or for slots that do not come. -/
def KState.loadVat (k : KState) (t d col row : Nat) : Option KState :=
  let ds := k.desc t
  let c := sVal k.core col
  let r := sVal k.core row
  if c.2 || r.2 then some ((k.taintIf true).badLoad d).next
  else
    let l0 := c.1.toNat
    if l0 < ds.ext 0 ∧ r.1.toNat < ds.nRows then
      let as := (loadOffs ds (rowIdx ds r.1.toNat) l0).map (k.s.tAddr k.p ds)
      let slots := ((k.call.map (·.slots)).getD []).filter (fun x => decide (k.T < x))
      if k.overlaps as ∨ 16 ≤ k.s.loadsOf k.b then none
      else
        match assignSlots (k.s.coreSlot k.p k.b) slots (slotGroups as.length as) with
        | some (g :: rest, left) =>
          let last := ((g :: rest).getLastD g).1
          some (((k.plan g.1 (.coreLoad k.b d t l0 r.1.toNat g.2 rest [])).updCall
            (fun x => { x with slots := left })).readyAt (rV d) (2 * (last + 12))).next
        | _ => none
    else some (k.badLoad d).rangeFault.next

/-- What a vector store writes, from element l0 of a row: whole Microscaling blocks, or lanes as they stand. -/
def KState.storeWords (k : KState) (ds : TDesc) (a l0 row : Nat) : List (Nat × W256 × Bool) :=
  let hi := rowIdx ds row
  let n := Nat.min (vecElems ds) (ds.ext 0 - l0)
  let look := k.s.coreLook k.b k.p ds
  let L := elemLanes ds
  if ds.mx then rowOut look ds hi l0 ((upto n).map (vLane k.core a))
  else rowWrites look ds hi l0 ((upto n).map (fun e =>
    ((upto L).foldl (fun (acc : Nat) j => acc + (vLane k.core a (L * e + j)).1.toNat * 2 ^ (32 * j)) 0 % 2 ^ ds.width,
      (upto L).any (fun j => (vLane k.core a (L * e + j)).2))))

/-- A vector store to element `col` of row number `row` (R76, R130); none where the buffer has no room for its words. -/
def KState.storeVat (k : KState) (t a col row : Nat) : Option KState :=
  let ds := k.desc t
  let c := sVal k.core col
  let r := sVal k.core row
  if c.2 || r.2 then some (k.taintIf true).next
  else
    let l0 := c.1.toNat
    if l0 < ds.ext 0 ∧ r.1.toNat < ds.nRows ∧ ¬ ds.ro ∧ (ds.mx → l0 % 32 = 0) then
      let ws := k.storeWords ds a l0 r.1.toNat
      if storeRoom < k.core.stores.length + ws.length then none else some (k.store ds ws).next
    else some (((k.taintIf true).rangeFault.updCall (fun x => { x with bad := true })).next)

/-- A lane operation on vector registers. -/
def KState.lanes (k : KState) (d : Nat) (f : Core → Nat → W32 × Bool) : KState := (k.upd (fun c => setVec c d (f c))).next

/-- A lane operation of two registers. -/
def KState.lanes2 (k : KState) (d a b : Nat) (f : W32 → W32 → W32) : KState :=
  k.lanes d (fun c i => (f (vLane c a i).1 (vLane c b i).1, (vLane c a i).2 || (vLane c b i).2))

/-- A lane operation of three registers. -/
def KState.lanes3 (k : KState) (d a b x : Nat) (f : W32 → W32 → W32 → W32) : KState :=
  k.lanes d (fun c i => (f (vLane c a i).1 (vLane c b i).1 (vLane c x i).1, (vLane c a i).2 || (vLane c b i).2 || (vLane c x i).2))

/-- A 64-bit lane pair. -/
def vPair (c : Core) (r i : Nat) : Nat × Bool :=
  let lo := vLane c r (2 * i)
  let hi := vLane c r (2 * i + 1)
  (lo.1.toNat + hi.1.toNat * 2 ^ 32, lo.2 || hi.2)

/-- A predicate register from a test of each of n lanes; one taken from a poisoned lane taints the call (R130). -/
def KState.test (k : KState) (p n : Nat) (f : Core → Nat → Bool × Bool) : KState :=
  let c := k.core
  ((k.taintIf ((upto n).any (fun i => (f c i).2))).upd (fun c =>
    setP c p ((upto n).foldl (fun (acc : Nat) i => acc + b2n (f c i).1 * 2 ^ i) 0))).next

/-- Loads and stores of local memory: 32 words from a byte address (R76, R127, R130). -/
def KState.loadLocal (k : KState) (d x : Nat) : KState :=
  let c := k.core
  let a := sVal c x
  let w := a.1.toNat / 4
  if a.2 then ((k.taintIf true).badLoad d).next
  else if w + 32 ≤ localWords then
    let k' := k.lanes d (fun c i => ((localAt c (w + i)).1, (localAt c (w + i)).2.1))
    { k' with s := k'.s.each (upto 32) (fun s i => s.localLog k.p k.b (localAt c (w + i)).2.2) }
  else (k.badLoad d).rangeFault.next

def KState.storeLocal (k : KState) (x a : Nat) : KState :=
  let ad := sVal k.core x
  let w := ad.1.toNat / 4
  if ad.2 then (k.taintIf true).next
  else if w + 32 ≤ localWords then
    (k.upd (fun c => (upto 32).foldl (fun (c : Core) i => setLocal c (w + i) (vLane c a i)) c)).next
  else ((k.taintIf true).rangeFault.updCall (fun c => { c with bad := true })).next

/-- A store outside its tensor poisons the kernel's results: every word the call has stored (R76). -/
def KState.poisonStored (k : KState) : KState :=
  match k.call with
  | none => k
  | some x =>
    if x.bad then
      let k := k.upd (fun c => { c with stores := c.stores.map (fun (e : Store) =>
        if x.stored.contains e.addr then { e with poison := true } else e) })
      { k with s := k.s.each x.stored (fun s a =>
          if (s.burin.get k.b).stores.any (fun e => e.addr == a) then s else let r := s.vatEcc a; s.vatPut a r.data true) }
    else k

/-- The kernel ends. -/
def KState.finish (k : KState) : KState := k.poisonStored.upd (fun c => { c with call := none })

/-- One operation; none where it must wait. -/
def KState.exec1 (k : KState) (op : KOp) : Option KState :=
  let c := k.core
  match op with
  | .fbin op d a b => some (k.lanes2 d a b (fbinOf op))
  | .nbin op f d a b => some (k.lanes2 d a b (fun x y => laneDown f (fbinOf op (laneUp f x) (laneUp f y))))
  | .fma d a b x => some (k.lanes3 d a b x ffma)
  | .nfma f d a b x => some (k.lanes3 d a b x (fun u v w => laneDown f (ffma (laneUp f u) (laneUp f v) (laneUp f w))))
  | .fun1 op d a => some (k.lanes d (fun c i => (funOf op (vLane c a i).1, (vLane c a i).2)))
  | .cvt f d a => some (k.lanes d (fun c i => (laneDown f (vLane c a i).1, (vLane c a i).2)))
  | .uncvt f d a => some (k.lanes d (fun c i => (laneUp f (vLane c a i).1, (vLane c a i).2)))
  | .ibin op w d a b =>
    if w = 64 then
      some (k.lanes d (fun c i =>
        let x := vPair c a (i / 2)
        let y := vPair c b (i / 2)
        (BitVec.ofNat 32 (bits (ibinOf op 64 x.1 y.1) (32 * (i % 2)) 32), x.2 || y.2)))
    else some (k.lanes2 d a b (fun x y => BitVec.ofNat 32 (ibinOf op w x.toNat y.toNat)))
  | .sbin op w d a b => some (k.upd (fun c => setS c d (BitVec.ofNat 64 (ibinOf op w (sVal c a).1.toNat (sVal c b).1.toNat),
      (sVal c a).2 || (sVal c b).2))).next
  | .sconst d v => some (k.upd (fun c => setS c d (v, false))).next
  | .splat d x => some (k.lanes d (fun c _ => (BitVec.ofNat 32 (sVal c x).1.toNat, (sVal c x).2)))
  | .lane d a i => some (k.upd (fun c => setS c d (BitVec.ofNat 64 (vLane c a (i % 32)).1.toNat, (vLane c a (i % 32)).2))).next
  | .perm d a idx => some (k.lanes d (fun c i => vLane c a (idx.getD i 0 % 32)))
  | .pair op d a => some (k.lanes d (fun c i =>
      if i < 16 then (fbinOf op (vLane c a (2 * i)).1 (vLane c a (2 * i + 1)).1, (vLane c a (2 * i)).2 || (vLane c a (2 * i + 1)).2)
      else (0, false)))
  | .cmp r p a b => some (k.test p 32 (fun c i => (relOf r (vLane c a i).1 (vLane c b i).1, (vLane c a i).2 || (vLane c b i).2)))
  | .cmp64 r p a b => some (k.test p 16 (fun c i => (rel64 r (vPair c a i).1 (vPair c b i).1, (vPair c a i).2 || (vPair c b i).2)))
  | .pbin op d a b => some (k.upd (fun c => setP c d (ibinOf op 32 (pVal c a) (pVal c b)))).next
  | .pnot d a => some (k.upd (fun c => setP c d (2 ^ 32 - 1 - pVal c a))).next
  | .pget d p => some (k.upd (fun c => setS c d (BitVec.ofNat 64 (pVal c p), false))).next
  | .pset p x => some ((k.taintIf (sVal c x).2).upd (fun c => setP c p (sVal c x).1.toNat)).next
  | .select d p a b => some (k.lanes d (fun c i =>
      ((if bit (pVal c p) i then vLane c a i else vLane c b i).1, (vLane c a i).2 || (vLane c b i).2)))
  | .loadLocal d x => some (k.loadLocal d x)
  | .storeLocal x a => some (k.storeLocal x a)
  | .loadVat t d col row => k.loadVat t d col row
  | .storeVat t a col row => k.storeVat t a col row
  | .jump target => some (k.goto target)
  | .jumpIf p target => some (if pVal c p ≠ 0 then k.goto target else k.next)
  | .jumpNz x target => some (let k := k.taintIf (sVal c x).2; if (sVal c x).1 ≠ 0 then k.goto target else k.next)
  | .halt => some k.finish

/-- When the next operation may issue, in half plate cycles: after the one before it, with every register it names usable,
and on a whole plate cycle unless it loads from local memory. -/
def Call.issue (c : Call) (op : KOp) : Nat :=
  let t := (kopUses op).foldl (fun m r => Nat.max m (c.ready.get r)) c.now
  match op with
  | .loadLocal _ _ => t
  | _ => (t + 1) / 2 * 2

/-- The operations of native code that issue in plate cycle T, n at most; then the core goes on in a later cycle. A core
whose operation waits goes on when a store of its buffer has left (R126 to R128). -/
def KState.run (ops : List KOp) : Nat → KState → KState
  | 0, k => k.goAt (k.T + 1)
  | n + 1, k =>
    match k.call with
    | none => k
    | some c =>
      match ops[c.pc]? with
      | none => k.finish
      | some op =>
        let t := c.issue op
        if 2 * (k.T + 1) ≤ t then (k.updCall (fun x => { x with now := t })).goAt (t / 2)
        else match (k.parity op).exec1 op with
          | none => if k.s.loadsOf k.b = 0 then k else k.goAt (k.T + 1)
          | some k' =>
            let k' := k'.updCall (fun x => { x with now := t + kopCost op })
            let k' := match op with
              | .loadVat _ _ _ _ => k'
              | _ => if kopWrites op then k'.readyAt ((kopUses op).headD 0) (t + 2 * kopLatency op) else k'
            KState.run ops n k'

/-- A slot takes words of a load; with the last the register holds its lanes (R126, R130). -/
def KState.loadSlot (k : KState) (d t l0 row : Nat) (now : List Nat) (rest : List (Nat × List Nat)) (got : Words)
    (blocked : List Nat) : KState :=
  let take := now.filter (fun a => !blocked.contains (vatBank a))
  let got := take.foldl (fun (m : Words) a => m.put a (let r := k.s.vatEcc a; (r.data, r.poison))) got
  let k := { k with s := k.s.each take (fun s a => s.vatLog a false) }
  match rest with
  | g :: rest => k.plan g.1 (.coreLoad k.b d t l0 row g.2 rest got)
  | [] =>
    let ds := k.desc t
    let look (o : Nat) : W256 × Bool := got.word (0, true) (k.s.tAddr k.p ds o)
    if k.call.isSome then
      k.upd (fun c => setVec c d (loadLane look ds (rowIdx ds row) l0 (Nat.min (vecElems ds) (ds.ext 0 - l0))))
    else k

end Sys2Proof.Machine
end

