-- ==== Sys2Proof/Machine/Kv.lean ====
section
/-! DEFINITION. The KV page cache in stack memory: pools and page places (R167 to R170), tail slots (R174), page images
(R61, R161, R167). -/

namespace Sys2Proof.Machine

open Sys2Proof

/-! ### Pools (R168, R169) -/

/-- Key rows of a pail, n of R168. -/
def poolKeys (fmt D : Nat) : Nat := if fmt = 0xE then 1792 / Nat.max 1 D else 512 / Nat.max 1 D

/-- Check-row length of the key and value regions. -/
def keyLen (fmt D : Nat) : Nat := if fmt = 0xE then D / 32 + D / 4 else D
def valueLen (fmt : Nat) : Nat := if fmt = 0xE then 18 else 64

/-- Pages of a pool set. -/
def poolPages (v : ServingSpec) : Nat := 128 * poolKeys v.poolFmt v.headDim * v.pairs

/-- Place of page number pg in a pool: bank, key pail row, key check row, value pail row, first value check row. -/
def pagePlace (v : ServingSpec) (o : PoolSpec) (pg : Nat) : Nat × Nat × Nat × Nat × Nat :=
  let n := poolKeys v.poolFmt v.headDim
  let i := pg / (128 * n)
  let q := pg % (128 * n)
  let k := q / 128
  (128 * ((o.kr0 + i) % 4) + q % 128, (o.kr0 + i) / 4, k, (o.vr0 + i) / 4, v.headDim / 64 * k)

/-- The class of a page, the same in every pool of a set. -/
def pageClass (v : ServingSpec) (pg : Nat) : Nat :=
  match v.pools.head? with
  | some o => (pagePlace v o pg).1 % 256
  | none => 0

/-- A region of a half belongs to a pool of the partition. -/
def State.poolRegion (s : State) (p half r : Nat) : Bool :=
  match s.serving p with
  | none => false
  | some v => v.pools.any (fun o => (s.phys p o.lq) == some half &&
      ((decide (o.kr0 ≤ r) && decide (r < o.kr0 + v.pairs)) || (decide (o.vr0 ≤ r) && decide (r < o.vr0 + v.pairs))))

/-! ### Tail slots (R174) -/

/-- Stack byte address of token record t of a slot's tail in a pool. -/
def State.tailAddr (s : State) (p : Nat) (v : ServingSpec) (o : PoolSpec) (slot t : Nat) : Nat :=
  (s.phys p o.lq).getD 16 * 2 ^ 35 + o.tails + (slot * 16 + t) * tokenBytes v.headDim

/-- 16-bit elements as words. -/
def packWords (w : Nat) (xs : List Nat) : List W256 :=
  (chunk (256 / Nat.max 1 w) (xs.length + 1) xs).map (fun g =>
    BitVec.ofNat 256 (g.reverse.foldl (fun acc x => acc * 2 ^ w + x % 2 ^ w) 0))

/-- Read a token record: key codes, value codes, and whether a word is poisoned. -/
def State.getToken (s : State) (p : Nat) (v : ServingSpec) (o : PoolSpec) (slot t : Nat) : List Nat × List Nat × Bool :=
  let a := s.tailAddr p v o slot t
  let n := tokenBytes v.headDim / 32
  let ws := (upto n).map (fun i => s.stkRead (a + 32 * i))
  let el (k : Nat) : Nat := bits (ws.getD (k / 16) (0, false)).1.toNat (16 * (k % 16)) 16
  ((upto v.headDim).map el, (upto v.headDim).map (fun c => el (v.headDim + c)), ws.any (·.2))

/-! ### Page images (R61, R161, R167) -/

/-- The FP32 value of a tail code. -/
def tailVal (fmt x : Nat) : W32 := widen (fmtNum fmt) x

/-- A tail code in a plain pool format (R161). -/
def tailTo (tail pool x : Nat) : Nat := if tail = pool then x else narrow (fmtNum pool) (tailVal tail x)

/-- The words of a skim-K page image from the groups of its key and its value channels (R61, R167). -/
def skimKWords (D : Nat) (ks vs : List (Nat × List Nat)) : List W256 :=
  packWords 8 (ks.map (·.1)) ++ (upto 16).flatMap (fun t => packWords 4 (ks.map (fun g => g.2.getD t 0))) ++
  (upto (D / 64)).flatMap (fun h =>
    let g := (vs.drop (64 * h)).take 64
    packWords 8 (g.map (·.1)) ++ (upto 16).flatMap (fun t => packWords 4 (g.map (fun x => x.2.getD t 0))))

/-- Rows of a page from its 16 tokens: key row, value rows. -/
def pageRows (v : ServingSpec) (toks : List (List Nat × List Nat)) : List W256 × List (List W256) :=
  let D := v.headDim
  if v.poolFmt = 0xE then
    let group (f : List Nat × List Nat → Nat) : Nat × List Nat := skimKPack (toks.map (fun t => tailVal v.tailFmt (f t)))
    let ks := (upto D).map (fun c => group (fun t => t.1.getD c 0))
    let vs := (upto D).map (fun c => group (fun t => t.2.getD c 0))
    let ws := skimKWords D ks vs
    let key := D / 32 + D / 4
    (ws.take key, (upto (D / 64)).map (fun h => (ws.drop (key + 18 * h)).take 18))
  else
    let cv (x : Nat) : Nat := tailTo v.tailFmt v.poolFmt x
    (toks.flatMap (fun t => packWords 16 (t.1.map cv)),
     (upto (D / 64)).map (fun h => toks.flatMap (fun t => packWords 16 (((t.2.drop (64 * h)).take 64).map cv))))

/-- Write whole check rows of a page with their sums, where its regions are open with the pool's lengths (R149, R175). -/
def State.putPage (s : State) (p : Nat) (v : ServingSpec) (o : PoolSpec) (pg : Nat)
    (key : List (W256 × Bool)) (vals : List (List (W256 × Bool))) : State :=
  let half := (s.phys p o.lq).getD 16
  let pl := pagePlace v o pg
  let row (s : State) (pail r len : Nat) (ws : List (W256 × Bool)) : State :=
    if s.openRow half pl.1 pail len then s.putRow half pl.1 pail r (s.region half (pailRegion pl.1 pail)) ws else s
  let s := row s pl.2.1 pl.2.2.1 (keyLen v.poolFmt v.headDim) key
  s.each (vals.mapIdx (fun h ws => (h, ws))) (fun s e => row s pl.2.2.2.1 (pl.2.2.2.2 + e.1) (valueLen v.poolFmt) e.2)

/-- A page's image as stored: key row then value rows (R167). -/
def State.pageImage (s : State) (p : Nat) (v : ServingSpec) (o : PoolSpec) (pg : Nat) : List W256 :=
  let half := (s.phys p o.lq).getD 16
  let pl := pagePlace v o pg
  s.rowData half pl.1 pl.2.1 pl.2.2.1 (keyLen v.poolFmt v.headDim) ++
    (upto (v.headDim / 64)).flatMap (fun h => s.rowData half pl.1 pl.2.2.2.1 (pl.2.2.2.2 + h) (valueLen v.poolFmt))

/-- The rows of a page as places: pail row, check row, length. -/
def pageRowPlaces (v : ServingSpec) (o : PoolSpec) (pg : Nat) : List (Nat × Nat × Nat) :=
  let pl := pagePlace v o pg
  (pl.2.1, pl.2.2.1, keyLen v.poolFmt v.headDim) ::
    (upto (v.headDim / 64)).map (fun h => (pl.2.2.2.1, pl.2.2.2.2 + h, valueLen v.poolFmt))

/-- Every row of a page agrees with its recorded sum in a pool (R150, R186). -/
def State.pageSumsOk (s : State) (p : Nat) (v : ServingSpec) (o : PoolSpec) (pg : Nat) : Bool :=
  let half := (s.phys p o.lq).getD 16
  let bank := (pagePlace v o pg).1
  (pageRowPlaces v o pg).all (fun r =>
    let g := s.region half (pailRegion bank r.1)
    let e := s.sumEntry half g bank r.2.1
    !e.2 && e.1 == rowSum (s.rowData half bank r.1 r.2.1 r.2.2))

end Sys2Proof.Machine
end

