-- ==== Sys2Proof/Machine/Library.lean ====
section
/-! DEFINITION. The kernels of Ompor's library by what they compute: row-wise primitives and moves (R67, R71 to R74), gather
and scatter (R109), attention on a core (R160 to R164, R173), the candidate of a sampling row (R205 to R210), and the step's
work list (R171); and how a core runs one (R127; log 35). -/

namespace Sys2Proof.Machine

open Sys2Proof

/-! ### Areas of a serving plate in the Vat (R170, R190, R193, R196, R208) -/

/-- The physical address of an area of a partition, which begins at a word (log 89); one that no word has where its quarter is
not bound. -/
def State.areaAt (s : State) (p a : Nat) : Nat :=
  match s.phys p (a / 2 ^ 26) with
  | some q => q * 2 ^ 26 + a % 2 ^ 26 / 32 * 32
  | none => 2 ^ 30 + a % 2 ^ 26 / 32 * 32

/-- A 32-bit value at a physical byte address. -/
def i32At (look : Nat → W256 × Bool) (a : Nat) : Int × Bool :=
  let x := look (a / 32 * 32)
  (signedOf 32 (bits x.1.toNat (8 * (a % 32)) 32), x.2)

def u32At (look : Nat → W256 × Bool) (a : Nat) : Nat × Bool :=
  let x := look (a / 32 * 32)
  (bits x.1.toNat (8 * (a % 32)) 32, x.2)

/-- What the checker delivers of a Vat word. -/
def State.vatSees (s : State) (a : Nat) : W256 × Bool := let r := s.vatEcc a; (r.data, r.poison)

/-- A row of the step table: slot, position, first page and kind, and its poison (R190). -/
structure StepQ where
  slot : Int
  pos : Int
  first : Int
  kind : Int
  bad : Bool
  deriving Repr

/-- The row at a physical address. -/
def stepAt (look : Nat → W256 × Bool) (a : Nat) : StepQ :=
  let e (i : Nat) : Int × Bool := i32At look (a + 4 * i)
  ⟨(e 0).1, (e 1).1, (e 2).1, (e 3).1, (e 0).2⟩

/-- The words of an area of n bytes from a physical address. -/
def areaWords (a n : Nat) : List Nat := (upto (ceilDiv (a % 32 + n) 32)).map (fun i => a / 32 * 32 + 32 * i)

/-- The service firmware writes 32-bit parts from a word's address on: whole words as they stand, a last one merged with what it
holds (R22, R100). -/
def State.putInts (s : State) (a : Nat) (xs : List Nat) : State :=
  s.each ((areaWords a (4 * xs.length)).filter vatPopulated) (fun s w =>
    let old := s.vatEcc w
    let l := (xs.drop ((w - a) / 4)).take 8
    let d := (l.mapIdx (fun k x => (k, x))).foldl (fun n e => setBits n (32 * e.1) 32 e.2) old.data.toNat
    s.vatPut w (BitVec.ofNat 256 d) (decide (l.length < 8) && (old.poison || old.res == .uncorrectable)))

/-- Bytes of a slot's count table with its overflow word (R208), and of a candidate (log 89). -/
abbrev countBytes : Nat := 16416
abbrev candBytes : Nat := 96

/-- The count table at a physical address. -/
def countsAt (look : Nat → W256 × Bool) (a : Nat) : CountTab := fun b =>
  (upto 16).map (fun e => ((u32At look (a + 128 * b + 8 * e)).1, (u32At look (a + 128 * b + 8 * e + 4)).1))

/-! ### A library kernel at work -/

def KState.lookGot (k : KState) (a : Nat) : W256 × Bool := Words.word (0, false) ((k.call.map (·.got)).getD []) a
/-- A tensor's words as loaded, and as they stand for bits that a result leaves alone. -/
def KState.lookT (k : KState) (t : TDesc) (o : Nat) : W256 × Bool := k.lookGot (k.s.tAddr k.p t o)
def KState.oldT (k : KState) (t : TDesc) (o : Nat) : W256 × Bool := k.s.coreLook k.b k.p t o

/-- The physical words of row r of a tensor. -/
def KState.rowAddrs (k : KState) (t : TDesc) (r : Nat) : List Nat :=
  (rowWordsOf t (rowIdx t r) 0 (t.ext 0) ++ scaleWordsOf t (rowIdx t r) 0 (t.ext 0)).map (k.s.tAddr k.p t)

/-- FP32 values of row number r of an operand; a one-row operand serves every row. -/
def KState.rowVals (k : KState) (t r : Nat) : List (W32 × Bool) :=
  let ds := k.desc t
  (upto (ds.ext 0)).map (elemF32 (k.lookT ds) ds (rowIdx ds (r % Nat.max 1 ds.nRows)))

/-- A result row enters the store buffer; nothing is stored through a read-only descriptor (R101). -/
def KState.put (k : KState) (t : TDesc) (ws : List (Nat × W256 × Bool)) : KState := if t.ro then k else k.store t ws

/-- FP32 values become row r of a result. -/
def KState.putRow (k : KState) (t r : Nat) (xs : List (W32 × Bool)) : KState :=
  let ds := k.desc t
  if r < ds.nRows then k.put ds (rowOut (k.oldT ds) ds (rowIdx ds r) 0 xs) else k

/-- Elements and scales as bits become a row of a result. -/
def KState.putRaw (k : KState) (t : TDesc) (hi : List Nat) (f : Nat → (Nat × Bool) × (Nat × Bool)) : KState :=
  let n := t.ext 0
  k.put t (rowWrites (k.oldT t) t hi 0 ((upto n).map (fun l => (f l).1)) ++
    scaleWrites (k.oldT t) t hi 0 (if t.mx then (upto (ceilDiv n 32)).map (fun b => (f (32 * b)).2) else []))

/-- Words of an area become stores. -/
def KState.putArea (k : KState) (a : Nat) (ws : List (W256 × Bool)) : KState :=
  (ws.mapIdx (fun i w => (a + 32 * i, w))).foldl (fun (k : KState) w =>
    if vatPopulated w.1 then
      k.upd (fun c => { c with stores := c.stores ++ [⟨w.1, w.2.1, w.2.2 || c.taint⟩] })
    else k) k

/-- The sharding that three numbers name. -/
def shardingOf (x : Nat × Nat × Nat) : Sharding := ⟨x.1, x.2.1, x.2.2⟩

/-! ### Row-wise primitives (R67, R71 to R74, R130) -/

/-- A sum over a row by its sharding (R39 to R42, R46). -/
def rowSumOf (sh : Sharding) (init : Option W32) (ts : List FVal) : W32 := reduceSum init (sh.split (ts.map some))

/-- A row-wise primitive over the rows of its operands, with the poison of each result. -/
def rowOpOf (op : RowOp) (sh : Sharding) (xs : List (List (W32 × Bool))) : List (W32 × Bool) :=
  let x := xs.getD 0 []
  let y := xs.getD 1 []
  let z := xs.getD 2 []
  let any := x.any (·.2)
  match op with
  | .unary f => x.map (fun (e : W32 × Bool) => (funOf f e.1, e.2))
  | .binary f => List.zipWith (fun (a b : W32 × Bool) => (fbinOf f a.1 b.1, a.2 || b.2)) x y
  | .fma => List.zipWith (fun (ab : (W32 × Bool) × (W32 × Bool)) (c : W32 × Bool) => (ffma ab.1.1 ab.2.1 c.1, ab.1.2 || ab.2.2 || c.2)) (List.zip x y) z
  | .softmax =>
    let masked (i : Nat) : Bool := (y.getD i (0, false)).1 != 0
    let bad := (x.mapIdx (fun i (e : W32 × Bool) => e.2 && !masked i)).any id || y.any (·.2)
    (softmax sh (x.mapIdx (fun i (e : W32 × Bool) => if masked i then none else some e.1))).map (fun v => (v, bad))
  | .rmsnorm eps => List.zipWith (fun v (g : W32 × Bool) => (v, any || g.2)) (rmsnorm sh (x.map (·.1)) (y.map (·.1)) eps) y
  | .layernorm eps bias =>
    (layernorm sh (x.map (·.1)) (y.map (·.1)) (if bias then some (z.map (·.1)) else none) eps).mapIdx (fun i v =>
      (v, any || (y.getD i (0, false)).2 || (bias && (z.getD i (0, false)).2)))
  | .rotate =>
    (rotatePairs (x.map (·.1)) (y.map (·.1)) (z.map (·.1))).mapIdx (fun i v =>
      (v, (x.getD (i / 2 * 2) (0, false)).2 || (x.getD (i / 2 * 2 + 1) (0, false)).2 || (y.getD (i / 2) (0, false)).2 || (z.getD (i / 2) (0, false)).2))
  | .convert => x
  | .reduceSum => [(rowSumOf sh none (x.map (fun (e : W32 × Bool) => dec32 e.1)), any)]
  | .reduceMax => [(reduceMax (x.map (·.1)), any)]
  | .reduceMin => [(reduceMin (x.map (·.1)), any)]
  | .contract init =>
    let i := z.getD 0 (0, false)
    [(rowSumOf sh (if init then some i.1 else none) (List.zipWith (fun (a b : W32 × Bool) => mulVal (dec32 a.1) (dec32 b.1)) x y),
      any || y.any (·.2) || (init && i.2))]
  | .integer _ _ => []
  | .random _ _ _ => []

/-- An integer operation on elements as they stand (R67, R75). -/
def KState.intRow (k : KState) (op : IBin) (w a b : TDesc) (width r l : Nat) : (Nat × Bool) × (Nat × Bool) :=
  let x := elemAt (k.lookT a) a (rowIdx a (r % Nat.max 1 a.nRows)) l
  let y := elemAt (k.lookT b) b (rowIdx b (r % Nat.max 1 b.nRows)) l
  ((ibinOf op width x.1 y.1 % 2 ^ w.width, x.2 || y.2), (0, false))

/-- The step number of a request's next token (R192). -/
def stepNumber (r : Req) : Nat := (rqStepBase r.rec_ + r.gen.length - r.genBase) % 2 ^ 32

/-- A uniform draw of a request (R57, R58). -/
def uniformOf (r : Req) (stream d : Nat) (u1 : Bool) : W32 :=
  let w := philoxDraw (rqSeed r.rec_) (stepNumber r) (rqId r.rec_) stream d
  if u1 then uniform1 w else roundFp32 (w / 2 ^ 8 : Nat) (-24)

/-- Row r of a row-wise primitive. -/
def KState.rowOpAt (k : KState) (op : RowOp) (args : List Nat) (out r : Nat) (sh : Sharding) : KState :=
  let o := k.desc out
  match op with
  | .integer f w => k.putRaw o (rowIdx o r) (k.intRow f o (k.desc (args.getD 0 0)) (k.desc (args.getD 1 0)) w r)
  | .random stream first u1 =>
    let t := k.desc (args.getD 0 0)
    let e := elemAt (k.lookT t) t [] (4 * r)
    k.putRow out r ((upto (o.ext 0)).map (fun l => (uniformOf (k.s.reqs.get e.1) stream (first + l) u1, e.2)))
  | _ => k.putRow out r (rowOpOf op sh (args.map (fun a => k.rowVals a r)))

/-! ### Moves (R67) -/

/-- The coordinate along dimension d, and the place with another one. -/
def coordOf (d l0 : Nat) (hi : List Nat) : Nat := if d = 0 then l0 else hi.getD (d - 1) 0
def moveTo (d v l0 : Nat) (hi : List Nat) : Nat × List Nat := if d = 0 then (v, hi) else (l0, hi.set (d - 1) v)

/-- An element's bits and its block's scale, with their poison. -/
def rawAt (look : Nat → W256 × Bool) (t : TDesc) (l0 : Nat) (hi : List Nat) : (Nat × Bool) × (Nat × Bool) :=
  (elemAt look t hi l0, if t.mx then scaleAt look t hi l0 else (0, false))

/-- The row-major number of a place, and the place of a number. -/
def placeNo (t : TDesc) (l0 : Nat) (hi : List Nat) : Nat := (List.zip t.dims (l0 :: hi)).reverse.foldl (fun n e => n * e.1.extent + e.2) 0
def placeOf (t : TDesc) (n : Nat) : Nat × List Nat := (n % Nat.max 1 (t.ext 0), rowIdx t (n / Nat.max 1 (t.ext 0)))

/-- The operand and place from which a place of the result is moved. -/
def moveSrc (op : MoveOp) (args : List TDesc) (o : TDesc) (l0 : Nat) (hi : List Nat) : Nat × Nat × List Nat :=
  let at_ (d : Nat) : Nat := coordOf d l0 hi
  let place (l : List Nat) : Nat × List Nat := (l.headD 0, l.tail)
  match op with
  | .reshape => (0, placeOf (args.getD 0 o) (placeNo o l0 hi))
  | .transpose perm => (0, place ((upto o.rank).map (fun d => at_ ((perm.findIdx? (· == d)).getD d))))
  | .slice starts => (0, place ((upto o.rank).map (fun d => at_ d + starts.getD d 0)))
  | .concat d =>
    let r := args.foldl (fun (acc : Nat × Nat × Bool) t =>
      if acc.2.2 then acc else if acc.2.1 < t.ext d then (acc.1, acc.2.1, true) else (acc.1 + 1, acc.2.1 - t.ext d, false)) (0, at_ d, false)
    (r.1, moveTo d r.2.1 l0 hi)

/-! ### Gather and scatter (R109) -/

/-- An index: the slice it names, or none and whether it is out of range; a poisoned index counts as that. -/
def idxOf (look : Nat → W256 × Bool) (t : TDesc) (ext j : Nat) : Option Nat × Bool :=
  let e := elemAt look t [] j
  let v := signedOf 32 e.1
  if e.2 then (none, true)
  else if v = -1 then (none, false)
  else if 0 ≤ v ∧ v < ext then (some v.toNat, false)
  else (none, true)

/-- The words of a slice v of a tensor along dimension d that hold the elements beside it in the rows. -/
def KState.sliceAddrs (k : KState) (t : TDesc) (d v : Nat) : List Nat :=
  if d = 0 then (upto t.nRows).flatMap (fun r =>
    (rowWordsOf t (rowIdx t r) v 1 ++ scaleWordsOf t (rowIdx t r) v 1).map (k.s.tAddr k.p t))
  else (upto t.nRows).flatMap (fun r => if (rowIdx t r).getD (d - 1) 0 = v then k.rowAddrs t r else [])

/-- The indices of a gather or scatter. -/
def KState.indices (k : KState) (it : TDesc) (ext : Nat) : List (Option Nat × Bool) :=
  (upto (it.ext 0)).map (idxOf (k.lookT it) it ext)

/-- An index out of range is logged once, with the first such j in the entry's detail (R109; log 33). -/
def KState.indexFault (k : KState) (idxs : List (Option Nat × Bool)) : KState :=
  match idxs.findIdx? (·.2) with
  | none => k
  | some j => { k with s := k.s.logEvent 0x0504 (some k.p) false (.unit (coreUnit k.b)) j }

def KState.gather (k : KState) (src idx out d : Nat) : KState :=
  let st := k.desc src
  let ot := k.desc out
  let idxs := k.indices (k.desc idx) (st.ext d)
  let at_ (l0 : Nat) (hi : List Nat) : (Nat × Bool) × (Nat × Bool) :=
    match idxs.getD (coordOf d l0 hi) (none, true) with
    | (some v, _) => let m := moveTo d v l0 hi; rawAt (k.lookT st) st m.1 m.2
    | (none, bad) => ((0, bad), (0, bad))
  ((upto ot.nRows).foldl (fun (k : KState) r => k.putRaw ot (rowIdx ot r) (fun l => at_ l (rowIdx ot r))) k).indexFault idxs

def KState.scatter (k : KState) (base idx upd out d : Nat) : KState :=
  let bt := k.desc base
  let ut := k.desc upd
  let ot := k.desc out
  let idxs := k.indices (k.desc idx) (ot.ext d)
  let bad := idxs.any (·.2)
  let poison (x : (Nat × Bool) × (Nat × Bool)) : (Nat × Bool) × (Nat × Bool) := ((x.1.1, x.1.2 || bad), (x.2.1, x.2.2 || bad))
  let at_ (l0 : Nat) (hi : List Nat) : (Nat × Bool) × (Nat × Bool) :=
    match (upto idxs.length).reverse.find? (fun j => (idxs.getD j (none, false)).1 == some (coordOf d l0 hi)) with
    | some j => let m := moveTo d j l0 hi; poison (rawAt (k.lookT ut) ut m.1 m.2)
    | none => poison (rawAt (k.lookT bt) bt l0 hi)
  ((upto ot.nRows).foldl (fun (k : KState) r => k.putRaw ot (rowIdx ot r) (fun l => at_ l (rowIdx ot r))) k).indexFault idxs

/-! ### Pages in the Vat (R61, R62, R67, R161) -/

/-- A code of a tail value is FP32 in a pack's operands; the page image of 16 tokens. -/
def KState.pack (k : KState) (kt vt out page : Nat) : KState :=
  let o := k.desc out
  let kd := k.desc kt
  let D := kd.ext 0
  let rows (t : Nat) : List (List (W32 × Bool)) := (upto 16).map (fun i => k.rowVals t i)
  let ks := rows kt
  let vs := rows vt
  let bad := ks.any (fun r => r.any (·.2)) || vs.any (fun r => r.any (·.2))
  let group (xs : List (List (W32 × Bool))) (c : Nat) : Nat × List Nat := skimKPack (xs.map (fun r => (r.getD c (0, false)).1))
  let ws := skimKWords D ((upto D).map (group ks)) ((upto D).map (group vs))
  k.putRaw o [page] (fun i => (((ws.getD i 0).toNat, bad), (0, false)))

/-- Element c of token t of the keys or the values of a page image. -/
def imageVal (D : Nat) (ws : List W256) (value : Bool) (t c : Nat) : W32 :=
  let key := D / 32 + D / 4
  if value then
    let r := (ws.drop (key + c / 64 * 18)).take 18
    skimKUnpack (rowBits r 0 (8 * (c % 64)) 8) (rowBits r (2 + t) (4 * (c % 64)) 4)
  else skimKUnpack (rowBits ws 0 (8 * c) 8) (rowBits ws (D / 32 + t * (D / 64)) (4 * c) 4)

def KState.unpack (k : KState) (src page kt vt : Nat) : KState :=
  let sd := k.desc src
  let D := (k.desc kt).ext 0
  let ws := (upto (sd.ext 0)).map (fun i => elemAt (k.lookT sd) sd [page] i)
  let data := ws.map (fun (w : Nat × Bool) => BitVec.ofNat 256 w.1)
  let bad := ws.any (·.2)
  (upto 16).foldl (fun (k : KState) t =>
    let row (value : Bool) : List (W32 × Bool) := (upto D).map (fun c => (imageVal D data value t c, bad))
    (k.putRow kt t (row false)).putRow vt t (row true)) k

/-! ### Attention on a core (R160 to R165, R173) -/

/-- A query: its position, -1 for none, its first visible page, and whether its row is poisoned. -/
def KState.query (k : KState) (x : QuerySpec) : Int × Nat × Bool :=
  let t := k.desc x.step
  let e (i : Nat) : Int × Bool := let v := elemAt (k.lookT t) t [] (4 * x.row + i); (signedOf 32 v.1, v.2)
  (if (e 1).1 < 0 then -1 else (e 1).1 + x.off, (e 2).1.toNat, (e 1).2)

/-- The page of a partial: the query's own, or the i-th from the first visible one. -/
def pageOf (q : Int × Nat × Bool) (page : Option Nat) : Nat :=
  match page with
  | none => q.1.toNat / 16
  | some i => q.2.1 + i

/-- A page is present for a query (R160). -/
def present (q : Int × Nat × Bool) (j : Nat) : Bool := decide (0 ≤ q.1) && decide (q.2.1 ≤ j) && decide (16 * (j : Int) ≤ q.1)

/-- The record of a partial in a row of FP32 elements: m, s, then o from the third word on. -/
def partialRec (m s : W32 × Bool) (o : List (W32 × Bool)) : List (W32 × Bool) :=
  [m, s] ++ (upto 14).map (fun _ => ((0 : W32), false)) ++ o

/-- The partial of a page (R162, R164). -/
def KState.partialOf (k : KState) (x : QuerySpec) (q qrow : Nat) (page : Option Nat) (kt vt out orow : Nat) : KState :=
  let qu := k.query x
  let j := pageOf qu page
  if present qu j then
    let D := (k.desc q).ext 0
    let qv := k.rowVals q qrow
    let vis (t : Nat) : Bool := decide (((16 * j + t : Nat) : Int) ≤ qu.1)
    let kv := (upto 16).map (fun t => if vis t then some (k.rowVals kt t, k.rowVals vt t) else none)
    let r := attnPartial x.c (qv.map (·.1)) D (kv.map (fun e => e.map (fun x => (x.1.map (·.1), x.2.map (·.1)))))
    let badAll := qu.2.2 || qv.any (·.2) || kv.any (fun e => match e with | some x => x.1.any (·.2) | none => false)
    let badV (d : Nat) : Bool := kv.any (fun e => match e with | some x => (x.2.getD d (0, false)).2 | none => false)
    k.putRow out orow (partialRec (r.1, badAll) (r.2.1, badAll) (r.2.2.mapIdx (fun d y => (y, badAll || badV d))))
  else k

/-- An entry of the work list (log 89): page number, -1 for none, -2 for a missing page; row of the step table; page
position. -/
structure WorkItem where
  page : Int
  row : Int
  pos : Int
  bad : Bool
  deriving Repr

/-- Entry n of a work list in a tensor of INT32. -/
def itemAt (look : Nat → W256 × Bool) (t : TDesc) (n : Nat) : WorkItem :=
  let e (i : Nat) : Nat × Bool := elemAt look t [] (4 * n + i)
  ⟨signedOf 32 (e 0).1, signedOf 32 (e 1).1, signedOf 32 (e 2).1, (e 0).2⟩

/-- The entry of the work list that holds an item of a row and a page position. -/
def KState.itemOf (k : KState) (d : CombineSpec) (row j : Nat) : Option Nat :=
  (upto (256 * d.rounds)).find? (fun n =>
    let e := itemAt (k.lookT (k.desc d.list)) (k.desc d.list) n
    e.page != -1 && e.row == row && e.pos == j)

/-- The record of a page for a combine: tensor and row. -/
def KState.recordOf (k : KState) (x : QuerySpec) (d : CombineSpec) (qu : Int × Nat × Bool) (j : Nat) : Option (Nat × Nat) :=
  if !present qu j then none
  else if j = qu.1.toNat / 16 then some (d.own, d.ownRow)
  else (k.itemOf d x.row j).map (fun n => (d.recs, n * d.visits + d.visit))

/-- The page positions up to the query's own. -/
def pagesOf (qu : Int × Nat × Bool) : List Nat := if qu.1 < 0 then [] else upto (qu.1.toNat / 16 + 1)

/-- The combine over the present pages (R163, R164, R173): over all of them, or the part of R163 that the records here give. A
row whose items were dropped is poisoned (R171). -/
def KState.combine (k : KState) (x : QuerySpec) (d : CombineSpec) (y l orow : Nat) : KState :=
  let qu := k.query x
  let recs := (pagesOf qu).map (fun j => (k.recordOf x d qu j).map (fun e => k.rowVals e.1 e.2))
  let ms := recs.map (fun r => r.map (fun r =>
    ((r.getD 0 (0, false)).1, (r.getD 1 (0, false)).1, (upto d.D).map (fun c => (r.getD (16 + c) (0, false)).1))))
  let marked := (k.rowVals d.marks x.row).any (·.2)
  let lost := (pagesOf qu).any (fun j => present qu j && (k.recordOf x d qu j).isNone && d.part == 0)
  let bad := qu.2.2 || marked || lost || recs.any (fun r => match r with
    | some r => (r.getD 0 (0, false)).2 || (r.getD 1 (0, false)).2
    | none => false)
  let badAt (c : Nat) : Bool := bad || recs.any (fun r => match r with | some r => (r.getD (16 + c) (0, false)).2 | none => false)
  let sh := shardingOf d.sharding
  match d.part with
  | 1 => k.putRow y orow [(reduceMax (ms.filterMap (fun m => m.map (·.1))), bad)]
  | 2 =>
    let M := (k.rowVals d.max 0).getD 0 (0, false)
    let r := attnSums sh x.c M.1 d.D ms
    k.putRow y orow (partialRec (M.1, bad || M.2) (r.1, bad || M.2) (r.2.mapIdx (fun c v => (v, badAt c || M.2))))
  | _ =>
    let r := attnCombine sh x.c d.D ms
    let k := k.putRow y orow (r.1.mapIdx (fun c v => (v, badAt c)))
    if l < ((k.call.map (·.descs.length)).getD 0) then k.putRow l orow [(r.2, bad)] else k

/-! ### Sampling (R205 to R210) -/

/-- What a prefill of a request covers: its prompt, and after a cut the tokens generated before it (R185, R186). -/
def prefillOf (r : Req) : List Nat := r.prompt ++ r.gen.take r.rebuilt

/-- The tokens of a request's next chunk (R190): from its cached length on. -/
def chunkTokens (r : Req) (size : Nat) : List Nat := ((prefillOf r).drop r.len).take size

/-- The rows of the commit table that append (R196). -/
def Part.appends (x : Part) : List StepRow := (x.append.filter (·.2)).map (·.1)

/-- The positions a row of the commit table appends: one for a decode row, the chunk's for a prefill row, none for a
sequence that has been cut since its commit (log 44). -/
def appendCount (v : ServingSpec) (r : Req) (e : StepRow) : Nat :=
  if r.st = .admitted then 0 else if e.kind = 0 then 1 else (chunkTokens r v.chunk).length

/-- The prompt tokens that a chunk counts: those up to its end that no earlier chunk counted, so that every prompt token
is counted once, a matched prefix included (R209). -/
def countedTokens (r : Req) (size : Nat) : List Nat := (r.prompt.take (r.len + size)).drop r.counted

/-- The candidate of a row from its logits, its count table and the overflow word's bit (R205, R207, R209, R210); `chunk`:
the prompt tokens of a final prefill chunk. -/
def candidateOf (sh : Sharding) (r : Req) (tab : CountTab) (ovf : Bool) (chunk : List Nat) (logits : List (W32 × Bool)) (bad : Bool) : Cand :=
  let rc := r.rec_
  let a : SampleArgs := ⟨rqTemperature rc, rqTopK rc, rqTopP rc, rqRepetition rc, rqPresence rc, rqFrequency rc, rqSeed rc, rqId rc, stepNumber r⟩
  let w := countTokens tab chunk
  let z := logits.map (·.1)
  let bad := bad || logits.any (·.2)
  match sample sh a (countOf w.1) z with
  | none => { poison := bad, numeric := true, overflow := ovf || w.2 }
  | some v =>
    let o := ovf || w.2 || (countToken w.1 v).isNone
    let lp := if rqLpAlts rc = 0 then (0, []) else logProbs sh (penalise a (countOf w.1) z) v (rqLpAlts rc - 1)
    { token := v, poison := bad, numeric := false, overflow := o, lp := lp.1, alts := lp.2 }

/-- A number's 32-bit parts as words. -/
def wordsOf32 (xs : List Nat) : List W256 :=
  (upto (ceilDiv xs.length 8)).map (fun i =>
    BitVec.ofNat 256 (((xs.drop (8 * i)).take 8).reverse.foldl (fun n x => n * 2 ^ 32 + x % 2 ^ 32) 0))

/-- A candidate as the words of its place in the candidate area (log 89): token, flags, log-probability, number of
alternatives, then their tokens and log-probabilities. -/
def Cand.words (c : Cand) : List W256 :=
  let pairs := c.alts.flatMap (fun e => [e.1, e.2.toNat])
  wordsOf32 ([c.token, b2n c.numeric + 2 * b2n c.overflow, c.lp.toNat, c.alts.length] ++ pairs ++
    (upto (20 - pairs.length)).map (fun _ => 0))

/-- The candidate that the words at a physical address hold; a poisoned word makes it poisoned (R193). -/
def Cand.at_ (look : Nat → W256 × Bool) (a : Nat) : Cand :=
  let u (i : Nat) : Nat := (u32At look (a + 4 * i)).1
  ⟨u 0, (areaWords a candBytes).any (fun w => (look w).2), bit (u 1) 0, bit (u 1) 1, BitVec.ofNat 32 (u 2),
    (upto (Nat.min 8 (u 3))).map (fun i => (u (4 + 2 * i), BitVec.ofNat 32 (u (5 + 2 * i))))⟩

/-- Where the sampling kernel finds a row's slot and count table. -/
def KState.sampleSlot (k : KState) (v : ServingSpec) (row : Nat) : StepQ := stepAt k.lookGot (k.s.areaAt k.p v.stepTable + 16 * row)
def KState.countBase (k : KState) (v : ServingSpec) (slot : Nat) : Nat := k.s.areaAt k.p v.counts + countBytes * slot

/-- The sampling kernel writes the candidate of a row, and the overflow word where it finds its bucket full (R193, R210). -/
def KState.sampleRow (k : KState) (row logits : Nat) : KState :=
  match k.s.serving k.p with
  | none => k
  | some v =>
    let q := k.sampleSlot v row
    let slot := q.slot.toNat
    let r := k.s.reqs.get slot
    let base := k.countBase v slot
    let ow := k.lookGot (base + 16384)
    let bad := q.bad || (areaWords base countBytes).any (fun a => (k.lookGot a).2)
    let chunk := if q.kind = 2 ∧ rqCountPrompt r.rec_ then countedTokens r r.prompt.length else []
    let c := candidateOf (shardingOf v.vocab) r (countsAt k.lookGot base) (bit ow.1.toNat 0) chunk (k.rowVals logits row) bad
    let k := k.putArea (k.s.areaAt k.p v.cands + candBytes * row) (c.words.map (fun w => (w, c.poison)))
    if c.overflow ∧ ¬ bit ow.1.toNat 0 then k.putArea (base + 16384) [(BitVec.ofNat 256 1, ow.2)] else k

/-! ### The work list (R171) -/

/-- The page-list entry of a slot at a page position; each list begins at a word (log 89). -/
def State.listAddr (s : State) (p : Nat) (v : ServingSpec) (slot j : Nat) : Nat :=
  s.areaAt p v.pageLists + 32 * ceilDiv v.maxPages 8 * slot + 4 * j

/-- The class offset of a slot: the class of the page at position 0 of its list (R170). -/
def KState.classOff (k : KState) (v : ServingSpec) (slot : Nat) : Nat :=
  let e := i32At k.lookGot (k.s.listAddr k.p v slot 0)
  if 0 ≤ e.1 then pageClass v e.1.toNat else 0

/-- The items of a row of the step table: page position, class, and the page number, -2 where the list holds none of the pool
set (R171). -/
def KState.rowItems (k : KState) (v : ServingSpec) (row : Nat) : List (Nat × Nat × Int × Bool) :=
  let q := k.sampleSlot v row
  if q.pos < 0 then []
  else
    let slot := q.slot.toNat
    ((upto (q.pos.toNat / 16)).filter (fun (j : Nat) => decide (q.first ≤ (j : Int)))).map (fun (j : Nat) =>
      let e := i32At k.lookGot (k.s.listAddr k.p v slot j)
      (j, (k.classOff v slot + j) % 256, if 0 ≤ e.1 ∧ e.1 < poolPages v then e.1 else -2, q.bad || e.2))

/-- The items of a step by class and round: place, then row, position, page and poison; and the rows whose items exceed the U
rounds of a class. -/
def workPlaces (U : Nat) (items : List (Nat × Nat × Nat × Int × Bool)) : List (Nat × Nat × Nat × Int × Bool) × List Nat :=
  let r := items.foldl (fun (acc : NMap Nat × List (Nat × Nat × Nat × Int × Bool) × List Nat) e =>
    let n := acc.1.get e.2.2.1
    if n < U then (acc.1.set e.2.2.1 (n + 1), acc.2.1 ++ [(e.2.2.1 * U + n, e.1, e.2.1, e.2.2.2)], acc.2.2)
    else (acc.1, acc.2.1, acc.2.2 ++ [e.1])) ([], [], [])
  (r.2.1, r.2.2.dedup)

/-- The work list of the step and the marks of its rows; dropped items are an index fault, logged once. -/
def KState.workList (k : KState) (U out marks : Nat) : KState :=
  match k.s.serving k.p with
  | none => k
  | some v =>
    let o := k.desc out
    let r := workPlaces U ((upto v.rowsMax).flatMap (fun row => (k.rowItems v row).map (fun e => (row, e))))
    let entry (n : Nat) : List (Int × Bool) :=
      match r.1.find? (fun e => e.1 == n) with
      | some e => [(e.2.2.2.1, e.2.2.2.2), ((e.2.1 : Int), e.2.2.2.2), ((e.2.2.1 : Int), e.2.2.2.2), (0, e.2.2.2.2)]
      | none => [(-1, false), (0, false), (0, false), (0, false)]
    let k := k.putRaw o [] (fun l =>
      let e := (entry (l / 4)).getD (l % 4) (0, false)
      (((e.1 % (2 ^ 32 : Int)).toNat, e.2), (0, false)))
    let k := (upto v.rowsMax).foldl (fun (k : KState) row => k.putRow marks row [(0, r.2.contains row)]) k
    if r.2.isEmpty then k else { k with s := k.s.logEvent 0x0504 (some k.p) false (.unit (coreUnit k.b)) 0 }

/-! ### Which words a library kernel loads, and what it stores -/

/-- The words that a library kernel loads, phase by phase: those of a phase may depend on what the earlier ones loaded. -/
def KState.phases (k : KState) : KBody → List (List Nat)
  | .native _ => []
  | .rows op args out _ =>
    (match op with
      | .random _ _ _ => [args.flatMap (fun a => k.rowAddrs (k.desc a) 0)]
      | _ => [(upto (k.desc out).nRows).flatMap (fun r => args.flatMap (fun a => k.rowAddrs (k.desc a) (r % Nat.max 1 (k.desc a).nRows)))])
  | .move _ args _ => [args.flatMap (fun a => (upto (k.desc a).nRows).flatMap (k.rowAddrs (k.desc a)))]
  | .gather src idx _ d =>
    [k.rowAddrs (k.desc idx) 0,
      (k.indices (k.desc idx) ((k.desc src).ext d)).flatMap (fun e => match e.1 with
        | some v => k.sliceAddrs (k.desc src) d v
        | none => [])]
  | .scatter base idx upd _ _ =>
    [k.rowAddrs (k.desc idx) 0 ++ (upto (k.desc base).nRows).flatMap (k.rowAddrs (k.desc base)) ++
      (upto (k.desc upd).nRows).flatMap (k.rowAddrs (k.desc upd))]
  | .pack kt vt _ _ => [(upto 16).flatMap (fun t => k.rowAddrs (k.desc kt) t ++ k.rowAddrs (k.desc vt) t)]
  | .unpack src page _ _ => [k.rowAddrs (k.desc src) page]
  | .sample row logits =>
    (match k.s.serving k.p with
      | none => []
      | some v =>
        let a := k.s.areaAt k.p v.stepTable + 16 * row
        [areaWords a 16, areaWords (k.countBase v (k.sampleSlot v row).slot.toNat) countBytes ++ k.rowAddrs (k.desc logits) row])
  | .partialOf x q qrow page kt vt _ _ =>
    [k.rowAddrs (k.desc x.step) 0,
      if present (k.query x) (pageOf (k.query x) page) then
        k.rowAddrs (k.desc q) qrow ++ (upto 16).flatMap (fun t => k.rowAddrs (k.desc kt) t ++ k.rowAddrs (k.desc vt) t)
      else []]
  | .combine x d _ _ _ =>
    [k.rowAddrs (k.desc x.step) 0 ++ k.rowAddrs (k.desc d.list) 0 ++ k.rowAddrs (k.desc d.marks) x.row ++
        (if d.part = 2 then k.rowAddrs (k.desc d.max) 0 else []),
      (pagesOf (k.query x)).flatMap (fun j => match k.recordOf x d (k.query x) j with
        | some e => k.rowAddrs (k.desc e.1) e.2
        | none => [])]
  | .workList _ _ _ =>
    (match k.s.serving k.p with
      | none => []
      | some v =>
        [areaWords (k.s.areaAt k.p v.stepTable) (16 * v.rowsMax),
          (upto v.rowsMax).flatMap (fun row =>
            let q := k.sampleSlot v row
            if q.pos < 0 then [] else areaWords (k.s.listAddr k.p v q.slot.toNat 0) (4 * (q.pos.toNat / 16 + 1)))])

/-- What a library kernel stores once it has its words. -/
def KState.apply (k : KState) (b : KBody) : KState :=
  match b with
  | .native _ => k
  | .rows op args out sh => (upto (k.desc out).nRows).foldl (fun (k : KState) r => k.rowOpAt op args out r (shardingOf sh)) k
  | .move op args out =>
    let o := k.desc out
    (upto o.nRows).foldl (fun (k : KState) r => k.putRaw o (rowIdx o r) (fun l =>
      let e := moveSrc op (args.map k.desc) o l (rowIdx o r)
      let t := k.desc (args.getD e.1 0)
      rawAt (k.lookT t) t e.2.1 e.2.2)) k
  | .gather src idx out d => k.gather src idx out d
  | .scatter base idx upd out d => k.scatter base idx upd out d
  | .pack kt vt out page => k.pack kt vt out page
  | .unpack src page kt vt => k.unpack src page kt vt
  | .sample row logits => k.sampleRow row logits
  | .partialOf x q qrow page kt vt out orow => k.partialOf x q qrow page kt vt out orow
  | .combine x d y l orow => k.combine x d y l orow
  | .workList U out marks => k.workList U out marks

/-- The words that a library kernel wants next. -/
def KState.wants (k : KState) (b : KBody) : List Nat :=
  let has (a : Nat) : Bool := Words.has ((k.call.map (·.got)).getD []) a
  ((k.phases b).find? (fun l => l.any (fun a => !has a))).elim [] (fun l => (l.filter (fun a => !has a)).dedup)

/-- Words of a kernel's run-time indexed accesses go one to a slot (R110). -/
def beatOf : KBody → Nat
  | .gather _ _ _ _ => 1
  | .scatter _ _ _ _ _ => 1
  | _ => 2

/-- The words that the slot of a library kernel takes: the next it wants, up to two in two banks, but for those that meet a
buffered store (R117, R128). -/
def KState.slotWords (k : KState) : List Nat :=
  match k.call with
  | none => []
  | some c =>
    let l := (k.wants c.body).filter (fun a => !k.overlaps [a] && k.s.coreSlot k.p k.b k.T a)
    match (slotGroups 2 l).head? with
    | some g => g.take (beatOf c.body)
    | none => []

/-- A library kernel has loaded all it wants: its results are there when its last load is usable and its time has passed. -/
def KState.settleAt (k : KState) (c : Call) : KState := k.goAt (Nat.max (k.T + 12) (c.start / 2 + Config.libraryPcs c.body))

/-- The next slot of a library kernel, or its results. -/
def KState.libNext (k : KState) : KState :=
  match k.call with
  | none => k
  | some c =>
    if (k.wants c.body).isEmpty then k.settleAt c
    else
      match c.slots.filter (fun x => decide (k.T < x)) with
      | t :: rest => (k.updCall (fun x => { x with slots := rest })).plan t (.coreGet k.b)
      | [] => k

/-- A slot of a library kernel takes words. -/
def KState.libSlot (k : KState) (blocked : List Nat) : KState :=
  let take := k.slotWords.filter (fun a => !blocked.contains (vatBank a))
  let s := k.s
  let k := k.updCall (fun c => { c with got := take.foldl (fun (m : Words) a => m.put a (s.vatSees a)) c.got })
  ({ k with s := k.s.each take (fun s a => s.vatLog a false) }).libNext

/-- A library kernel has its results: they enter its store buffer, and the kernel ends once the buffer holds them (R125,
R128). -/
def KState.libEnd (k : KState) : KState :=
  if storeRoom < k.core.stores.length then k else k.upd (fun c => { c with call := none })

def KState.libGo (k : KState) (c : Call) : KState :=
  if c.results then k.libEnd
  else if (k.wants c.body).isEmpty then ((k.apply c.body).updCall (fun x => { x with results := true })).libEnd
  else k.libNext

/-- A core goes on: native code, or a library kernel. -/
def KState.go (k : KState) : KState :=
  match k.call with
  | none => k
  | some c =>
    match c.body with
    | .native ops => KState.run ops 8 k
    | _ => k.libGo c

end Sys2Proof.Machine
end

