-- ==== Sys2Proof/Machine/PlateDma.lean ====
section
/-! DEFINITION. The plate DMA engine: READ, WRITE, FILL_OPEN, FEED, QUEUE, COLLECT, RSCHECK (R11, R13, R15, R59, R60, R148
to R151, R155, R171, R173) and the append step (R175, R196, R209). -/

namespace Sys2Proof.Machine

open Sys2Proof

/-! ### Places and links -/

/-- The physical Vat address of an offset in a quarter as stored. -/
def vatAt (q o : Nat) : Nat := q * 2 ^ 26 + o

/-- A range of whole words in a half, and in a quarter's populated Vat. -/
def stkRangeOk (o n : Nat) : Bool := o % 32 == 0 && decide (o + 32 * n ≤ 2 ^ 35)
def vatRangeOk (o n : Nat) : Bool := o % 32 == 0 && decide (o + 32 * n ≤ 0x3000000)

/-- Stack link of a half, as link number of R314. -/
def stackLink (half : Nat) : Nat := 0x10 + half / 2

/-- Press link between two dies, as link number of R314: the pairs in ascending order. -/
def pressLink (d d' : Nat) : Nat :=
  let a := Nat.min d d'
  let b := Nat.max d d'
  if a = 0 then b - 1 else a + b

/-- A word that crosses a link: an error on the way is corrected, or the word is delivered poisoned; either is logged
(R13, R315). -/
def State.linkErr (s : State) (p : Nat) (err : Option (Nat × Bool)) : State :=
  match err with
  | none => s
  | some (link, bad) => s.logEvent (if bad then 0x0203 else 0x0202) (some p) false (.link link) 0

/-- A word that has met an uncorrectable error is delivered poisoned. -/
def errBad (err : Option (Nat × Bool)) : Bool := err.any (·.2)

/-- The link error of word n of a command, on the way between two quarters' dies or on the stack link of the first. -/
def errOf (errs : List LinkErr) (q q' n : Nat) : Option (Nat × Bool) :=
  (errs.find? (fun e => e.word == n)).map (fun e => (if e.press ∧ q / 4 ≠ q' / 4 then pressLink (q / 4) (q' / 4) else stackLink q, e.bad))

/-- The port by which a word of quarter q reaches the Vat of quarter q' (R97). -/
def landPort (q q' : Nat) : Nat := if q / 4 = q' / 4 then 0x21 else 0x30 + q

/-! ### skim-W (R59, R60) -/

/-- The addresses of the words of curd c. -/
def curdWords (base B c : Nat) : List Nat := (upto (B + 1)).map (fun i => base + 32 * ((B + 1) * c + i))

/-- The header of the skim-W region of a stack address: curd budget and code lengths, none when a word of it is
uncorrectable or poisoned. DESIGN CHOICE (log 88), as R59 says only that the region header holds them: the header is the
region's first five words, of which bits [6:0] of the first hold B, and the others the lengths of byte values 0 to 255 in
four bits each; the decoder holds it, so that no read of a curd pays for it. -/
def State.skimHeader (s : State) (a : Nat) : Option (Nat × List Nat) :=
  let ws := (upto 5).map (fun i => s.stkRead (a / 2 ^ 21 * 2 ^ 21 + 32 * i))
  if ws.any (·.2) then none
  else some (bits (ws.getD 0 (0, false)).1.toNat 0 7,
    (upto 256).map (fun b => bits (ws.getD (1 + b / 64) (0, false)).1.toNat (4 * (b % 64)) 4))

/-- The 128 plain words of a curd with poison, from its words as delivered, and whether it is malformed. -/
def curdOf (B : Nat) (hdr : Option (Nat × List Nat)) (ws : List (W256 × Bool)) : List (W256 × Bool) × Bool :=
  let bad := ws.any (·.2)
  let out := match hdr with
    | some h => if h.1 = B then
        decodeCurd B h.2 (ws.headD (0, false)).1.toNat ((ws.drop 1).flatMap (fun (w : W256 × Bool) => leBytes 32 w.1.toNat)) else none
    | none => none
  match out with
  | some bs => ((upto 128).map (fun i => (BitVec.ofNat 256 (leNat (((bs.drop (32 * i)).take 32).map (BitVec.ofNat 8))), bad)), false)
  | none => ((upto 128).map (fun _ => (0, true)), true)

/-! ### What the engine does at a plate cycle -/

/-- A stack word is read, and what it delivers is on its way (R148, R155). -/
def State.getStep (s : State) (p a : Nat) (outs : List (Put × Nat)) (err : Option (Nat × Bool)) : State :=
  let w := s.stkRead a
  ((s.stkReadLog a).linkErr p err).plan p
    (outs.map (fun o => (o.2, .put o.1 w.1 (w.2 || errBad err))))

/-- A stack word is read and kept. -/
def State.codedStep (s : State) (p a : Nat) (err : Option (Nat × Bool)) : State :=
  let w := s.stkRead a
  ((s.stkReadLog a).linkErr p err).updSeq (stkHalf a) (fun q =>
    { q with coded := q.coded.put a (w.1, w.2 || errBad err) })

/-- A curd is decoded once its words are there, and its plain words are on their way (R59, R60). -/
def State.curdStep (s : State) (p base B c : Nat) (outs : List (Nat × Put × Nat)) : State :=
  let as := curdWords base B c
  let q := s.seqAt (stkHalf base)
  let r := curdOf B (s.skimHeader base) (as.map (q.coded.word (0, true)))
  let s := s.updSeq (stkHalf base) (fun q => { q with coded := q.coded.keep (fun a => !as.contains a) })
  let s := if r.2 then s.logEvent 0x0109 (some p) false (.stack (as.headD base)) 0 else s
  s.plan p (outs.map (fun o => let w := r.1.getD o.1 (0, true); (o.2.2, .put o.2.1 w.1 w.2)))

/-- A Vat word is taken, and is on its way. -/
def State.takeStep (s : State) (p a : Nat) (outs : List (Put × Nat)) (err : Option (Nat × Bool)) : State :=
  let w := s.vatSees a
  ((s.vatLog a false).linkErr p err).plan p (outs.map (fun o => (o.2, .put o.1 w.1 (w.2 || errBad err))))

/-- A Vat word is taken and kept. -/
def State.takeInStep (s : State) (a : Nat) : State :=
  let w := s.vatSees a
  (s.vatLog a false).updSeq (a / 2 ^ 26) (fun q => { q with taken := q.taken.put a w })

/-- The check row of a word, where its region is open: bank, pail row, check row. -/
def State.rowOfWord (s : State) (a : Nat) : Option (Nat × Nat × Nat) :=
  let g := s.region (stkHalf a) (stkRegion a)
  if s.kindAt a = 2 ∧ g.rowOk ∧ stkWordNo a / g.rowLen < 512 / g.rowLen then some (stkBank a, stkPail a, stkWordNo a / g.rowLen)
  else none

/-- A word of an open region is stored, and a poisoned one remembered until its row's sum is recorded (R148, R149). -/
def State.openPut (s : State) (a : Nat) (d : W256) (poison : Bool) : State :=
  let s := s.stkRaw a d 0
  if poison then
    match s.rowOfWord a with
    | some x => s.updSeq (stkHalf a) (fun q => { q with badRows := x :: q.badRows })
    | none => s
  else s

/-- A word lands (R148, R155; log 41). -/
def State.putStep (s : State) (dest : Put) (d : W256) (poison : Bool) : State :=
  match dest with
  | .vat a _ => s.vatPut a d poison
  | .stk a whole => if s.kindAt a = 2 then (if whole then s.openPut a d poison else s) else s.stkPut a d poison
  | .opened a => if s.kindAt a = 2 then s.openPut a d poison else s

/-- A check row of an open working copy of a partition that holds a poisoned word is a fault of its steps until it is copied
anew (R195, R312, R319). -/
def State.rowFault (s : State) (half bank pail row : Nat) (g : Region) (bad : Bool) : State :=
  let k := faultRow (stkAddr half bank pail (row * g.rowLen))
  match s.mapped half (pailRegion bank pail) with
  | none => s
  | some p =>
    if s.poolRegion p half (pailRegion bank pail) then s
    else if bad then s.addFault p k
    else if (s.part p).faults.contains k then s.repaired p (· == k)
    else s

/-- The row-sum entry of a check row is written; a row with a poisoned word records its sum XOR 1 (R149, R312). -/
def State.sumStep (s : State) (half bank pail row : Nat) : State :=
  let g := s.region half (pailRegion bank pail)
  if s.kindOf half (pailRegion bank pail) = 2 ∧ g.rowOk then
    let sum := rowSum (s.rowData half bank pail row g.rowLen)
    let bad := (s.seqAt half).badRows.contains (bank, pail, row)
    ((s.putSum half g bank row (if bad then sum ^^^ 1 else sum)).updSeq half (fun q =>
      { q with badRows := q.badRows.filter (· != (bank, pail, row)) })).rowFault half bank pail row g bad
  else s

/-- A word leaves for the broadcast path of a half, where it arrives over the link (R11, R155, R171; log 40). -/
def State.feedWord (s : State) (p half B : Nat) (w : W256 × Bool) (err : Option (Nat × Bool)) : State :=
  (s.linkErr p err).updSeq half (fun q => { q with feed := q.feed ++ [⟨w.1, w.2 || errBad err, B + linkDelay, []⟩] })

def State.feedStep (s : State) (p half B : Nat) (a : Option Nat) (err : Option (Nat × Bool)) : State :=
  match a with
  | none => s.feedWord p half B (0, false) err
  | some a => (s.vatLog a false).feedWord p half B (s.vatSees a) err

/-- A work-list entry at a physical address, from what the engine has taken of it (R171; log 89). -/
def entryOf (look : Nat → W256 × Bool) (a : Nat) : WorkItem :=
  ⟨(i32At look a).1, (i32At look (a + 4)).1, (i32At look (a + 8)).1, (i32At look a).2⟩

/-- The Vat word that holds the k-th query word of an entry's row and a head, none for an empty round (R109, R171). -/
def State.queryAddr (s : State) (p half entry desc head k : Nat) : Option Nat :=
  let e := entryOf (fun w => (s.seqAt half).taken.word (0, true) w) entry
  let t := s.plateDesc p desc
  if e.bad ∨ e.page = -1 ∨ e.row < 0 ∨ (t.ext 2 : Int) ≤ e.row then none
  else some (s.tAddr p t (t.rowByte [head, e.row.toNat] + 32 * k))

/-- The k-th query word of an entry's row leaves; a poisoned entry gives a poisoned zero word. -/
def State.feedRowStep (s : State) (p half B entry desc head k : Nat) (err : Option (Nat × Bool)) : State :=
  match s.queryAddr p half entry desc head k with
  | some a => (s.vatLog a false).feedWord p half B (s.vatSees a) err
  | none => s.feedWord p half B (0, (entryOf (fun w => (s.seqAt half).taken.word (0, true) w) entry).bad) err

/-- The entries of one visit (R171): for each value row the key entry and the value entry of the page; -1 for an empty round;
poisoned entries for a page that is missing or outside the pool set. -/
def queueEntries (v : ServingSpec) (o : PoolSpec) (B : Nat) (e : WorkItem) : List QEntry :=
  (upto (v.headDim / 64)).flatMap (fun h =>
    if e.bad then [⟨B, true, none⟩, ⟨B, true, none⟩]
    else if e.page = -1 then [⟨B, false, none⟩, ⟨B, false, none⟩]
    else if e.page < 0 ∨ (poolPages v : Int) ≤ e.page then [⟨B, true, none⟩, ⟨B, true, none⟩]
    else
      let pl := pagePlace v o e.page.toNat
      [⟨B, false, some (pl.1, pl.2.1, pl.2.2.1)⟩, ⟨B, false, some (pl.1, pl.2.2.2.1, pl.2.2.2.2 + h)⟩])

/-- The entries of the page that a work-list entry names leave for a half. -/
def State.queueStep (s : State) (p half B pool entry : Nat) : State :=
  match s.serving p with
  | none => s
  | some v =>
    match v.pools[pool]? with
    | none => s
    | some o =>
      (s.vatLog (entry / 32 * 32) false).updSeq half (fun q =>
        { q with queue := q.queue ++ queueEntries v o (B + linkDelay) (entryOf s.vatSees entry) })

/-- The next word that came up the link of a half, once it has arrived. -/
def State.nextUp (s : State) (half B : Nat) : Option LWord :=
  match (s.seqAt half).up with
  | w :: _ => if w.at_ ≤ B then some w else none
  | [] => none

/-- It is put into the Vat (R155, R173). DESIGN CHOICE (log 90), as no rule says what COLLECT does where no word has arrived by
its slot: it writes nothing there. -/
def State.collectStep (s : State) (p half B a : Nat) (err : Option (Nat × Bool)) : State :=
  match s.nextUp half B with
  | none => s
  | some w =>
    (((s.linkErr p err).updSeq half (fun q =>
      { q with up := q.up.drop 1, delivered := q.delivered.set a w.rows }))).vatPut a w.data (w.poison || errBad err)

/-! ### RSCHECK (R150) -/

/-- The table entries that the rows of a SUM_OUT word have: half, region attributes, bank and check row of each. -/
def State.coveredSums (s : State) (half a : Nat) : List (Nat × Nat × Nat) :=
  let q := s.seqAt half
  let bank := bits (q.taken.word (0, false) a).1.toNat 32 9
  (q.delivered.get a).map (fun r => (bank, r.1, r.2))

/-- The address of the table word of a row. -/
def State.tableWord (s : State) (half : Nat) (x : Nat × Nat × Nat) : Nat :=
  sumAddr half (s.region half (pailRegion x.1 x.2.1)) x.1 x.2.2 / 32 * 32

/-- The table words of some SUM_OUT words, each once, in the order of the rows. -/
def State.tableWords (s : State) (half : Nat) (sums : List Nat) : List Nat :=
  (sums.flatMap (fun a => (s.coveredSums half a).map (s.tableWord half))).dedup

/-- A table word is read and kept: an uncorrectable one counts as a disagreement and is logged. -/
def State.tableStep (s : State) (half : Nat) (sums : List Nat) (k : Nat) : State :=
  match (s.tableWords half sums)[k]? with
  | none => s
  | some a =>
    let r := s.stkEcc a
    (s.stkLog a false).updSeq half (fun q => { q with coded := q.coded.put a (r.data, r.res == .uncorrectable) })

/-- The recorded sums of the rows that a SUM_OUT word covers: their sum, and whether a table word is bad or was not read. -/
def State.recorded (s : State) (half a : Nat) : Nat × Bool :=
  (s.coveredSums half a).foldl (fun (acc : Nat × Bool) x =>
    let e := sumAddr half (s.region half (pailRegion x.1 x.2.1)) x.1 x.2.2
    let w := (s.seqAt half).coded.word (0, true) (e / 32 * 32)
    ((acc.1 + bits w.1.toNat (8 * (e % 32)) 32) % 2 ^ 32, acc.2 || w.2)) (0, false)

/-- One delivered SUM_OUT word agrees, or not. -/
def State.sumAgrees (s : State) (half a : Nat) : Bool :=
  let w := (s.seqAt half).taken.word (0, true) a
  let r := s.recorded half a
  !w.2 && !r.2 && r.1 == bits w.1.toNat 0 32

/-- RSCHECK compares: on a disagreement the result is to be marked, the first mismatch recorded, and a row-sum fault
logged. -/
def State.rsEndStep (s : State) (p half : Nat) (sums : List Nat) (result : List (Nat × Nat)) : State :=
  let bad := sums.filter (fun a => !s.sumAgrees half a)
  let bank (a : Nat) : Nat := bits ((s.seqAt half).taken.word (0, false) a).1.toNat 32 9
  let pail (a : Nat) : Nat := ((s.coveredSums half a).headD (0, 0, 0)).2.1
  let pools := bad.any (fun a => (s.coveredSums half a).any (fun x => s.poolRegion p half (pailRegion x.1 x.2.1)))
  let table := s.tableWords half sums
  let s1 := match bad with
    | [] => s
    | b :: _ =>
      let t := s.each bad (fun t a => t.recRowSum p half (bank a) (pail a))
      let t := t.logEvent 0x0108 (some p) false (.stack (stkAddr half (bank b) (pail b) 0)) 0
      let t := if pools then (t.updPart p (fun x => { x with kvDirty := true })).addFault p faultPool else t
      t.plan p (result.map (fun (e : Nat × Nat) => (e.2, Act.mark e.1 true)))
  s1.updSeq half (fun q => { q with
    coded := q.coded.keep (fun a => !table.contains a)
    taken := q.taken.keep (fun a => !sums.contains a)
    delivered := q.delivered.keep (fun a => !sums.contains a) })

/-- A result word is marked. -/
def State.markStep (s : State) (a : Nat) (bad : Bool) : State := if bad then s.vatPut a (s.vatEcc a).data true else s

/-! ### Commands: checks and the work they enter -/

/-- A command of the engine acts when its partition's plate runs and none of its cycles has passed (log 29); its operands are
such as a plate can hold. -/
def State.dmaAct (s : State) (p : Nat) (ok : Bool) (evs : List (Nat × Act)) : Result :=
  if s.running p ∧ evs.all (fun e => decide (s.plateT ≤ e.1)) then s.act ok (fun s => s.plan p evs) else .next s

/-- Words by number with their addresses and cycles. -/
def numbered {α : Type} (l : List α) : List (Nat × α) := l.mapIdx (fun i x => (i, x))

/-- A port has a slot for each of some words of a logical quarter, given as cycle of the segment and physical address, and its
width holds (R97, R117). -/
def State.slotsOk (s : State) (p lq port : Nat) (moves : List (Nat × Nat)) : Bool :=
  moves.all (fun m => s.hasSlot p m.1 lq m.2 port) && widthOk port moves

/-- The stack words that a transfer reads, in order. -/
def dmaSource (half : Nat) (d : DmaSpec) : List Nat :=
  match d.skim with
  | none => (upto d.words).map (fun i => half * 2 ^ 35 + d.off + 32 * i)
  | some B => (upto (d.words / 128)).flatMap (curdWords (half * 2 ^ 35 + d.off) B)

/-- Where the words of a transfer land or are taken, and the logical quarter there: with a hop the Vat of another die. -/
def landLq (d : DmaSpec) : Nat := d.hop.getD d.lq

/-- Plate cycles from a stack access to the arrival of its word at the plate DMA engine of the quarter it lands in. -/
def arrival (B : Nat) (hop : Option Nat) : Nat := pcOfBc (B + readDelay) + (if hop.isSome then pressDelay else 0)

/-- A skim-W budget of R59. -/
def skimOk : Option Nat → Bool
  | none => true
  | some B => decide (1 ≤ B) && decide (B ≤ 127)

/-- A transfer over a Press link goes to another die (R11, R15). -/
def State.hopOk (s : State) (p : Nat) (d : DmaSpec) : Bool :=
  match d.hop with
  | none => true
  | some l => (match s.phys p l, s.phys p d.lq with
      | some q', some q => decide (q' / 4 ≠ q / 4)
      | _, _ => false)

/-- The Vat words of a transfer by physical address. -/
def State.landAddrs (s : State) (p lq off n : Nat) : List Nat :=
  (upto n).map (fun i => vatAt ((s.phys p lq).getD 16) (off + 32 * i))

/-- The cycle at which a READ has word n of its source, or the curd that holds it, at hand. -/
def State.readReady (s : State) (p : Nat) (d : DmaSpec) (n : Nat) : Nat :=
  match d.skim with
  | none => arrival (s.segBc p + d.bcs.getD n 0) d.hop
  | some B => arrival (s.segBc p + (((d.bcs.drop ((B + 1) * (n / 128))).take (B + 1)).foldl Nat.max 0)) d.hop

/-- READ as a plate can hold it: whole words in range, a cycle for each word on each side, a word landing not before it has
arrived, in slots of the port, the link at its rate (R11, R14, R97, R117, R155, R157). -/
def State.readOk (s : State) (p : Nat) (d : DmaSpec) : Bool :=
  let src := dmaSource 0 d
  let q := (s.phys p d.lq).getD 16
  let q' := (s.phys p (landLq d)).getD 16
  (s.phys p d.lq).isSome && s.hopOk p d && stkRangeOk d.off src.length && vatRangeOk d.vat d.words && d.takes.length == d.words &&
  d.bcs.length == src.length && skimOk d.skim && (d.skim.isNone || d.words % 128 == 0) && linkRateOk d.bcs &&
  (numbered d.takes).all (fun e => decide (s.readReady p d e.1 + b2n d.skim.isSome ≤ s.segPc p + e.2)) &&
  s.slotsOk p (landLq d) (landPort q q') (List.zip d.takes (s.landAddrs p (landLq d) d.vat d.words))

/-- The work of a READ. -/
def State.readWork (s : State) (p : Nat) (d : DmaSpec) : List (Nat × Act) :=
  let half := (s.phys p d.lq).getD 16
  let q' := (s.phys p (landLq d)).getD 16
  let port := landPort half q'
  let dst := s.landAddrs p (landLq d) d.vat d.words
  let out (n : Nat) : Put × Nat := (.vat (dst.getD n 0) port, s.segPc p + d.takes.getD n 0)
  let src := dmaSource half d
  let at_ (n : Nat) : Nat := pcOfBc (s.segBc p + d.bcs.getD n 0)
  match d.skim with
  | none => (numbered src).map (fun e => (at_ e.1, .get e.2 [out e.1] (errOf d.errs half q' e.1)))
  | some B =>
    (numbered src).map (fun e => (at_ e.1, .coded e.2 (errOf d.errs half q' e.1))) ++
    (upto (d.words / 128)).map (fun c => (s.readReady p d (128 * c), .curd (half * 2 ^ 35 + d.off) B c
      ((upto 128).map (fun i => (i, out (128 * c + i))))))

/-- READ: stack half to Vat, of its own quarter or of one on another die. -/
def execRead (p : Fin 16) (d : DmaSpec) (s : State) : Result := s.dmaAct p (s.readOk p d) (s.readWork p d)

/-- The check rows that words from an address on cover whole, where the region is open: of each the row and its first
word's number. -/
def State.wholeRows (s : State) (a n : Nat) : List (Nat × Nat × Nat) :=
  ((upto n).filterMap (fun i =>
    match s.rowOfWord (a + 32 * i) with
    | some x =>
      let g := s.region (stkHalf (a + 32 * i)) (stkRegion (a + 32 * i))
      let first := stkAddr (stkHalf a) x.1 x.2.1 (x.2.2 * g.rowLen)
      if a ≤ first ∧ first + 32 * g.rowLen ≤ a + 32 * n then some x else none
    | none => none)).dedup

/-- A WRITE over the stack link: the words, and the sums of the check rows it covers. -/
def State.writeWork (s : State) (p : Nat) (d : DmaSpec) : List (Nat × Act) :=
  let half := (s.phys p d.lq).getD 16
  let a0 := half * 2 ^ 35 + d.off
  let rows := s.wholeRows a0 d.words
  (numbered (s.landAddrs p d.lq d.vat d.words)).map (fun e =>
    let a := a0 + 32 * e.1
    let whole := (s.rowOfWord a).any rows.contains
    (s.segPc p + d.takes.getD e.1 0, .take e.2 [(.stk a whole, pcOfBc (s.segBc p + d.bcs.getD e.1 0))] (errOf d.errs half half e.1))) ++
  (List.zip rows d.sumBcs).map (fun e => (pcOfBc (s.segBc p + e.2), .sum half e.1.1 e.1.2.1 e.1.2.2))

/-- A WRITE over the Press link: its words land in the Vat of another die. -/
def State.hopWork (s : State) (p : Nat) (d : DmaSpec) : List (Nat × Act) :=
  let q := (s.phys p d.lq).getD 16
  let port := landPort q ((s.phys p (landLq d)).getD 16)
  let dst := s.landAddrs p (landLq d) d.off d.words
  (numbered (s.landAddrs p d.lq d.vat d.words)).map (fun e =>
    (s.segPc p + d.takes.getD e.1 0, .take e.2 [(.vat (dst.getD e.1 0) port, s.segPc p + d.bcs.getD e.1 0)] (errOf (d.errs.map (fun (x : LinkErr) => { x with press := true })) q ((s.phys p (landLq d)).getD 16) e.1)))

/-- WRITE as a plate can hold it. A word reaches its stack half 24 plate bank cycles after it leaves, another die 16 pc
after; a row's sum is written with or after the row's last word (R11, R97, R117, R149, R155). -/
def State.writeOk (s : State) (p : Nat) (d : DmaSpec) : Bool :=
  (s.phys p d.lq).isSome && s.hopOk p d && vatRangeOk d.vat d.words && d.takes.length == d.words && d.bcs.length == d.words &&
  d.skim.isNone && s.slotsOk p d.lq 0x20 (List.zip d.takes (s.landAddrs p d.lq d.vat d.words)) &&
  (if d.hop.isSome then
    vatRangeOk d.off d.words && d.sumBcs.isEmpty && (List.zip d.takes d.bcs).all (fun e => decide (e.1 + pressDelay ≤ e.2)) &&
      s.slotsOk p (landLq d) (landPort ((s.phys p d.lq).getD 16) ((s.phys p (landLq d)).getD 16)) (List.zip d.bcs (s.landAddrs p (landLq d) d.off d.words))
  else
    stkRangeOk d.off d.words && linkRateOk (d.takes.map bcAt) && (List.zip d.takes d.bcs).all (fun e => decide (bcAt e.1 + linkDelay ≤ e.2)) &&
      d.sumBcs.length == (s.wholeRows ((s.phys p d.lq).getD 16 * 2 ^ 35 + d.off) d.words).length &&
      d.sumBcs.all (fun b => d.bcs.all (fun x => decide (x ≤ b))))

/-- WRITE: Vat to stack half, or to the Vat of another die. -/
def execWrite (p : Fin 16) (d : DmaSpec) (s : State) : Result :=
  s.dmaAct p (s.writeOk p d) (if d.hop.isSome then s.hopWork p d else s.writeWork p d)

/-! ### FILL_OPEN (R149, R151, R155) -/

/-- Plate bank cycles from the read of a word that goes up the link and down again to the earliest write of it (R11, R133;
DEDUCED, log 90). -/
abbrev fillDelay : Nat := readDelay + linkDelay

/-- The curds of a fill from a skim-W source, in the order of their first words. -/
def fillCurds (d : FillSpec) : List Nat := (d.moves.map (fun m => m.src / 128)).dedup

/-- The coded words of those curds with their plate bank cycles, by curd. -/
def fillCoded (d : FillSpec) (B : Nat) : List (Nat × List Nat) :=
  (numbered (fillCurds d)).map (fun e => (e.2, (d.coded.drop ((B + 1) * e.1)).take (B + 1)))

/-- The check rows of the words that a fill writes, in the order of their first words. -/
def State.fillRowsOf (s : State) (half : Nat) (d : FillSpec) : List (Nat × Nat × Nat) :=
  (d.moves.filterMap (fun m => s.rowOfWord (half * 2 ^ 35 + m.dst))).dedup

/-- The work of a FILL_OPEN. -/
def State.fillOpenWork (s : State) (p lq : Nat) (d : FillSpec) : List (Nat × Act) :=
  let half := (s.phys p lq).getD 16
  let b := half * 2 ^ 35 + d.base
  let bc (n : Nat) : Nat := pcOfBc (s.segBc p + n)
  let out (m : FillMove) : Put × Nat := (.opened (half * 2 ^ 35 + m.dst), bc m.wr)
  (match d.skim with
    | none => (numbered d.moves).map (fun e => (bc e.2.rd, .get (b + 32 * e.2.src) [out e.2] (errOf d.errs half half e.1)))
    | some B =>
      (numbered (List.zip ((fillCurds d).flatMap (curdWords b B)) d.coded)).map (fun e => (bc e.2.2, .coded e.2.1 (errOf d.errs half half e.1))) ++
      (fillCoded d B).map (fun e => (arrival (s.segBc p + e.2.foldl Nat.max 0) none, .curd b B e.1
        ((d.moves.filter (fun m => m.src / 128 == e.1)).map (fun m => (m.src % 128, out m)))))) ++
  (List.zip (s.fillRowsOf half d) d.sumBcs).map (fun e => (bc e.2, .sum half e.1.1 e.1.2.1 e.1.2.2))

/-- FILL_OPEN as a plate can hold it. -/
def State.fillOpenOk (s : State) (p lq : Nat) (d : FillSpec) : Bool :=
  let half := (s.phys p lq).getD 16
  let top (x : Nat) : Nat := match d.skim with
    | none => x + 1
    | some B => (B + 1) * (x / 128 + 1)
  (s.phys p lq).isSome && d.base % 32 == 0 && skimOk d.skim &&
  d.moves.all (fun m => stkRangeOk m.dst 1 && decide (d.base + 32 * top m.src ≤ 2 ^ 35)) &&
  (match d.skim with
    | none => d.coded.isEmpty && d.moves.all (fun m => decide (m.rd + fillDelay ≤ m.wr)) && linkRateOk (d.moves.map (·.rd))
    | some B => d.coded.length == (B + 1) * (fillCurds d).length && linkRateOk d.coded &&
        (fillCoded d B).all (fun e => (d.moves.filter (fun m => m.src / 128 == e.1)).all (fun m =>
          e.2.all (fun r => decide (r + fillDelay ≤ m.wr))))) &&
  linkRateOk (d.moves.map (·.wr)) && d.sumBcs.length == (s.fillRowsOf half d).length &&
  (List.zip (s.fillRowsOf half d) d.sumBcs).all (fun e => d.moves.all (fun m =>
    s.rowOfWord (half * 2 ^ 35 + m.dst) != some e.1 || decide (m.wr ≤ e.2)))

def execFillOpen (p : Fin 16) (lq : Fin 16) (base : Nat) (moves : List FillMove) (x : FillCycles) (s : State) : Result :=
  let d : FillSpec := ⟨x, base, moves⟩
  s.dmaAct p (s.fillOpenOk p lq d) (s.fillOpenWork p lq d)

/-! ### FEED, QUEUE, COLLECT -/

/-- The work of a FEED: words of the Vat or zero words; or the entry of the work list, then the query words it names. -/
def State.feedWork (s : State) (p lq : Nat) (w : FeedWords) (takes : List Nat) (errs : List LinkErr) : List (Nat × Act) :=
  let q := (s.phys p lq).getD 16
  match w with
  | .words l => (numbered (List.zip l takes)).map (fun e => (s.segPc p + e.2.2, .feed q (e.2.1.map (vatAt q)) (errOf errs q q e.1)))
  | .query entry desc head =>
    (s.segPc p + takes.headD 0, .takeIn (vatAt q (entry / 32 * 32))) ::
      (numbered takes.tail).map (fun e => (s.segPc p + e.2, .feedRow q (vatAt q entry) desc head e.1 (errOf errs q q e.1)))

/-- FEED as a plate can hold it: a slot for each word, for a word of a query in every bank that a row could give it
(R110). -/
def State.feedOk (s : State) (p lq : Nat) (w : FeedWords) (takes : List Nat) : Bool :=
  let q := (s.phys p lq).getD 16
  (s.phys p lq).isSome && linkRateOk (takes.map bcAt) &&
  (match w with
    | .words l => takes.length == l.length && (l.filterMap id).all (fun o => vatRangeOk o 1) &&
        s.slotsOk p lq 0x20 ((List.zip takes l).filterMap (fun e => e.2.map (fun o => (e.1, vatAt q o))))
    | .query entry desc head =>
      let t := s.plateDesc p desc
      t.rank == 3 && t.space == 0 && t.unit == lq && decide (head < t.ext 1) && entry % 16 == 0 && vatRangeOk (entry / 32 * 32) 1 &&
        takes.length == 1 + t.rowBytes / 32 && s.slotsOk p lq 0x20 [(takes.headD 0, vatAt q entry)] &&
        takes.tail.all (fun x => decide (takes.headD 0 < x)) &&
        (numbered takes.tail).all (fun e => (upto (t.ext 2)).all (fun r =>
          s.hasSlot p e.2 lq (s.tAddr p t (t.rowByte [head, r] + 32 * e.1)) 0x20)))

def execFeed (p : Fin 16) (lq : Fin 16) (words : FeedWords) (x : Transit) (s : State) : Result :=
  s.dmaAct p (s.feedOk p lq words x.takes) (s.feedWork p lq words x.takes x.errs)

/-- QUEUE: an entry of the work list for a pool. -/
def State.queueOk (s : State) (p pool take entry : Nat) : Bool :=
  match s.serving p with
  | none => false
  | some v =>
    match v.pools[pool]? with
    | none => false
    | some o => (s.phys p o.lq).isSome && entry % 16 == 0 && vatRangeOk (entry / 32 * 32) 1 &&
        s.slotsOk p o.lq 0x20 [(take, vatAt ((s.phys p o.lq).getD 16) entry)]

/-- The half of a pool. -/
def State.poolHalf (s : State) (p pool : Nat) : Nat :=
  (((s.serving p).bind (fun v => v.pools[pool]?)).bind (fun o => s.phys p o.lq)).getD 16

def execQueue (p : Fin 16) (pool take entry : Nat) (s : State) : Result :=
  let half := s.poolHalf p pool
  s.dmaAct p (s.queueOk p pool take entry) [(s.segPc p + take, .queue half pool (vatAt half entry))]

def execCollect (p : Fin 16) (lq : Fin 16) (words : Nat) (vat : Nat) (x : Transit) (s : State) : Result :=
  let q := (s.phys p lq).getD 16
  let dst := s.landAddrs p lq vat words
  s.dmaAct p ((s.phys p lq).isSome && vatRangeOk vat words && x.takes.length == words && s.slotsOk p lq 0x21 (List.zip x.takes dst) &&
      (List.zip x.takes (x.takes.drop 1)).all (fun e => decide (e.1 ≤ e.2)))
    ((numbered (List.zip dst x.takes)).map (fun e => (s.segPc p + e.2.2, .collect q e.2.1 (errOf x.errs q q e.1))))

/-- The work of an RSCHECK: the SUM_OUT words, the table words that cover them, the comparison when all have arrived. -/
def State.rsWork (s : State) (p lq sums nSums result nResult : Nat) (c : CheckCycles) : List (Nat × Act) :=
  let q := (s.phys p lq).getD 16
  let sw := s.landAddrs p lq sums nSums
  let rw_ := List.zip (s.landAddrs p lq result nResult) (c.result.map (s.segPc p + ·))
  let done := (c.table.map (fun b => arrival (s.segBc p + b) none) ++ c.sums.map (s.segPc p + · + 1)).foldl Nat.max 0
  (List.zip sw c.sums).map (fun e => (s.segPc p + e.2, .takeIn e.1)) ++
  (numbered c.table).map (fun e => (pcOfBc (s.segBc p + e.2), .table q sw e.1)) ++ [(done, .rsEnd q sw rw_)]

/-- RSCHECK as a plate can hold it: the sums are taken before the table is read, the result is marked after. -/
def State.rsOk (s : State) (p lq sums nSums result nResult : Nat) (c : CheckCycles) : Bool :=
  let done := (c.table.map (fun b => arrival (s.segBc p + b) none) ++ c.sums.map (s.segPc p + · + 1)).foldl Nat.max 0
  (s.phys p lq).isSome && vatRangeOk sums nSums && vatRangeOk result nResult && c.sums.length == nSums && c.result.length == nResult &&
  decide (1 ≤ nSums) && s.slotsOk p lq 0x20 (List.zip c.sums (s.landAddrs p lq sums nSums)) &&
  s.slotsOk p lq 0x21 (List.zip c.result (s.landAddrs p lq result nResult)) && linkRateOk c.table &&
  c.table.all (fun b => c.sums.all (fun t => decide (t < pcOfBc b))) && c.result.all (fun t => decide (done < s.segPc p + t))

def execRscheck (p : Fin 16) (lq : Fin 16) (sums nSums : Nat) (result : CheckResult) (cycles : CheckCycles) (s : State) : Result :=
  s.dmaAct p (s.rsOk p lq sums nSums result.off result.words cycles) (s.rsWork p lq sums nSums result.off result.words cycles)

/-! ### The append step (R175, R196, R209) -/

/-- A count table in the Vat after tokens are counted in it: the entries that differ are written. -/
def State.putCounts (s : State) (a : Nat) (old new : CountTab) (tokens : List Nat) : State :=
  let es := (tokens.map bucketOf).dedup.flatMap (fun b => (upto 16).filterMap (fun e =>
    if (old b)[e]? = (new b)[e]? then none else some (a + 128 * b + 8 * e, (new b).getD e (noToken, 0))))
  s.each es (fun s e =>
    let w := e.1 / 32 * 32
    let r := s.vatEcc w
    if vatPopulated w then
      s.vatPut w (BitVec.ofNat 256 (setBits r.data.toNat (8 * (e.1 % 32)) 64 (e.2.1 + e.2.2 * 2 ^ 32))) r.poison
    else s)

/-- The count updates of a row that appends (R209): a chunk's prompt tokens when count_prompt is set, then the sampled
token of a decode row or a final chunk. A token that finds its bucket full sets the overflow word (R210). -/
def State.appendCounts (s : State) (p : Nat) (v : ServingSpec) (e : StepRow) : State :=
  let r := s.reqs.get e.slot
  let a := s.areaAt p v.counts + countBytes * e.slot
  let chunk := if e.kind ≠ 0 ∧ rqCountPrompt r.rec_ then countedTokens r v.chunk else []
  let tok := if e.kind = 1 then [] else [((s.part p).committed.get e.slot).token]
  let old := countsAt s.vatSees a
  let c := countTokens old (chunk ++ tok)
  let s := s.putCounts a old c.1 (chunk ++ tok)
  let s := if c.2 ∧ vatPopulated (a + 16384) then s.vatPut (a + 16384) 1 false else s
  { s with reqs := s.reqs.upd e.slot (fun x =>
    { x with counted := if e.kind = 0 then x.counted else Nat.max x.counted (Nat.min x.prompt.length (x.len + v.chunk)) }) }

/-- Words that the append step writes into the stacks, in order: where, data and poison; a row sum where it has none. -/
abbrev AppendWord := (Put × W256 × Bool) ⊕ (Nat × Nat × Nat × Nat)

/-- The words of a page that has become full, with the sums of its rows (R149, R167, R175). -/
def State.pageWords (s : State) (p : Nat) (v : ServingSpec) (o : PoolSpec) (pg : Nat) (toks : List (List Nat × List Nat × Bool)) : List AppendWord :=
  match s.phys p o.lq with
  | none => []
  | some half =>
    let bad := toks.any (fun t => t.2.2)
    let rows := pageRows v (toks.map (fun (t : List Nat × List Nat × Bool) => (t.1, t.2.1)))
    let bank := (pagePlace v o pg).1
    (List.zip (rows.1 :: rows.2) (pageRowPlaces v o pg)).flatMap (fun e =>
      (e.1.mapIdx (fun i w => (Sum.inl (Put.opened (stkAddr half bank e.2.1 (e.2.2.1 * e.2.2.2 + i)), w, bad) : AppendWord))) ++
        [Sum.inr (half, bank, e.2.1, e.2.2.1)])

/-- The token record as a tail holds it, from the words that a row appends or from the stack. -/
def recordOf (v : ServingSpec) (ws : List (W256 × Bool)) : List Nat × List Nat × Bool :=
  let el (k : Nat) : Nat := bits (ws.getD (k / 16) (0, false)).1.toNat (16 * (k % 16)) 16
  ((upto v.headDim).map el, (upto v.headDim).map (fun c => el (v.headDim + c)), ws.any (·.2))

/-- What a position that enters the cache writes: its token record, and the page when it becomes full; `mine` holds the
records that the rows before it of the command append to the same tail. -/
def State.positionWords (s : State) (p : Nat) (v : ServingSpec) (slot n pg : Nat) (mine : List (Nat × List (List DWord))) (kv : List (List DWord)) : List AppendWord :=
  (numbered v.pools).flatMap (fun e =>
    let ws := ((kv.getD e.1 []).take (tokenBytes v.headDim / 32)).map (fun w => (w.data, w.poison))
    let a := s.tailAddr p v e.2 slot (n % 16)
    ws.mapIdx (fun i w => (Sum.inl (Put.stk (a + 32 * i) false, w.1, w.2) : AppendWord)) ++
    (if n % 16 = 15 then
      s.pageWords p v e.2 pg ((upto 16).map (fun t =>
        if t = 15 then recordOf v ws
        else match mine.find? (fun m => m.1 == n - 15 + t) with
          | some m => recordOf v (((m.2.getD e.1 []).take (tokenBytes v.headDim / 32)).map (fun w => (w.data, w.poison)))
          | none => s.getToken p v e.2 slot t))
    else []))

/-- Positions enter the cache one by one: the words to write, and the notices of the pages flushed (R175). -/
def State.appendTokens (s : State) (p : Nat) (v : ServingSpec) (rows : List AppendRow) : State × List AppendWord × List Notice :=
  let r := rows.foldl (fun (acc : State × List AppendWord × List Notice × List (Nat × Nat × List (List DWord))) a =>
    let s := acc.1
    let n := (s.reqs.get a.slot).len
    let pg := (s.reqs.get a.slot).pages.getD (n / 16) none
    let mine := acc.2.2.2.filterMap (fun m => if m.1 = a.slot then some m.2 else none)
    let ws := s.positionWords p v a.slot n (pg.getD 0) mine a.kv
    let ws := if pg.isSome then ws else ws.filter (fun w => match w with
      | .inl (.stk _ _, _, _) => true
      | _ => false)
    let s := { s with reqs := s.reqs.upd a.slot (fun x => { x with len := n + 1 }) }
    (s, acc.2.1 ++ ws, acc.2.2.1 ++ (if n % 16 = 15 then [⟨0x21, a.slot + n / 16 * 2 ^ 16, 0⟩] else []), acc.2.2.2 ++ [(a.slot, n, a.kv)]))
    (s, [], [], [])
  (r.1, r.2.1, r.2.2.1)

/-- Every row of the commit table comes with its keys and values, and every word written has a cycle. -/
def State.appendOk (s : State) (p : Nat) (rows : List AppendRow) (bcs : List Nat) : Bool :=
  match s.serving p with
  | none => rows.isEmpty && bcs.isEmpty
  | some v =>
    rows.all (fun a => (s.part p).appends.any (fun e => e.slot == a.slot) && a.kv.length == v.pools.length &&
      a.kv.all (fun l => l.length == tokenBytes v.headDim / 32)) &&
    (s.part p).appends.all (fun e => (rows.filter (fun a => a.slot == e.slot)).length == appendCount v (s.reqs.get e.slot) e) &&
    bcs.length == (s.appendTokens p v rows).2.1.length

/-- The work that words written at plate bank cycles make. -/
def State.appendWork (s : State) (p : Nat) (ws : List AppendWord) (bcs : List Nat) : List (Nat × Act) :=
  (List.zip ws bcs).map (fun e => (pcOfBc (s.segBc p + e.2), match e.1 with
    | .inl x => Act.put x.1 x.2.1 x.2.2
    | .inr x => Act.sum x.1 x.2.1 x.2.2.1 x.2.2.2))

def State.appendStep (s : State) (p : Nat) (rows : List AppendRow) (bcs : List Nat) : State :=
  match s.serving p with
  | none => s
  | some v =>
    let s := s.each (s.part p).appends (fun s e => s.appendCounts p v e)
    let r := s.appendTokens p v rows
    let s := r.1.plan p (s.appendWork p r.2.1 bcs)
    (s.each r.2.2 (fun s n => s.postNotice p n)).updPart p (fun x => { x with append := [] })

/-- APPEND_STEP (R175, R196): counts and positions; the words reach the stacks at their cycles. -/
def execAppendStep (p : Fin 16) (x : AppendSpec) (s : State) : Result :=
  if s.running p ∧ x.bcs.all (fun b => decide (s.plateT ≤ pcOfBc (s.segBc p + b))) then
    s.act (s.appendOk p x.rows x.bcs) (fun s => s.appendStep p x.rows x.bcs)
  else .next s

end Sys2Proof.Machine
end

