-- ==== Sys2Proof/Machine/Burin.lean ====
section
/-! DEFINITION. Kernel calls of the Burin cores, their code, their overruns, and their stores reaching the Vat (R125 to R128,
R131). -/

namespace Sys2Proof.Machine

open Sys2Proof

/-- The number of the physical core that a logical quarter and core name (R1, R83). -/
def State.coreOf (s : State) (p lq core : Nat) : Nat := 8 * (s.phys p lq).getD 16 + core

/-! ### What a core does at a plate cycle -/

/-- The core's Vat port takes a word of code; the last one replaces what stands at an offset (R127). -/
def State.patchStep (s : State) (b a : Nat) (code : Option (Nat × KBody)) : State :=
  let s := s.vatLog a false
  match code with
  | some e => { s with burin := s.burin.upd b (fun c => { c with code := c.code.set e.1 (some e.2) }) }
  | none => s

/-- A call at its first cycle: marks and registers cleared, and the kernel starts at its code offset (R127). -/
def State.callStep (s : State) (p b T offset : Nat) (descs : List (List W64)) (slots : List Nat) (reservation : Nat) : State :=
  let s := { s with burin := s.burin.upd b callStart }
  match (s.burin.get b).code.get offset with
  | none => s
  | some body =>
    let call : Call := { body := body, descs := descs, slots := slots, start := 2 * T, now := 2 * T, endT := 2 * (T + reservation) }
    let k : KState := ⟨{ s with burin := s.burin.upd b (fun c => { c with call := some call }) }, b, p, T⟩
    (match body with
      | .native _ => k.go
      | _ => k.libNext).s

/-- A core goes on. -/
def State.goStep (s : State) (p b T : Nat) : State := (KState.go ⟨s, b, p, T⟩).s

/-- The stores that a slot takes: the oldest, and the next one where it lies in another bank, those whose bank the slot is
given; a store waits for an earlier load of its word (R97, R117, R126, R128). -/
def State.storesNow (s : State) (p b T : Nat) : List Store :=
  let free (e : Store) : Bool := !(s.loading b).contains e.addr && s.coreSlot p b T e.addr
  match (s.burin.get b).stores with
  | x :: y :: _ => if !free x then [] else if vatBank x.addr = vatBank y.addr ∨ !free y then [x] else [x, y]
  | [x] => if free x then [x] else []
  | [] => []

/-- A slot takes stores, but for those in a bank that has met a conflict; a core that waits goes on in the next cycle. -/
def State.storeStep (s : State) (p b T : Nat) (blocked : List Nat) : State :=
  let now := s.storesNow p b T
  let s := s.each (now.filter (fun e => !blocked.contains (vatBank e.addr))) (fun s e => s.vatPut e.addr e.data e.poison)
  let s := { s with burin := s.burin.upd b (fun c => { c with stores := c.stores.drop now.length }) }
  if ((s.burin.get b).call).isSome then (KState.goAt ⟨s, b, p, T⟩ (T + 1)).s else s

/-- The end of a call's reservation: a core still running stops its partition with BURIN_OVERRUN; answers the hazards
(R127). -/
def State.callEndStep (s : State) (b T : Nat) : State × List Nat :=
  match (s.burin.get b).call with
  | some c => if c.endT = 2 * T then ({ s with burin := s.burin.upd b (fun c => { c with call := none }) }, [7]) else (s, [])
  | none => (s, [])

/-! ### Commands -/

/-- Bytes of a core's code area (R125). -/
abbrev codeBytes : Nat := 65536

/-- Code stands at an offset of a core's code area, or will once the code that is on its way is there. -/
def State.codeAt (s : State) (b offset : Nat) (patch : List CodePatch) : Bool :=
  ((s.burin.get b).code.get offset).isSome || patch.any (fun c => c.offset == offset) ||
  s.work.any (fun e => match e.act with
    | .patch b' _ (some c) => b' == b && c.1 == offset
    | _ => false)

/-- The words of code that a call's patches bring, with their cycles and what they complete. -/
def State.patchWords (s : State) (p lq : Nat) (c : CodePatch) : List (Nat × Nat × Option (Nat × KBody)) :=
  (numbered (List.zip c.takes c.words)).map (fun e =>
    (s.segPc p + e.2.1, vatAt ((s.phys p lq).getD 16) e.2.2, if e.1 + 1 = c.words.length then some (c.offset, c.body) else none))

/-- A call as a plate can hold it: its quarter bound, code at an offset of the code area, at most 16 descriptors, all in the
Vat, its slots ascending within the reservation, and its code brought before it in slots of the core's port (R97, R127). -/
def State.kernelOk (s : State) (p lq core start offset : Nat) (descs : List Nat) (reservation : Nat) (patch : List CodePatch)
    (slots : List Nat) : Bool :=
  let b := s.coreOf p lq core
  (s.phys p lq).isSome && decide (descs.length ≤ 16) && decide (1 ≤ reservation) && decide (offset < codeBytes) &&
  (match (s.part p).plate with
    | some pl => descs.all (fun i => pl.body.descs[i]?.any (fun w => (TDesc.ofWords w).space == 0))
    | none => false) &&
  s.codeAt b offset patch &&
  patch.all (fun c => decide (c.offset < codeBytes) && c.takes.length == c.words.length && !c.words.isEmpty &&
    c.words.all (fun o => vatRangeOk o 1) && c.takes.all (fun t => decide (t < start)) &&
    (List.zip c.takes (c.takes.drop 1)).all (fun e => decide (e.1 ≤ e.2)) &&
    s.slotsOk p lq (0x10 + core) ((List.zip c.takes c.words).map (fun e => (e.1, vatAt ((s.phys p lq).getD 16) e.2)))) &&
  slots.all (fun t => decide (start ≤ t) && decide (t < start + reservation)) &&
  (List.zip slots (slots.drop 1)).all (fun e => decide (e.1 < e.2))

/-- The work of a call. -/
def State.kernelWork (s : State) (p lq core start offset : Nat) (descs : List Nat) (reservation : Nat) (patch : List CodePatch)
    (slots : List Nat) : List (Nat × Act) :=
  let b := s.coreOf p lq core
  let T := s.segPc p + start
  let ds := descs.map (fun i => match (s.part p).plate with
    | some pl => pl.body.descs.getD i []
    | none => [])
  (patch.flatMap (s.patchWords p lq)).map (fun e => (e.1, Act.patch b e.2.1 e.2.2)) ++
    [(T, .call b offset ds (slots.map (s.segPc p + ·)) reservation), (T + reservation, .callEnd b)]

/-- KERNEL_CALL (R127). -/
def execKernelCall (p : Fin 16) (lq : Fin 16) (core : Fin 8) (offset : Nat) (descs : List Nat) (time : CallTime)
    (patch : List CodePatch) (slots : List Nat) (s : State) : Result :=
  s.dmaAct p (s.kernelOk p lq core time.start offset descs time.pcs patch slots)
    (s.kernelWork p lq core time.start offset descs time.pcs patch slots)

/-- BURIN_STORE_DRAIN (R126, R128): a plate slot of the core takes stores. -/
def execBurinStoreDrain (p : Fin 16) (lq : Fin 16) (core : Fin 8) (cycle : Nat) (s : State) : Result :=
  s.dmaAct p (s.phys p lq).isSome [(s.segPc p + cycle, .coreDrain (s.coreOf p lq core))]

end Sys2Proof.Machine
end

