-- ==== Sys2Proof/WellFormed.lean ====
section
/-! DEFINITION. Which commands the manual can produce: register accesses of the accepted sizes, Press descriptors and
churn commands of their row's kind, ring entries of their size. -/

namespace Sys2Proof

open Sys2Proof.Machine

/-- The shape of a command's operands (R5, R118, R140, R218, R291). What depends on the state is checked by the
meanings. -/
def Instr.wf : Instr → Bool
  | .registerWrite _ off size _ => regAccessOk off size
  | .statLoad _ d _ => pressKindIs 1 d && pressReserved d
  | .streamLoad _ d _ => pressKindIs 2 d && pressReserved d
  | .pass _ d => pressKindIs 3 d && pressReserved d
  | .drain _ d _ => pressKindIs 4 d && pressReserved d
  | .fill _ d _ => pressKindIs 5 d && pressReserved d
  | .xload _ d => churnCmdOk 1 d
  | .dot _ d => churnCmdOk 2 d
  | .accOut _ d => churnCmdOk 4 d
  | .sumOut _ d => churnCmdOk 5 d
  | .score _ d => churnCmdOk 8 d
  | .pmax _ d => churnCmdOk 9 d
  | .pexp _ d => churnCmdOk 10 d
  | .psum _ d => churnCmdOk 11 d
  | .wacc _ d => churnCmdOk 12 d
  | .ringTick reads _ => reads.all ringReadOk
  | .submit r => ringReadOk r
  | .cancel r => ringReadOk r
  | .dma r => ringReadOk r
  | .nop r => ringReadOk r
  | .codewordReceive _ w => codewordOk w
  | _ => true

end Sys2Proof
end

