-- ==== Sys2Proof/Machine/Churn.lean ====
section
/-! DEFINITION. The churn commands (R140 to R145). -/

namespace Sys2Proof.Machine

open Sys2Proof

/-- What a churn command finds: its fields, half, issue cycle. -/
structure ChurnCtx where
  c : ChurnCmd
  half : Nat
  t0 : Nat
  deriving Repr

/-- The context of a command that issues at plate bank cycle B. -/
def State.churnAtBc (s : State) (p : Nat) (d : Words4) (B : Nat) : ChurnCtx :=
  let c := ChurnCmd.ofWords d
  ⟨c, (s.phys p c.lq).getD 16, B⟩

/-- The plate bank cycle at which a command of the current segment issues (R140). -/
def State.churnIssue (s : State) (p : Nat) (d : Words4) : Nat :=
  let c := ChurnCmd.ofWords d
  s.segBc p + 29 * c.frame + c.bc

/-- The banks a command that does not stream goes to: its set, or when indirect the bank of its class's latest indirect
streaming command (log 39). -/
def State.churnSet (s : State) (x : ChurnCtx) : List Nat :=
  if x.c.indirect then [mget x.c.first (s.seqAt x.half).last x.c.first] else x.c.banks

/-- The command is remembered while its registers, lanes and banks are in use. -/
def State.addFlight (s : State) (x : ChurnCtx) (banks : List Nat) (reads : Nat) : State :=
  let uses := (churnUses x.c banks.length).map (fun u => (u.1, x.t0 + u.2))
  s.updSeq x.half (fun q => { q with flight := q.flight ++
    [⟨banks, x.t0, uses.foldl (fun m u => Nat.max m u.2) (x.t0 + reads), x.t0 + reads, uses⟩] })

/-- Run a function on every churn of a set. -/
def State.onChurns (s : State) (half : Nat) (banks : List Nat) (f : Nat → Churn → Churn) : State :=
  s.each banks (fun s b => s.updChurn half b (f b))

/-- A command without bank reads issues: the hazards of its registers, its place in flight, its action. -/
def State.plainChurn (s : State) (x : ChurnCtx) (f : State → List Nat → State) : State × List ChurnHaz :=
  let banks := s.churnSet x
  let haz := busyHaz x.half (s.seqAt x.half) banks (churnUses x.c banks.length) x.t0
  (f (s.addFlight x banks 0) banks, haz)

/-- Word i of an XLOAD (R141, R143): the next word of the broadcast path into a register of every churn of the set. -/
def State.xloadStep (s : State) (p : Nat) (d : Words4) (B i : Nat) : State × List ChurnHaz :=
  let x := s.churnAtBc p d (B - i)
  let r := if i = 0 then s.plainChurn x (fun s _ => s) else (s, [])
  let s := r.1
  let banks := s.churnSet x
  match (s.seqAt x.half).feed with
  | [] => (s, r.2 ++ [⟨x.half, 5, lowest banks⟩])
  | w :: rest =>
    if B < w.at_ then (s, r.2 ++ [⟨x.half, 5, lowest banks⟩])
    else
      let s := s.updSeq x.half (fun q => { q with feed := rest })
      let s := s.onChurns x.half banks (fun _ ch => { ch with
        v := (upto 16).foldl (fun (m : NMap (W16 × Bool)) n =>
          mset (0, false) m (16 * (x.c.reg + i) + n) (BitVec.ofNat 16 (bits w.data.toNat (16 * n) 16), w.poison)) ch.v
        par := ch.par.filter (fun k => k % 2 != 0 || k / 32 != x.c.reg + i) })
      (if i + 1 < x.c.count then s.plan p [(pcOfBc (B + 1), .xload d (i + 1))] else s, r.2)

/-- One accumulator of a churn as two words (R141, R143). -/
def accWords (ch : Churn) (j : Nat) : List (W256 × Bool) :=
  (upto 2).map (fun h =>
    ((upto 8).foldl (fun (acc : W256 × Bool) i =>
      let l := churnLane ch (16 * j + 8 * h + i)
      (acc.1 ||| BitVec.ofNat 256 (l.1.toNat * 2 ^ (32 * i)), acc.2 || l.2)) (0, false)))

/-- Words go up the link, each with the check rows its sum covers: 256 leave every 5 cycles, and a word arrives 24 bc
after it leaves (R141). -/
def State.sendUp (s : State) (half t0 : Nat) (ws : List ((W256 × Bool) × List (Nat × Nat))) : State :=
  s.updSeq half (fun q => { q with up := q.up ++ ws.mapIdx (fun i w =>
    (⟨w.1.1, w.1.2, t0 + 5 * (i / 256 + 1) + linkDelay, w.2⟩ : LWord)) })

/-- ACC_OUT. -/
def State.churnAccOut (s : State) (p : Nat) (x : ChurnCtx) : State × List ChurnHaz :=
  s.plainChurn x (fun s banks =>
    let s := s.each banks (fun s b => s.churnParity p x.half x.c b)
    s.sendUp x.half x.t0 ((banks.flatMap (fun b =>
      (upto x.c.count).flatMap (fun i => accWords (s.churnAt x.half b) (x.c.acc + i)))).map (fun w => (w, []))))

/-- SUM_OUT (R141, R150). -/
def State.churnSumOut (s : State) (x : ChurnCtx) : State × List ChurnHaz :=
  s.plainChurn x (fun s banks =>
    let s' := s.sendUp x.half x.t0 (banks.map (fun b =>
      ((BitVec.ofNat 256 ((s.churnAt x.half b).cs + b * 2 ^ 32), false), (s.churnAt x.half b).rows)))
    s'.onChurns x.half banks (fun _ ch => { ch with cs := 0, rows := [] }))

/-- PMAX, PEXP, PSUM: lanes of each churn of the set. -/
def State.churnLanes (s : State) (p : Nat) (x : ChurnCtx) (f : ChurnCmd → Churn → Churn) : State × List ChurnHaz :=
  s.plainChurn x (fun s banks => (s.each banks (fun s b => s.churnParity p x.half x.c b)).onChurns x.half banks (fun _ ch => f x.c ch))

/-- A command that streams nothing, by opcode. -/
def State.churnPlain (s : State) (p : Nat) (x : ChurnCtx) : State × List ChurnHaz :=
  match x.c.op with
  | 4 => s.churnAccOut p x
  | 5 => s.churnSumOut x
  | 9 => s.churnLanes p x pmaxOf
  | 10 => s.churnLanes p x pexpOf
  | 11 => s.churnLanes p x psumOf
  | _ => (s, [])

/-- Check row k of a streaming command through one churn, with CS. -/
def State.streamRow (s : State) (p : Nat) (x : ChurnCtx) (bank k : Nat) (r : Nat × Nat) : State :=
  let ws := s.rowData x.half bank r.1 r.2 x.c.rowLen
  (s.churnParity p x.half x.c bank).updChurn x.half bank (fun ch =>
    let ch := match x.c.op with
      | 2 => dotTile x.c ch k ws
      | 8 => scoreRow x.c ch ws
      | _ => waccRow x.c ch ws
    addRow ch r.1 r.2 ws)

/-- Check rows a streaming command reads. -/
def streamRows (c : ChurnCmd) : Nat := if c.op = 2 then c.count else 1

/-- The banks of a set whose pail does not let the command stream its row (R145). -/
def State.notOpen (s : State) (x : ChurnCtx) (banks : List Nat) (r : Nat × Nat) : List Nat :=
  banks.filter (fun b => !s.openRow x.half b r.1 x.c.rowLen || decide (512 / Nat.max 1 x.c.rowLen ≤ r.2) || decide (4096 ≤ r.1))

/-- The row after row k, at its cycle (R141). -/
def State.nextRow (s : State) (p : Nat) (d : Words4) (x : ChurnCtx) (k : Nat) (place : Option (Nat × Nat × Nat)) : State :=
  if k + 1 < streamRows x.c then s.plan p [(pcOfBc (x.t0 + (k + 1) * x.c.rowLen), .stream d (k + 1) place)] else s

/-- Row k of a direct streaming command (R141, R145). -/
def State.streamDirect (s : State) (p : Nat) (d : Words4) (x : ChurnCtx) (k : Nat) : State × List ChurnHaz :=
  let banks := x.c.banks
  let busy := if k = 0 then busyHaz x.half (s.seqAt x.half) banks (churnUses x.c banks.length) x.t0 else []
  let r := churnRow x.c.rowLen x.c.pail x.c.row k
  let bad := s.notOpen x banks r
  let s := if k = 0 then s.addFlight x banks (streamRows x.c * x.c.rowLen) else s
  let s := s.each (banks.filter (fun b => !bad.contains b)) (fun s b => s.streamRow p x b k r)
  (s.nextRow p d x k none, busy ++ bad.map (fun b => ⟨x.half, 1, b⟩))

/-- What an entry of the page-address queue names, when the command may run on it (R144). -/
def State.entryPlace (s : State) (x : ChurnCtx) (e : QEntry) : Option (Nat × Nat × Nat) :=
  match e.place with
  | some (b, pail, row) =>
    if ¬ e.poison ∧ b < 512 ∧ b % 256 = x.c.first ∧
        (upto (streamRows x.c)).all (fun k =>
          let r := churnRow x.c.rowLen pail row k
          s.openRow x.half b r.1 x.c.rowLen && decide (r.2 < 512 / Nat.max 1 x.c.rowLen)) then some (b, pail, row) else none
  | none => none

/-- The index fault of an entry, logged once per step (R144). -/
def State.entryFault (s : State) (p half bank : Nat) : State :=
  if (s.part p).indexLogged then s
  else (s.updPart p (fun x => { x with indexLogged := true })).logEvent 0x0504 (some p) false (.stack (stkAddr half bank 0 0)) 0

/-- An indirect streaming command takes the next entry and runs on it, or writes its result lanes (R144, R145). -/
def State.streamIndirect (s : State) (p : Nat) (d : Words4) (x : ChurnCtx) : State × List ChurnHaz :=
  match (s.seqAt x.half).queue with
  | [] => (s, [⟨x.half, 5, x.c.first⟩])
  | e :: rest =>
    if x.t0 < e.at_ then (s, [⟨x.half, 5, x.c.first⟩])
    else
      let place := s.entryPlace x e
      let bank := match place with
        | some pl => pl.1
        | none => x.c.first
      let busy := busyHaz x.half (s.seqAt x.half) [bank] (churnUses x.c 1) x.t0
      let s := s.updSeq x.half (fun q => { q with queue := rest, last := mset x.c.first q.last x.c.first bank })
      match place with
      | some (b, pail, row) =>
        (((s.addFlight x [b] (streamRows x.c * x.c.rowLen)).streamRow p x b 0 (churnRow x.c.rowLen pail row 0)).nextRow p d x 0 place, busy)
      | none =>
        let bad := e.poison || e.place.isSome
        let s := (s.updChurn x.half bank (fun ch => nullResult x.c ch bad)).addFlight x [bank] 0
        (if bad then s.entryFault p x.half bank else s, busy)

/-- Check row k of a streaming command in plate bank cycle B (R141). -/
def State.streamStep (s : State) (p : Nat) (d : Words4) (B k : Nat) (place : Option (Nat × Nat × Nat)) : State × List ChurnHaz :=
  let x := s.churnAtBc p d (B - k * (ChurnCmd.ofWords d).rowLen)
  if x.c.indirect then
    (if k = 0 then s.streamIndirect p d x
    else match place with
      | some (b, pail, row) => ((s.streamRow p x b k (churnRow x.c.rowLen pail row k)).nextRow p d x k place, [])
      | none => (s, []))
  else s.streamDirect p d x k

/-- The work that a churn command enters. -/
def churnWork (d : Words4) : Act :=
  match (ChurnCmd.ofWords d).op with
  | 1 => .xload d 0
  | 2 => .stream d 0 none
  | 8 => .stream d 0 none
  | 12 => .stream d 0 none
  | _ => .churn d

/-- A churn command acts when its partition's plate runs, its cycle has not passed (log 29) and its quarter is bound. -/
def State.churnAct (s : State) (p : Nat) (d : Words4) : Result :=
  let t := pcOfBc (s.churnIssue p d)
  if s.running p ∧ s.plateT ≤ t then
    s.act ((s.phys p (ChurnCmd.ofWords d).lq).isSome) (fun s => s.plan p [(t, churnWork d)])
  else .next s

/-! ### Meanings: a churn command enters the work of its half -/

/-- XLOAD (R141). -/
def execXload (p : Fin 16) (d : Words4) (s : State) : Result :=
  if Instr.wf (.xload p d) then s.churnAct p d else .fault .illFormed

/-- DOT (R141, R142). -/
def execDot (p : Fin 16) (d : Words4) (s : State) : Result :=
  if Instr.wf (.dot p d) then s.churnAct p d else .fault .illFormed

/-- ACC_OUT (R141). -/
def execAccOut (p : Fin 16) (d : Words4) (s : State) : Result :=
  if Instr.wf (.accOut p d) then s.churnAct p d else .fault .illFormed

/-- SUM_OUT (R141). -/
def execSumOut (p : Fin 16) (d : Words4) (s : State) : Result :=
  if Instr.wf (.sumOut p d) then s.churnAct p d else .fault .illFormed

/-- SCORE (R141). -/
def execScore (p : Fin 16) (d : Words4) (s : State) : Result :=
  if Instr.wf (.score p d) then s.churnAct p d else .fault .illFormed

/-- PMAX (R141). -/
def execPmax (p : Fin 16) (d : Words4) (s : State) : Result :=
  if Instr.wf (.pmax p d) then s.churnAct p d else .fault .illFormed

/-- PEXP (R141). -/
def execPexp (p : Fin 16) (d : Words4) (s : State) : Result :=
  if Instr.wf (.pexp p d) then s.churnAct p d else .fault .illFormed

/-- PSUM (R141). -/
def execPsum (p : Fin 16) (d : Words4) (s : State) : Result :=
  if Instr.wf (.psum p d) then s.churnAct p d else .fault .illFormed

/-- WACC (R141). -/
def execWacc (p : Fin 16) (d : Words4) (s : State) : Result :=
  if Instr.wf (.wacc p d) then s.churnAct p d else .fault .illFormed

end Sys2Proof.Machine
end

