-- ==== Sys2Proof/Machine/Press.lean ====
section
/-! DEFINITION. The Press engines: loads, passes, drains, fills, their hazards and poison (R114 to R124). -/

namespace Sys2Proof.Machine

open Sys2Proof

/-- What a Press command finds: its fields, its tensor, the physical quarter and engine, the run-frame plate cycle of
its issue and of its segment's start. -/
structure PressCtx where
  d : PressDesc
  t : TDesc
  q : Nat
  eng : Nat
  t0 : Nat
  base : Nat
  deriving Repr

/-- The context of a Press command that issues in the current segment (R83, R118); the engine's number is its unit code
(R131). -/
def State.pressCtx (s : State) (p : Nat) (w : Words4) : PressCtx :=
  let d := PressDesc.ofWords w
  let q := (s.phys p d.lq).getD 16
  ⟨d, s.plateDesc p d.desc, q, 4 * q + d.engine, s.segPc p + d.frame * 64 + d.pc, s.segPc p⟩

/-- The command is one of the plate's stream (R118), its quarter is bound, and its tensor lies in the Vat. DESIGN CHOICE
(log 86): no case of R120 refuses a descriptor that names a tensor in stack memory, and no port of a Press engine reaches
it, so that such a plate loads and its command stops with illFormed. -/
def State.pressOk (s : State) (p : Nat) (w : Words4) : Bool :=
  let c := s.pressCtx p w
  ((s.part p).plate.any (fun i => i.body.press.contains w)) && pressDescOk w c.t && (c.d.kind == 3 || c.t.space == 0) &&
    (s.phys p c.d.lq).isSome

/-- The engine changed by a function. -/
def State.updPress (s : State) (e : Nat) (f : PressEng → PressEng) : State := { s with press := s.press.upd e f }

/-! ### Loads (R119, R122) -/

/-- The words of a load: of each of `n` rows or columns the elements and scales in reach, in ascending address order,
each once. -/
def loadWords (t : TDesc) (o0 o1 n depth : Nat) : List Nat :=
  let all := (upto n).flatMap (fun c =>
    if o1 + c < t.ext 1 then
      let m := Nat.min depth (t.ext 0 - o0)
      rowWordsOf t [o1 + c] o0 m ++ scaleWordsOf t [o1 + c] o0 m
    else [])
  (sortBy (fun (a b : Nat) => decide (a < b)) all).dedup

/-- The contents of one row or column: codes, scales and marks by position (R119, R124). -/
def loadRow (look : Nat → W256 × Bool) (t : TDesc) (o0 row depth at_ sAt : Nat) (sl : Slot) : Slot :=
  if t.ext 1 ≤ row then sl
  else
    let m := Nat.min depth (t.ext 0 - o0)
    let sl := (upto m).foldl (fun (sl : Slot) k =>
      let e := elemAt look t [row] (o0 + k)
      { sl with elems := sl.elems.set (at_ + k) e.1, marks := sl.marks.set (at_ + k) e.2 }) sl
    if t.mx then
      (upto (ceilDiv m 32)).foldl (fun (sl : Slot) b =>
        let e := scaleAt look t [row] (o0 + 32 * b)
        { sl with scales := sl.scales.set (sAt + b) e.1, smarks := sl.smarks.set (sAt + b) e.2 }) sl
    else sl

/-- Hazards that an engine finds in a plate cycle, by cause (R123); no cause, no hazard. -/
abbrev PressHaz := List Nat

/-- Positions that a load of a row or column takes from its tensor. -/
def loadLen (t : TDesc) (o0 depth : Nat) : Nat := Nat.min depth (t.ext 0 - o0)

/-- What a STAT_LOAD puts into its tile slot once its last word, taken at `last`, is there. -/
def tileSlot (look : Nat → W256 × Bool) (c : PressCtx) (last : Nat) : Slot :=
  (upto c.d.ncols).foldl (fun sl k => loadRow look c.t c.d.o0 (c.d.o1 + k) (classDepth c.d.cls) (512 * k) (16 * k) sl)
    { fmt := c.t.fmt, cls := c.d.cls, usable := last + 4 }

/-- What a STREAM_LOAD puts into the slot of its row r. -/
def rowSlotOf (look : Nat → W256 × Bool) (c : PressCtx) (r last : Nat) : Slot :=
  loadRow look c.t c.d.o0 (c.d.o1 + r) (classDepth c.d.cls) 0 0 { fmt := c.t.fmt, cls := c.d.cls, usable := last + 4 }

/-- The words that row r of a STREAM_LOAD needs. -/
def rowNeeds (c : PressCtx) (r : Nat) : List Nat :=
  if c.t.ext 1 ≤ c.d.o1 + r then []
  else
    let m := loadLen c.t c.d.o0 (classDepth c.d.cls)
    rowWordsOf c.t [c.d.o1 + r] c.d.o0 m ++ scaleWordsOf c.t [c.d.o1 + r] c.d.o0 m

/-- The words of a load. -/
def PressCtx.words (c : PressCtx) : List Nat :=
  loadWords c.t c.d.o0 c.d.o1 (if c.d.kind = 1 then c.d.ncols else c.d.rows) (classDepth c.d.cls)

/-- The Vat port of a Press command (R97). -/
def PressCtx.port (c : PressCtx) : Nat :=
  match c.d.kind with
  | 1 => c.d.engine
  | 2 => 4 + c.d.engine
  | _ => 8 + c.d.engine

/-- The rows of a STREAM_LOAD whose words are all in `have_`, and some of them new. -/
def rowsReady (c : PressCtx) (new have_ : List Nat) : List Nat :=
  (upto c.d.rows).filter (fun r => let n := rowNeeds c r; n.any new.contains && n.all have_.contains)

/-- A pass in flight still reads a tile slot at cycle T (R121, R123). -/
def tileBusy (e : PressEng) (slot T : Nat) : Bool :=
  e.passes.any (fun f => f.slot == slot && decide (f.t0 ≤ T) && decide (T ≤ f.t0 + f.rows + 11))

/-- A pass in flight has not yet taken a row slot at cycle T. -/
def rowBusy (e : PressEng) (slot T : Nat) : Bool :=
  e.passes.any (fun f => decide (f.rowSlot ≤ slot) && decide (slot < f.rowSlot + f.rows) && decide (f.t0 ≤ T) &&
    decide (T ≤ f.t0 + (slot - f.rowSlot)))

/-- The slots of a load become usable with its last words (R119, R122): a tile with all of them, a row with its own; the
rows and columns outside the tensor, which need none, with the load's first step. -/
def State.loadSlots (s : State) (c : PressCtx) (T : Nat) (got : Words) (new : List Nat) (first done : Bool) : State :=
  let look (o : Nat) : W256 × Bool := got.word (0, true) o
  if c.d.kind = 1 then
    (if done then s.updPress c.eng (fun e => { e with tiles := e.tiles.set c.d.slot (tileSlot look c T) })
     else s.updPress c.eng (fun e => { e with tiles := e.tiles.upd c.d.slot (fun sl => { sl with usable := T + 2 ^ 64 }) }))
  else
    let ready := rowsReady c new (got.map (·.1)) ++ (if first then (upto c.d.rows).filter (fun r => (rowNeeds c r).isEmpty) else [])
    let wait := (upto c.d.rows).filter (fun r => first && !ready.contains r)
    s.updPress c.eng (fun e =>
      let held := wait.foldl (fun (m : NMap Slot) r => m.upd (c.d.rowSlot + r) (fun sl => { sl with usable := T + 2 ^ 64 })) e.rows
      { e with rows := ready.foldl (fun (m : NMap Slot) r => NMap.set m (c.d.rowSlot + r) (rowSlotOf look c r T)) held })

/-- A load at cycle T: the words of this cycle are taken, but for those in a bank that has met a conflict; answers the
words taken by offset and the hazards. -/
def State.loadStep (s : State) (p : Nat) (w : Words4) (T : Nat) (rest : List (Nat × Nat)) (got : Words)
    (blocked : List Nat) : State × PressHaz :=
  let c := s.pressCtx p w
  let now := (rest.filter (fun x => x.2 == T)).map (·.1)
  let later := rest.filter (fun x => x.2 != T)
  let e := s.press.get c.eng
  let slots := (upto c.d.rows).filter (fun r => (rowNeeds c r).any now.contains)
  let haz := if c.d.kind = 1 then (if tileBusy e c.d.slot T then [2] else [])
    else (if slots.any (fun r => rowBusy e (c.d.rowSlot + r) T) then [4] else [])
  let take := now.filter (fun o => !blocked.contains (vatBank (s.tAddr p c.t o)))
  let look := s.look p c.t
  let got' := take.foldl (fun (m : Words) o => m.put o (look o)) got
  let s := s.each take (fun s o => s.vatLog (s.tAddr p c.t o) false)
  let s := s.loadSlots c T got' now (rest.length == c.words.length) later.isEmpty
  (match later with
    | [] => s
    | x :: _ => s.plan p [(later.foldl (fun m y => Nat.min m y.2) x.2, .load w later got')], haz)

/-! ### Passes (R115, R121, R124) -/

/-- The value at a position of a slot: element `k`, its scale at `sc`. -/
def slotVal (sl : Slot) (k sc : Nat) : FVal := codeVal sl.fmt (sl.scales.get sc) (sl.elems.get k)

/-- A position of a slot is marked, by its element's word or its block's scale. -/
def slotMark (sl : Slot) (k sc : Nat) : Bool := sl.marks.get k || (fmtMx sl.fmt && sl.smarks.get sc)

/-- The block sums of a stream row and tile column over the first `n` positions, in ascending K (R40, R115). -/
def passSums (tile row : Slot) (col n : Nat) : List W32 :=
  (upto (ceilDiv n 32)).map (fun b =>
    blockSum ((upto (Nat.min 32 (n - 32 * b))).map (fun i =>
      let k := 32 * b + i
      mulVal (slotVal tile (512 * col + k) (16 * col + b)) (slotVal row k b))))

/-- FIRST writes the first block sum and adds the rest; CONTINUE adds every sum to the held value (R115). -/
def passChain (cont : Bool) (held : W32) (sums : List W32) : W32 :=
  match cont, sums with
  | true, l => l.foldl fadd held
  | false, [] => held
  | false, x :: l => l.foldl fadd x

/-- The accumulator element of row and column after a pass (R115, R124). -/
def passElem (tile row : Slot) (col n : Nat) (cont : Bool) (held : W32 × Bool) : W32 × Bool :=
  let mark := (upto n).any (fun k => slotMark tile (512 * col + k) (16 * col + k / 32) || slotMark row k (k / 32))
  (passChain cont held.1 (passSums tile row col n), mark || (cont && held.2))

/-- The hazards that row i of a pass meets as it enters, row 0 also those of the issue (R121, R123); `t0` is the cycle of
issue, and `unfilled` tells that a fill issued earlier has still to take the row. A pass adds to its row from 13 cycles
after the row has entered. -/
def passHazards (e : PressEng) (c : PressCtx) (t0 i : Nat) (unfilled : Bool) : PressHaz :=
  (if i = 0 ∧ t0 < (e.tiles.get c.d.slot).usable then [1] else []) ++
  (if t0 + i < (e.rows.get (c.d.rowSlot + i)).usable then [3] else []) ++
  (if i = 0 ∧ e.passes.any (fun f => decide (f.t0 ≤ t0) && decide (t0 < f.t0 + f.rows)) then [5] else []) ++
  (if t0 + i + 13 < e.fills.get (c.d.acc + i) ∨ unfilled then [6] else [])

/-- A fill issued by cycle t0 has still to take an accumulator row of an engine. -/
def State.unfilled (s : State) (p eng t0 row : Nat) : Bool :=
  s.work.any (fun e => e.p == p && (match e.act with
    | .fill w i0 r ts => decide (i0 ≤ t0) && (s.pressCtx p w).eng == eng &&
      ((e.t :: ts).mapIdx (fun j _ => (s.pressCtx p w).d.acc + r + j)).contains row
    | _ => false))

/-- The accumulator after row i of a pass (R115, R124). -/
def passRowAcc (e : PressEng) (c : PressCtx) (i : Nat) : NMap (W32 × Bool) :=
  let tile := e.tiles.get c.d.slot
  let row := e.rows.get (c.d.rowSlot + i)
  let n := Nat.min c.d.kLen (classDepth tile.cls)
  (upto 512).foldl (fun (m : NMap (W32 × Bool)) j =>
    let a := 512 * (c.d.acc + i) + j
    mset (0, false) m a (passElem tile row j n c.d.cont (mget (0, false) m a))) e.acc

/-- The parity of elements of an accumulator row that are read is checked (R306; log 98). -/
def State.pressParity (s : State) (p eng row n : Nat) : State :=
  let hit := (s.press.get eng).par.filter (fun k => k / 512 == row && decide (k % 512 < n))
  if hit.isEmpty then s
  else (s.updPress eng (fun e => hit.foldl (fun (e : PressEng) k =>
    { e with acc := mset (0, false) e.acc k ((mget (0, false) e.acc k).1, true) })
    { e with par := e.par.filter (fun k => !hit.contains k) })).parityLog p (.unit eng) hit

/-- The parity of an accumulator row that is written holds. -/
def PressEng.parityRow (e : PressEng) (row : Nat) : PressEng := { e with par := e.par.filter (fun k => k / 512 != row) }

/-- Row i of a pass at cycle T: its sums enter its accumulator row, which holds its new value 40 cycles later; until then
the row's write is pending. The next row follows in the next cycle. -/
def State.passStep (s : State) (p : Nat) (w : Words4) (T i : Nat) : State × PressHaz :=
  let c := s.pressCtx p w
  let e := s.press.get c.eng
  let t0 := T - i
  let haz := passHazards e c t0 i (s.unfilled p c.eng t0 (c.d.acc + i))
  let s := if c.d.cont then s.pressParity p c.eng (c.d.acc + i) 512 else s
  let s := s.updPress c.eng (fun e =>
    { e.parityRow (c.d.acc + i) with
      acc := passRowAcc e c i
      passes := if i = 0 then e.passes ++ [⟨t0, c.d.rows, c.d.slot, c.d.rowSlot, c.d.acc⟩] else e.passes })
  (if i + 1 < c.d.rows then s.plan p [(T + 1, .pass w (i + 1))] else s, haz)

/-! ### Drains and fills (R119, R122, R124) -/

/-- The accumulator element at a row and column. -/
def PressEng.at_ (e : PressEng) (r c : Nat) : W32 × Bool := mget (0, false) e.acc (512 * r + c)

/-- An accumulator row's write by a pass in flight is pending at cycle T: its stream row has entered and its sums have not
landed (R121, R123; log 87). -/
def accPending (e : PressEng) (row T : Nat) : Bool :=
  e.passes.any (fun f => decide (f.acc ≤ row) && decide (row < f.acc + f.rows) && decide (f.t0 + (row - f.acc) ≤ T) &&
    decide (T < f.t0 + (row - f.acc) + 40))

/-- The words that a drain of one row writes, where the row lies in the tensor. -/
def drainRow (look : Nat → W256 × Bool) (t : TDesc) (o0 row : Nat) (xs : List (W32 × Bool)) : List (Nat × W256 × Bool) :=
  if t.ext 1 ≤ row then [] else rowOut look t [row] o0 xs

/-- The accumulator row that a drain takes for its row r. -/
def drainTake (e : PressEng) (c : PressCtx) (r : Nat) : List (W32 × Bool) :=
  (upto c.d.ncols).map (fun j => e.at_ (c.d.acc + r) j)

/-- The words that a drain writes for its row r. A drain writes through a read-only descriptor nothing: no unit writes
through one (R101); DESIGN CHOICE (log 100). -/
def State.drainWrites (s : State) (p : Nat) (c : PressCtx) (r : Nat) : List (Nat × W256 × Bool) :=
  if c.t.ro then [] else drainRow (s.look p c.t) c.t c.d.o0 (c.d.o1 + r) (drainTake (s.press.get c.eng) c r)

/-- Row r of a drain at its cycle (R119, R122, R124). -/
def State.drainStep (s : State) (p : Nat) (w : Words4) (T r : Nat) (ts blocked : List Nat) : State × PressHaz :=
  let c := s.pressCtx p w
  let s := s.pressParity p c.eng (c.d.acc + r) c.d.ncols
  let e := s.press.get c.eng
  let haz := if accPending e (c.d.acc + r) T then [6] else []
  let ws := (s.drainWrites p c r).filter (fun x => !blocked.contains (vatBank (s.tAddr p c.t x.1)))
  let bad := (drainTake e c r).any (·.2)
  let s := s.each ws (fun s x => s.vatPut (s.tAddr p c.t x.1) x.2.1 x.2.2)
  let s := if bad then s.inc PRESS_POISON_DRAINS_count 0 1 else s
  (match ts with
    | t :: _ => s.plan p [(t, .drain w (r + 1) ts.tail)]
    | [] => s, haz)

/-- The words that a fill reads for its row r. -/
def fillReads (c : PressCtx) (r : Nat) : List Nat :=
  if c.d.o1 + r < c.t.ext 1 then rowWordsOf c.t [c.d.o1 + r] c.d.o0 (Nat.min c.d.ncols (c.t.ext 0 - c.d.o0)) else []

/-- What a fill puts at row r and column j: the tensor's element as FP32, zero outside it. -/
def State.fillVal (s : State) (p : Nat) (c : PressCtx) (r j : Nat) : W32 × Bool :=
  if j < c.d.ncols ∧ c.d.o1 + r < c.t.ext 1 ∧ c.d.o0 + j < c.t.ext 0 then elemF32 (s.look p c.t) c.t [c.d.o1 + r] (c.d.o0 + j)
  else (0, false)

/-- Row r of a fill at its cycle: the row holds the values 4 cycles later (R119, R122). -/
def State.fillStep (s : State) (p : Nat) (w : Words4) (t0 T r : Nat) (ts blocked : List Nat) : State × PressHaz :=
  let c := s.pressCtx p w
  let haz := if accPending (s.press.get c.eng) (c.d.acc + r) (T + 4) then [6] else []
  let clash := (fillReads c r).any (fun o => blocked.contains (vatBank (s.tAddr p c.t o)))
  let s1 := if clash then s else
    (s.each (fillReads c r) (fun s o => s.vatLog (s.tAddr p c.t o) false)).updPress c.eng (fun e =>
      { e.parityRow (c.d.acc + r) with
        acc := (upto 512).foldl (fun (m : NMap (W32 × Bool)) j => mset (0, false) m (512 * (c.d.acc + r) + j) (s.fillVal p c r j)) e.acc
        fills := NMap.set e.fills (c.d.acc + r) (T + 4) })
  (match ts with
    | t :: _ => s1.plan p [(t, .fill w t0 (r + 1) ts.tail)]
    | [] => s1, haz)

/-! ### Meanings: a Press command enters the work of its engine -/

/-- The words that a command moves at each of its cycles, as cycle and physical address. -/
def State.pressMoves (s : State) (p : Nat) (c : PressCtx) (takes : List Nat) : List (Nat × Nat) :=
  match c.d.kind with
  | 1 => (List.zip takes c.words).map (fun e => (e.1, s.tAddr p c.t e.2))
  | 2 => (List.zip takes c.words).map (fun e => (e.1, s.tAddr p c.t e.2))
  | 4 => (takes.mapIdx (fun r t => (r, t))).flatMap (fun e => (s.drainWrites p c e.1).map (fun w => (e.2, s.tAddr p c.t w.1)))
  | 5 => (takes.mapIdx (fun r t => (r, t))).flatMap (fun e => (fillReads c e.1).map (fun o => (e.2, s.tAddr p c.t o)))
  | _ => []

/-- Another command of the partition moves words on the same accumulator port in the other direction at one of these
cycles (R117). -/
def State.otherWay (s : State) (p : Nat) (c : PressCtx) (takes : List Nat) : Bool :=
  s.work.any (fun e => e.p == p && (match e.act with
    | .drain w _ ts => c.d.kind == 5 && (s.pressCtx p w).eng == c.eng && (e.t :: ts).any (fun t => takes.any (fun x => c.base + x == t))
    | .fill w _ _ ts => c.d.kind == 4 && (s.pressCtx p w).eng == c.eng && (e.t :: ts).any (fun t => takes.any (fun x => c.base + x == t))
    | _ => false))

/-- The cycles of a command: one for each word of a load or row of a drain or fill, ascending, not before its issue, each
with a slot of its port for every word it moves then, and within the port's width and direction (R97, R117, R122). -/
def State.takesOk (s : State) (p : Nat) (c : PressCtx) (takes : List Nat) : Bool :=
  let moves := s.pressMoves p c takes
  takes.length == (match c.d.kind with
    | 3 => 0
    | 4 => c.d.rows
    | 5 => c.d.rows
    | _ => c.words.length) &&
  (List.zip takes (takes.drop 1)).all (fun e => if c.d.kind = 1 ∨ c.d.kind = 2 then decide (e.1 ≤ e.2) else decide (e.1 < e.2)) &&
  takes.all (fun t => decide (c.t0 ≤ c.base + t)) &&
  moves.all (fun m => s.hasSlot p m.1 c.d.lq m.2 c.port) && widthOk c.port moves && !s.otherWay p c takes

/-- The work that a Press command enters. -/
def pressWork (c : PressCtx) (w : Words4) (takes : List Nat) : List (Nat × Act) :=
  let ts := takes.map (c.base + ·)
  match c.d.kind with
  | 3 => [(c.t0, .pass w 0)]
  | 4 => [(ts.headD 0, .drain w 0 ts.tail)]
  | 5 => [(ts.headD 0, .fill w c.t0 0 ts.tail)]
  | _ => [(ts.headD c.t0, .load w (List.zip c.words ts) [])]

/-- A Press command acts when its partition's plate runs and its cycle has not passed (log 29). -/
def State.pressAct (s : State) (p : Nat) (w : Words4) (takes : List Nat) : Result :=
  let c := s.pressCtx p w
  if s.running p ∧ s.plateT ≤ c.t0 then
    s.act (s.pressOk p w && s.takesOk p c takes) (fun s => s.plan p (pressWork c w takes))
  else .next s

/-- STAT_LOAD (R119, R122). -/
def execStatLoad (p : Fin 16) (d : Words4) (takes : List Nat) (s : State) : Result :=
  if Instr.wf (.statLoad p d takes) then s.pressAct p d takes else .fault .illFormed
/-- STREAM_LOAD (R119, R122). -/
def execStreamLoad (p : Fin 16) (d : Words4) (takes : List Nat) (s : State) : Result :=
  if Instr.wf (.streamLoad p d takes) then s.pressAct p d takes else .fault .illFormed
/-- PASS (R115, R121). -/
def execPass (p : Fin 16) (d : Words4) (s : State) : Result :=
  if Instr.wf (.pass p d) then s.pressAct p d [] else .fault .illFormed
/-- DRAIN (R119, R122): one cycle for each row. -/
def execDrain (p : Fin 16) (d : Words4) (takes : List Nat) (s : State) : Result :=
  if Instr.wf (.drain p d takes) then s.pressAct p d takes else .fault .illFormed
/-- FILL (R119, R122): one cycle for each row. -/
def execFill (p : Fin 16) (d : Words4) (takes : List Nat) (s : State) : Result :=
  if Instr.wf (.fill p d takes) then s.pressAct p d takes else .fault .illFormed

end Sys2Proof.Machine
end

