-- ==== Sys2Proof/Machine/Work.lean ====
section
/-! DEFINITION. The work of the plates in time order: what meets in a plate cycle, the conflicts and hazards found in it, and
its effect (R3, R21, R97, R111, R123, R133, R136, R145). -/

namespace Sys2Proof.Machine

open Sys2Proof

/-! ### The accesses of a plate cycle -/

/-- A Vat access of a plate: port and physical word address. -/
structure VAcc where
  port : Nat
  addr : Nat
  deriving DecidableEq, Repr

/-- The Vat words that a unit moves at cycle T (R97, R117). -/
def State.vatAccs (s : State) (p T : Nat) (a : Act) : List VAcc :=
  let core (b : Nat) (l : List Nat) : List VAcc := l.map (fun x => ⟨0x10 + b % 8, x⟩)
  match a with
  | .load w rest _ =>
    let c := s.pressCtx p w
    (rest.filter (fun x => x.2 == T)).map (fun x => ⟨c.port, s.tAddr p c.t x.1⟩)
  | .drain w r _ => let c := s.pressCtx p w; (s.drainWrites p c r).map (fun x => ⟨c.port, s.tAddr p c.t x.1⟩)
  | .fill w _ r _ => let c := s.pressCtx p w; (fillReads c r).map (fun o => ⟨c.port, s.tAddr p c.t o⟩)
  | .take x _ _ => [⟨0x20, x⟩]
  | .takeIn x => [⟨0x20, x⟩]
  | .put (.vat x port) _ _ => [⟨port, x⟩]
  | .feed _ (some x) _ => [⟨0x20, x⟩]
  | .feedRow half entry desc head k _ => (s.queryAddr p half entry desc head k).elim [] (fun x => [⟨0x20, x⟩])
  | .queue _ _ entry => [⟨0x20, entry / 32 * 32⟩]
  | .collect _ x _ => [⟨0x21, x⟩]
  | .mark x true => [⟨0x21, x⟩]
  | .patch b x _ => core b [x]
  | .coreLoad b _ _ _ _ now _ _ => core b now
  | .coreGet b => core b (KState.slotWords ⟨s, b, p, T⟩)
  | .coreDrain b => core b ((s.storesNow p b T).map (·.addr))
  | _ => []

/-- The stack words that the plate DMA engine reads or writes (R133, R148, R155). -/
def State.stkAccs (s : State) (a : Act) : List Nat :=
  match a with
  | .get x _ _ => [x]
  | .coded x _ => [x]
  | .put (.stk x _) _ _ => [x]
  | .put (.opened x) _ _ => [x]
  | .sum half bank pail row => [sumAddr half (s.region half (pailRegion bank pail)) bank row / 32 * 32]
  | .table half sums k => ((s.tableWords half sums)[k]?).elim [] (fun x => [x])
  | _ => []

/-- A churn command, or a row or word of one. -/
def Act.isChurn : Act → Bool
  | .xload _ _ => true
  | .stream _ _ _ => true
  | .churn _ => true
  | _ => false

/-- The order of what happens in one plate cycle: reservations end, passes enter before drains and fills take their rows, words
land before the sums over them, and a core goes on after its slots. -/
def Act.rank : Act → Nat
  | .callEnd _ => 0
  | .load _ _ _ => 1
  | .pass _ _ => 1
  | .drain _ _ _ => 2
  | .fill _ _ _ _ => 2
  | .put _ _ _ => 3
  | .sum _ _ _ _ => 5
  | .coreLoad _ _ _ _ _ _ _ _ => 6
  | .coreGet _ => 6
  | .coreDrain _ => 6
  | .call _ _ _ _ _ => 7
  | .coreGo _ => 8
  | _ => 4

/-! ### Conflicts (R111) -/

/-- The Vat banks that more than one access reaches, in ascending order. -/
def vatClash (l : List VAcc) : List Nat :=
  sortBy (fun (a b : Nat) => decide (a < b)) ((l.map (fun x => vatBank x.addr)).filter (fun b =>
    decide (1 < (l.filter (fun x => vatBank x.addr == b)).length))).dedup

/-- The ports of the accesses to a bank, in ascending order. -/
def clashPorts (l : List VAcc) (b : Nat) : List Nat :=
  sortBy (fun (a b : Nat) => decide (a < b)) ((l.filter (fun x => vatBank x.addr == b)).map (·.port))

/-- A PLATE_CONFLICT of partition p in cycle T is recorded, at the lowest bank, and logged. -/
def State.conflictFault (s : State) (p T : Nat) (l : List VAcc) : State :=
  match vatClash l with
  | [] => s
  | b :: more =>
    let ports := clashPorts l b
    let a := ((l.find? (fun x => vatBank x.addr == b)).map (·.addr)).getD 0
    let s := (s.recConflict p b T (ports.getD 0 0) (ports.getD 1 0)).wrs p (if more.isEmpty then [] else [(VAT_CONFLICT_STATUS_more, 1)])
    s.logEvent 0x0501 (some p) false (.vat a) 0

/-! ### Hazards (R123, R131, R145, R158) -/

/-- A hazard or an overrun of a unit: cause and unit. -/
structure UnitHaz where
  cause : Nat
  unit : Nat
  deriving DecidableEq, Repr

/-- Hazards of one plate cycle are recorded at the lowest unit that failed, and logged. -/
def State.unitFault (s : State) (p T : Nat) (l : List UnitHaz) : State :=
  match sortBy (fun (a b : UnitHaz) => decide (a.unit < b.unit)) l with
  | [] => s
  | h :: more =>
    let s := (s.recPress p h.cause h.unit T).wrs p (if more.any (fun x => x.unit != h.unit) then [(PRESS_FAULT_STATUS_more, 1)] else [])
    s.logEvent (0x0600 + h.cause) (some p) false (.unit h.unit) 0

/-- Churn hazards of one bank cycle are recorded at the lowest half and bank, and logged. -/
def State.churnFault (s : State) (p B : Nat) (l : List ChurnHaz) : State :=
  match sortBy (fun (a b : ChurnHaz) => decide (512 * a.half + a.bank < 512 * b.half + b.bank)) l with
  | [] => s
  | h :: more =>
    let s := (s.recChurn p h.cause h.half h.bank B).wrs p (if more.isEmpty then [] else [(STK_FAULT_STATUS_more, 1)])
    s.logEvent (0x0700 + h.cause) (some p) false (.stack (stkAddr h.half h.bank 0 0)) 0

/-! ### The effect of a plate cycle -/

/-- A churn command's share of cycle T. -/
def State.churnStep (s : State) (p T : Nat) (a : Act) : State × List ChurnHaz :=
  let B := bcAt T
  match a with
  | .xload w i => s.xloadStep p w B i
  | .stream w k place => s.streamStep p w B k place
  | .churn w => s.churnPlain p (s.churnAtBc p w B)
  | _ => (s, [])

/-- Hazards of a Press engine. -/
def pressFound (s : State) (p : Nat) (w : Words4) (r : State × PressHaz) : State × List UnitHaz :=
  (r.1, r.2.map (fun c => ⟨c, (s.pressCtx p w).eng⟩))

/-- Any other share of cycle T. Accesses of a Vat bank in `vb` or a stack bank, as half * 512 + bank, in `sb` take no
effect. -/
def State.actStep (s : State) (p T : Nat) (vb sb : List Nat) (a : Act) : State × List UnitHaz :=
  let clear (x : Nat) : Bool := !vb.contains (vatBank x)
  let free (x : Nat) : Bool := !sb.contains (512 * stkHalf x + stkBank x)
  let when_ (ok : Bool) (t : State) : State × List UnitHaz := (if ok then t else s, [])
  match a with
  | .load w rest got => pressFound s p w (s.loadStep p w T rest got vb)
  | .pass w i => pressFound s p w (s.passStep p w T i)
  | .drain w r ts => pressFound s p w (s.drainStep p w T r ts vb)
  | .fill w t0 r ts => pressFound s p w (s.fillStep p w t0 T r ts vb)
  | .get x outs err => when_ (free x) (s.getStep p x outs err)
  | .coded x err => when_ (free x) (s.codedStep p x err)
  | .curd base B c outs => (s.curdStep p base B c outs, [])
  | .take x outs err => when_ (clear x) (s.takeStep p x outs err)
  | .takeIn x => when_ (clear x) (s.takeInStep x)
  | .put d w poison => when_ (match d with
      | .vat x _ => clear x
      | .stk x _ => free x
      | .opened x => free x) (s.putStep d w poison)
  | .sum half bank pail row => when_ (((s.stkAccs a).all free)) (s.sumStep half bank pail row)
  | .feed half x err => when_ (x.all clear) (s.feedStep p half (bcAt T) x err)
  | .feedRow half entry desc head k err =>
    when_ ((s.queryAddr p half entry desc head k).all clear) (s.feedRowStep p half (bcAt T) entry desc head k err)
  | .queue half pool entry => when_ (clear (entry / 32 * 32)) (s.queueStep p half (bcAt T) pool entry)
  | .collect half x err => when_ (clear x) (s.collectStep p half (bcAt T) x err)
  | .table half sums k => when_ ((s.stkAccs a).all free) (s.tableStep half sums k)
  | .rsEnd half sums result => (s.rsEndStep p half sums result, [])
  | .mark x bad => when_ (clear x) (s.markStep x bad)
  | .call b offset descs slots reservation => (s.callStep p b T offset descs slots reservation, [])
  | .patch b x code => when_ (clear x) (s.patchStep b x code)
  | .coreLoad b d t l0 row now rest got => ((KState.loadSlot ⟨s, b, p, T⟩ d t l0 row now rest got vb).s, [])
  | .coreGet b => ((KState.libSlot ⟨s, b, p, T⟩ vb).s, [])
  | .coreDrain b => (s.storeStep p b T vb, [])
  | .coreGo b => (s.goStep p b T, [])
  | .callEnd b => let r := s.callEndStep b T; (r.1, r.2.map (fun c => ⟨c, coreUnit b⟩))
  | .xload _ _ => (s, [])
  | .stream _ _ _ => (s, [])
  | .churn _ => (s, [])

/-- The churn commands' shares of cycle T. -/
def State.churnSteps (s : State) (p T : Nat) (l : List Act) : State × List ChurnHaz :=
  l.foldl (fun (acc : State × List ChurnHaz) a => let r := acc.1.churnStep p T a; (r.1, acc.2 ++ r.2)) (s, [])

/-- The others'. -/
def State.actSteps (s : State) (p T : Nat) (vb sb : List Nat) (l : List Act) : State × List UnitHaz :=
  l.foldl (fun (acc : State × List UnitHaz) a => let r := acc.1.actStep p T vb sb a; (r.1, acc.2 ++ r.2)) (s, [])

/-- Conflicts of stack banks and the budgets of the halves in a bank cycle: the banks that stream, and those that the accesses
reach. -/
def State.stackHaz (s : State) (T : Nat) (churns : List Act) (accs : List Nat) (halves : List Nat) : List ChurnHaz :=
  if churns.isEmpty ∧ accs.isEmpty then []
  else halves.flatMap (fun h =>
    activityHaz h ((s.seqAt h).streams (bcAt T) ++ (accs.filter (fun x => stkHalf x == h)).map stkBank))

/-- Cycle T of partition p: the accesses that meet take no effect; a conflict or a hazard stops the partition at the end of the
cycle (R111, R123, R145). -/
def State.partCycle (s : State) (p T : Nat) : State :=
  let evs := s.work.filter (fun e => e.t == T && e.p == p)
  let s := { s with work := s.work.filter (fun e => !(e.t == T && e.p == p)) }
  let acts := (sortBy (fun (a b : Act) => decide (a.rank < b.rank)) (evs.map (·.act)))
  let churns := acts.filter Act.isChurn
  let others := acts.filter (fun a => !a.isChurn)
  let vats := others.flatMap (s.vatAccs p T)
  let stks := others.flatMap s.stkAccs
  let c := s.churnSteps p T churns
  let sh := c.1.stackHaz T churns stks (s.heldQs p)
  let sb := sh.filterMap (fun h => if h.cause = 3 then some (512 * h.half + h.bank) else none)
  let r := c.1.actSteps p T (vatClash vats) sb others
  let s := ((r.1.conflictFault p T vats).unitFault p T r.2).churnFault p (bcAt T) (c.2 ++ sh)
  if (vatClash vats).isEmpty && r.2.isEmpty && c.2.isEmpty && sh.isEmpty then s else s.haltPart p wFAULT

/-- The earliest plate cycle before a limit for which work waits. -/
def State.nextCycle (s : State) (limit : Nat) : Option Nat :=
  let ts := (s.work.map (·.t)).filter (fun t => decide (t < limit))
  match ts with
  | [] => none
  | t :: rest => some (rest.foldl Nat.min t)

/-- Plate cycles before a limit run, n at most. -/
def State.runCycles : Nat → Nat → State → State
  | 0, _, s => s
  | n + 1, limit, s =>
    match s.nextCycle limit with
    | none => s
    | some T => State.runCycles n limit (s.each ((upto 16).filter (fun p => s.work.any (fun e => e.t == T && e.p == p)))
        (fun s p => s.partCycle p T))

/-- The work before a plate cycle is done. -/
def State.runWork (s : State) (limit : Nat) : State :=
  let s' := State.runCycles (limit - s.plateT) limit s
  { s' with plateT := Nat.max s'.plateT limit }

/-! ### Service accesses come after the plate's cycles of their frame (R21, R22) -/

/-- Edge and service slots, and the service bank cycle, follow the plate slots and the plate bank cycles of a frame. -/
def State.settle (s : State) : State := if s.grid.cur then s.runWork (64 * s.runFrame + 58) else s

/-- BURIN_OVERRUN (R127, R131): the partition's plate runs through the pc at which the core's reservation ends; a core still
running then stops it. -/
def execBurinOverrun (p : Fin 16) (lq : Fin 16) (core : Fin 8) (pc : Fin 64) (s : State) : Result :=
  .next (if s.running p ∧ (s.burin.get (s.coreOf p lq core)).call.isSome then s.runWork (64 * s.runFrame + pc + 1) else s)

end Sys2Proof.Machine
end

