-- ==== Sys2Proof/Machine/Pages.lean ====
section
/-! DEFINITION. The page manager: reference counts, allocation, eviction, the prefix tree, reservation, release, verify
and cut, fork (R170, R176 to R186). -/

namespace Sys2Proof.Machine

open Sys2Proof

def State.pool (s : State) (p : Nat) : Pool := s.pools.get p
def State.updReq (s : State) (i : Nat) (f : Req → Req) : State := { s with reqs := s.reqs.upd i f }
def State.req (s : State) (i : Nat) : Req := s.reqs.get i

/-! ### Nodes and counts in stack memory (R178, R179, R186; log 93) -/

/-- The record of a node. -/
def Node.bytes (n : Node) : List Byte :=
  if n.valid then
    leBytes 8 n.key ++ leBytes 8 n.domain ++ leBytes 4 (n.parent.getD (2 ^ 32 - 1)) ++ leBytes 4 n.page ++ leBytes 8 n.lastMatch ++
      ((upto 16).map (fun i => n.tokens.getD i 0)).flatMap (leBytes 4) ++ leBytes 4 n.children ++ leBytes 4 1 ++ leBytes 24 0
  else leBytes 128 0

/-- The stack address of an area of a partition, none where its quarter is not bound. -/
def State.stkArea (s : State) (p a : Nat) : Option Nat := (s.phys p (a / 2 ^ 35)).map (fun q => q * 2 ^ 35 + a % 2 ^ 35 / 32 * 32)

/-- The address of word w of node record i, and of the word that holds the counts of eight pages from 8 w on. -/
def State.nodeWord (s : State) (p : Nat) (v : ServingSpec) (i w : Nat) : Option Nat := (s.stkArea p v.nodes).map (· + 128 * i + 32 * w)
def State.refWord (s : State) (p : Nat) (v : ServingSpec) (w : Nat) : Option Nat := (s.stkArea p v.refs).map (· + 32 * w)

/-- The page manager writes a word of its own. -/
def State.putOwn (s : State) (a : Option Nat) (bs : List Byte) : State :=
  match a with
  | some a => s.svcPut a (BitVec.ofNat 256 (leNat bs)) false
  | none => s

/-- Some node records and count words are written as the page manager holds them. -/
def State.putTree (s : State) (p : Nat) (v : ServingSpec) (x : Pool) (nodes refs : List Nat) : State :=
  let s := s.each nodes (fun s i =>
    s.each (upto 4) (fun s w => s.putOwn (s.nodeWord p v i w) (((x.nodes.get i).bytes.drop (32 * w)).take 32)))
  s.each refs (fun s w => s.putOwn (s.refWord p v w) ((upto 8).flatMap (fun k => leBytes 4 (x.counts.get (8 * w + k)))))

/-- The keys of two maps at which they differ. -/
def NMap.diff {α : Type} [DecidableEq α] [Inhabited α] (m n : NMap α) : List Nat :=
  ((m.map (·.1) ++ n.map (·.1)).dedup).filter (fun k => decide (m.get k ≠ n.get k))

/-- The page manager's records become those of x, and the words that differ are written. -/
def State.setPool (s : State) (p : Nat) (x : Pool) : State :=
  let old := s.pool p
  let s := { s with pools := s.pools.set p x }
  match s.serving p with
  | none => s
  | some v => s.putTree p v x (NMap.diff old.nodes x.nodes) ((NMap.diff old.counts x.counts).map (· / 8)).dedup

def State.updPool (s : State) (p : Nat) (f : Pool → Pool) : State := s.setPool p (f (s.pool p))

/-- A word of the tree's records that is uncorrectable (R186). -/
def State.treeBad (s : State) (p : Nat) (v : ServingSpec) : Option Nat :=
  let x := s.pool p
  (((x.nodes.map (·.1)).flatMap (fun i => (upto 4).map (s.nodeWord p v i)) ++
    ((x.counts.map (fun e => e.1 / 8)).dedup.map (s.refWord p v))).filterMap id).find? (fun a =>
      (s.stkEcc a).res == .uncorrectable && !s.waitsHeld a)

/-- The counts that the live page lists give. -/
def State.recount (s : State) (p : Nat) : NMap Nat :=
  s.reqs.foldl (fun (m : NMap Nat) e =>
    if e.2.part = p then e.2.pages.foldl (fun (m : NMap Nat) pg => match pg with | some q => m.upd q (· + 1) | none => m) m else m) []

/-- The page manager reads its records before it acts: where a word is uncorrectable the whole tree is discarded, and the counts
are those of the live page lists (R186). -/
def State.checkTree (s : State) (p : Nat) : State :=
  match s.serving p with
  | none => s
  | some v =>
    match s.treeBad p v with
    | none => s
    | some a =>
      let old := s.pool p
      let x : Pool := { old with nodes := [], counts := s.recount p }
      let s := { (s.stkLog a false) with pools := s.pools.set p x }
      s.putTree p v x (old.nodes.map (·.1)) ((old.counts ++ x.counts).map (fun e => e.1 / 8)).dedup

/-- The page manager acts for a partition: after the plate's cycles of the frame, on records that it can read (R176, R186). -/
def State.manage (s : State) (p : Nat) (f : State → State) : State := f (s.settle.checkTree p)

/-! ### Page lists in the Vat (R170) -/

/-- The page list of a slot as its words hold it: -1 at unused positions. -/
def Req.listInts (r : Req) (n : Nat) : List Nat := (upto n).map (fun j => (r.pages.getD j none).getD (2 ^ 32 - 1))

/-- The list of a slot changes, and its words with it. -/
def State.setPages (s : State) (p i : Nat) (f : List (Option Nat) → List (Option Nat)) : State :=
  let s := s.updReq i (fun x => { x with pages := f x.pages })
  match s.serving p with
  | none => s
  | some v => s.putInts (s.listAddr p v i 0) ((s.req i).listInts v.maxPages)

/-- The entries of the request table (R189). -/
def slots : List Nat := upto 1024

/-- A live request: its entry is not FREE, RETIRED or reserved for an arrival. -/
def Req.live (r : Req) : Bool := r.st == .admitted || r.st == .prefill || r.st == .decode || r.st == .shipping

/-! ### Counts (R179) -/

def Pool.addRef (x : Pool) (pg : Nat) : Pool := { x with counts := x.counts.upd pg (· + 1) }
def Pool.dropRef (x : Pool) (pg : Nat) : Pool := { x with counts := x.counts.upd pg (· - 1) }

/-- The free pages of a class (R179). -/
def Pool.freeOf (x : Pool) (v : ServingSpec) (c : Nat) : List Nat :=
  (upto (poolPages v)).filter (fun pg => pageClass v pg == c && x.counts.get pg == 0 && !x.withheld.contains pg)

/-- The valid nodes, by index. -/
def Pool.valid (x : Pool) : List (Nat × Node) := x.nodes.filter (fun e => e.2.valid)

/-- The leaf to evict of a class: least last match, then least page (R182). -/
def Pool.victim (x : Pool) (v : ServingSpec) (c : Nat) : Option (Nat × Node) :=
  (x.valid.filter (fun e => e.2.children == 0 && x.counts.get e.2.page == 1 && pageClass v e.2.page == c)).foldl
    (fun (best : Option (Nat × Node)) e => match best with
      | none => some e
      | some b => if e.2.lastMatch < b.2.lastMatch ∨ (e.2.lastMatch = b.2.lastMatch ∧ e.2.page < b.2.page) then some e else some b) none

/-- A node leaves the tree: its reference falls, and its parent's children count (R182, R186). -/
def Pool.removeNode (x : Pool) (i : Nat) : Pool :=
  let nd := x.nodes.get i
  let x := { x with nodes := x.nodes.set i default }
  let x := match nd.parent with
    | some q => { x with nodes := x.nodes.upd q (fun (m : Node) => { m with children := m.children - 1 }) }
    | none => x
  x.dropRef nd.page

/-- A page of a class, if one is free or can be freed; which of several free ones is open (log 42). -/
def State.allocPage (s : State) (p : Nat) (v : ServingSpec) (c : Nat) : State × Option Nat :=
  let take (s : State) (l : List Nat) : State × Option Nat :=
    match l[s.freeVal % l.length]? with
    | some pg => ((s.drawn).updPool p (fun x => x.addRef pg), some pg)
    | none => (s, none)
  match (s.pool p).freeOf v c with
  | a :: l => take s (a :: l)
  | [] =>
    match (s.pool p).victim v c with
    | some e =>
      let s := s.updPool p (fun x => x.removeNode e.1)
      take s ((s.pool p).freeOf v c)
    | none => (s, none)

/-! ### Node keys and lookup (R177, R178, R180) -/

/-- The tokens of a sequence, by position. -/
def Req.tokens (r : Req) : List Nat := r.prompt ++ r.gen

/-- The 16 tokens of page j. -/
def pageTokens (ts : List Nat) (j : Nat) : List Nat := (ts.drop (16 * j)).take 16

/-- The node key of page j, chained from page 0 (R177). -/
def keyOf (domain : Nat) (ts : List Nat) : Nat → Nat
  | 0 => nodeKey domain 0 (pageTokens ts 0)
  | j + 1 => nodeKey domain (keyOf domain ts j) (pageTokens ts (j + 1))

/-- The class offset a: once page 0's tokens are known (R170, R180). -/
def Req.offset (r : Req) : Option Nat :=
  match r.classOff with
  | some a => some a
  | none => if 16 ≤ r.tokens.length then some (keyOf (rqDomain r.rec_) r.tokens 0 % 256) else none

/-- The node that matches in key, domain, parent and all 16 tokens (R178). -/
def Pool.find (x : Pool) (key domain : Nat) (parent : Option Nat) (ts : List Nat) : Option (Nat × Node) :=
  x.valid.find? (fun e => e.2.key == key && e.2.domain == domain && e.2.parent == parent && e.2.tokens == ts)

/-- The lookup of R180 from page j on, at most n more pages: the pages matched, with their references and stamps. -/
def Pool.lookup (dt domain : Nat) (ts : List Nat) : Nat → Nat → Option Nat → Nat → Pool → Pool × List Nat
  | 0, _, _, _, x => (x, [])
  | n + 1, j, parent, prev, x =>
    let key := nodeKey domain prev (pageTokens ts j)
    match x.find key domain parent (pageTokens ts j) with
    | none => (x, [])
    | some e =>
      let x := (x.addRef e.2.page)
      let x := { x with nodes := x.nodes.set e.1 { e.2 with lastMatch := dt } }
      let r := Pool.lookup dt domain ts n (j + 1) (some e.1) key x
      (r.1, e.2.page :: r.2)

/-- Match a request's prompt: its list and cached length (R180); the class offset with it. A request that may not share
matches nothing (R187). -/
def State.matchPrompt (s : State) (p i : Nat) : State :=
  let r := s.req i
  let m := if rqShare r.rec_ then
      Pool.lookup s.dt (rqDomain r.rec_) r.prompt ((r.prompt.length - 1) / 16) 0 none 0 (s.pool p)
    else (s.pool p, [])
  ((s.updPool p (fun _ => m.1)).setPages p i (fun _ => m.2.map some)).updReq i (fun x => { x with len := 16 * m.2.length, classOff := r.offset })

/-! ### Reservation and release (R176, R179, R191) -/

/-- The page at a list position. -/
def Req.pageAt (r : Req) (j : Nat) : Option Nat := r.pages.getD j none

/-- The list with a page at position j, unused positions none. -/
def putPageAt (l : List (Option Nat)) (j : Nat) (v : Option Nat) : List (Option Nat) :=
  (l ++ (upto (j + 1 - l.length)).map (fun _ => none)).set j v

/-- The list positions that a request whose next row stands at pos will flush: of a decode row its one page when it
fills, of a prefill every page left of it (R176). -/
def flushPositions (r : Req) (pos : Nat) : List Nat :=
  if r.st = .decode then (if pos % 16 = 15 then [pos / 16] else [])
  else ((upto ((prefillOf r).length / 16)).filter (fun j => decide (pos / 16 ≤ j)))

/-- Position j holds a page the sequence owns alone, of its class; a shared reserved page is replaced (R176, R179).
Answers whether it does. -/
def State.reserve (s : State) (p : Nat) (v : ServingSpec) (i j : Nat) : State × Bool :=
  let r := s.req i
  match r.offset with
  | none => (s, false)
  | some a =>
    let s := s.updReq i (fun x => { x with classOff := some a })
    let fresh (s : State) : State × Bool :=
      let q := s.allocPage p v ((a + j) % 256)
      match q.2 with
      | some pg => (q.1.setPages p i (fun l => putPageAt l j (some pg)), true)
      | none => (q.1, false)
    match r.pageAt j with
    | none => fresh s
    | some pg =>
      if (s.pool p).counts.get pg = 1 then (s, true)
      else
        let q := fresh s
        (if q.2 then q.1.updPool p (fun x => x.dropRef pg) else q.1, q.2)

/-- Reserve several positions in turn, until one cannot be. -/
def State.reserveAll (s : State) (p : Nat) (v : ServingSpec) (i : Nat) (js : List Nat) : State × Bool :=
  js.foldl (fun (acc : State × Bool) j => if acc.2 then acc.1.reserve p v i j else acc) (s, true)

/-- The pages of a request lose their references (R179, R189). -/
def State.releasePages (s : State) (p i : Nat) : State :=
  let s := s.updPool p (fun x => (s.req i).pages.foldl (fun (x : Pool) pg => match pg with | some q => x.dropRef q | none => x) x)
  s.setPages p i (fun _ => [])

/-- The entry becomes FREE (R189). -/
def State.freeReq (s : State) (p i : Nat) : State :=
  { s.releasePages p i with reqs := ((s.releasePages p i).reqs).set i default }

/-! ### Flushes (R181) -/

/-- A PAGE_FLUSH notice for list position j of a slot. -/
def State.flushNode (s : State) (p i j : Nat) : State :=
  let r := s.req i
  let x := s.pool p
  match r.pageAt j with
  | none => s
  | some pg =>
    if !rqShare r.rec_ then s
    else
      let parent : Option (Option Nat) :=
        if j = 0 then some none
        else match r.pageAt (j - 1) with
          | none => none
          | some q => (x.valid.find? (fun e => e.2.page == q)).map (fun e => some e.1)
      match parent with
      | none => s
      | some par =>
        let ts := pageTokens r.tokens j
        let key := keyOf (rqDomain r.rec_) r.tokens j
        match x.find key (rqDomain r.rec_) par ts with
        | some e =>
          let s := s.updPool p (fun x => (x.dropRef pg).addRef e.2.page)
          s.setPages p i (fun l => putPageAt l j (some e.2.page))
        | none =>
          let idx := ((upto (x.nodes.length + 1)).find? (fun k => !(x.nodes.get k).valid)).getD x.nodes.length
          s.updPool p (fun x =>
            let x := { x with nodes := x.nodes.set idx ⟨key, rqDomain r.rec_, par, pg, s.dt, ts, 0, true⟩ }
            let x := match par with
              | some q => { x with nodes := x.nodes.upd q (fun (m : Node) => { m with children := m.children + 1 }) }
              | none => x
            x.addRef pg)

/-! ### Cut and verify (R185, R186) -/

/-- The node of a page and every descendant leave the tree. -/
def Pool.cutTree (x : Pool) : Nat → List Nat → Pool
  | 0, _ => x
  | _ + 1, [] => x
  | n + 1, is =>
    let kids := (x.valid.filter (fun e => e.2.parent.any (fun q => is.contains q))).map (·.1)
    Pool.cutTree (is.foldl Pool.removeNode x) n kids

/-- A sequence is cut at list position j: its later pages go, and what it had cached from there is prefilled again from
its full history (R185, R186; log 44). -/
def State.cutReq (s : State) (p i j : Nat) : State :=
  let r := s.req i
  let s := s.updPool p (fun x => (r.pages.drop j).foldl (fun (x : Pool) pg => match pg with | some q => x.dropRef q | none => x) x)
  (s.setPages p i (fun l => l.take j)).updReq i (fun y =>
    { y with
      len := Nat.min y.len (16 * j)
      rebuilt := y.gen.length
      st := .admitted
      heldFor := [] })

/-- A page that fails its row sums: it is cut from every list at its position and after, its node and every descendant
are removed, and it is withheld from reuse. -/
def State.removePage (s : State) (p pg : Nat) : State :=
  let s := s.each slots (fun s i =>
    let r := s.req i
    if r.part = p ∧ r.live then
      match r.pages.findIdx? (fun x => x == some pg) with
      | some j => s.cutReq p i j
      | none => s
    else s)
  let x := s.pool p
  let s := s.updPool p (fun y => y.cutTree (x.nodes.length + 1) ((x.valid.filter (fun e => e.2.page == pg)).map (·.1)))
  s.updPool p (fun y => { y with withheld := y.withheld ++ [pg] })

/-- The slots whose sequences a verify concerns: those of the latest step's rows, and of every held request of the partition
(R186, R195). -/
def State.verifySlots (s : State) (p : Nat) : List Nat :=
  ((s.part p).lastRows.map (·.slot) ++ slots.filter (fun i => (s.req i).part == p && (s.req i).live && !(s.req i).heldFor.isEmpty)).dedup

/-- Their full pages, each once. -/
def State.stepPages (s : State) (p : Nat) : List Nat :=
  ((s.verifySlots p).flatMap (fun i => ((s.req i).pages.take ((s.req i).len / 16)).filterMap id)).dedup

/-- Whether a token record of a sequence's tail is uncorrectable (R186). -/
def State.tailBad (s : State) (p : Nat) (v : ServingSpec) (i : Nat) : Bool :=
  v.pools.any (fun o => (upto ((s.req i).len % 16)).any (fun t =>
    (upto (tokenBytes v.headDim / 32)).any (fun w => (s.stkEcc (s.tailAddr p v o i t / 32 * 32 + 32 * w)).res == .uncorrectable)))

/-- The verify entry point (R186): the pages of those sequences, and the tails of the held ones. The pools and the tails are
then in order again, and nothing is held for them (R195). -/
def State.kvVerify (s : State) (p : Nat) : State :=
  match s.serving p with
  | none => s
  | some v =>
    let bad := (s.stepPages p).filter (fun pg => v.pools.any (fun o => !s.pageSumsOk p v o pg))
    let held := (s.verifySlots p).filter (fun i => (s.req i).live && !(s.req i).heldFor.isEmpty)
    let s := s.each bad (fun s pg => s.removePage p pg)
    let s := s.each held (fun s i => if s.tailBad p v i then s.cutReq p i ((s.req i).len / 16) else s)
    (s.updPart p (fun x => { x with kvDirty := false })).repaired p (fun k => k == faultPool || k == faultTail)

/-- KV_VERIFY (R186): after a row-sum mismatch in a pool, or for held requests whose tail failed. -/
def execKvVerify (p : Fin 16) (s : State) : Result :=
  .next (s.manage p (fun s =>
    if (s.part p).kvDirty ∨ (s.verifySlots p).any (fun i => !(s.req i).heldFor.isEmpty) then s.kvVerify p else s))

/-- A DRAM row of 64 words of a bank is retired: pages with a check row in it may be used again (R186, R317). -/
def State.unwithhold (s : State) (half bank row : Nat) : State :=
  s.each (upto 16) (fun s p =>
    match s.serving p with
    | none => s
    | some v =>
      let hit (pg : Nat) : Bool := v.pools.any (fun o => s.phys p o.lq == some half &&
        (pagePlace v o pg).1 == bank && (pageRowPlaces v o pg).any (fun r =>
          decide ((512 * r.1 + r.2.1 * r.2.2) / 64 ≤ row) && decide (row ≤ (512 * r.1 + r.2.1 * r.2.2 + r.2.2 - 1) / 64)))
      if (s.pool p).withheld.any hit then { s with pools := s.pools.upd p (fun x => { x with withheld := x.withheld.filter (fun pg => !hit pg) }) }
      else s)

/-! ### Forks (R183) -/

/-- Positions of a list past the cached length hold pages that are reserved and not yet written. -/
def reservedAt (r : Req) : List Nat := (upto r.pages.length).filter (fun j => decide (r.len / 16 ≤ j) && (r.pageAt j).isSome)

/-- A page that two sequences hold reserved is replaced for the one that is about to flush; where no page of its class is left, it
keeps the page and the new sequence is left without one (R179; log 42). -/
def State.unshare (s : State) (p : Nat) (v : ServingSpec) (i k j : Nat) : State :=
  let q := s.reserve p v i j
  if q.2 then q.1
  else match (q.1.req k).pageAt j with
    | some pg => (q.1.updPool p (fun x => x.dropRef pg)).setPages p k (fun l => putPageAt l j none)
    | none => q.1

/-- A new sequence from a live one: the page list with every count increased, the class offset, and each tail slot and count
table; the rest of the entry is the live one's (log 42). -/
def State.fork (s : State) (p i k : Nat) : State :=
  match s.serving p with
  | none => s
  | some v =>
    let r := s.req i
    let s := s.updPool p (fun x => r.pages.foldl (fun (x : Pool) pg => match pg with | some q => x.addRef q | none => x) x)
    let s := (s.updReq k (fun _ => r)).setPages p k id
    let s := s.each (reservedAt r) (fun s j => s.unshare p v i k j)
    let s := s.each (upto (countBytes / 32)) (fun s w =>
      let e := s.vatEcc (s.areaAt p v.counts + countBytes * i + 32 * w)
      let a := s.areaAt p v.counts + countBytes * k + 32 * w
      if vatPopulated a then s.vatPut a e.data (e.poison || e.res == .uncorrectable) else s)
    s.each v.pools (fun s o => s.each (upto (16 * tokenBytes v.headDim / 32)) (fun s w =>
      let e := s.svcRead (s.tailAddr p v o i 0 + 32 * w)
      s.svcPut (s.tailAddr p v o k 0 + 32 * w) e.1 e.2))

/-- FORK: from a live request of the partition to a FREE entry, once no append of the sequence is pending (log 42). -/
def execFork (p : Fin 16) (slot newSlot : Fin 1024) (s : State) : Result :=
  .next (s.manage p (fun s =>
    if (s.req slot).live ∧ (s.req slot).part = p.val ∧ (s.req newSlot).st = .free ∧
        ¬ (s.part p).append.any (fun e => e.1.slot == slot.val && e.2) then s.fork p slot newSlot else s))

end Sys2Proof.Machine
end

