-- ==== Sys2Proof/Machine/Records.lean ====
section
/-! DEFINITION. Output records and the completion rings (R197 to R200, R294, R295, R298). -/

namespace Sys2Proof.Machine

open Sys2Proof

/-! ### Records (R197 to R199) -/

/-- An entry of a record. -/
structure OutEntry where
  id : Nat
  token : Option Nat
  stepNo : Nat
  status : Nat
  cancelIgnored : Bool := false
  overflow : Bool := false
  detail : Nat := 0
  holds : Nat := 0
  /-- log-probability of the chosen token, and the alternatives -/
  lp : Option (W32 × List (Nat × W32)) := none
  deriving DecidableEq, Repr, Inhabited

/-- Status codes of R198. -/
abbrev stOK : Nat := 0
abbrev stCOMPLETE : Nat := 1
abbrev stDEADLINE : Nat := 2
abbrev stCANCELLED : Nat := 3
abbrev stHELD : Nat := 4
abbrev stKVEXHAUSTED : Nat := 5
abbrev stNUMERIC : Nat := 6
abbrev stCOUNTOVERFLOW : Nat := 7
abbrev stFAULT : Nat := 8
abbrev stSHIPPED : Nat := 9
abbrev stSHIPFAILED : Nat := 10
abbrev stREFUSED : Nat := 11

/-- Zero-padded to a multiple of 16 bytes. -/
def pad16 (l : List Byte) : List Byte := l ++ (upto ((16 - l.length % 16) % 16)).map (fun _ => 0)

/-- The log-probability block (R199). -/
def lpBlock (l : W32 × List (Nat × W32)) : List Byte :=
  pad16 (leBytes 4 l.1.toNat ++ leBytes 4 (l.2.length % 256) ++ l.2.flatMap (fun e => leBytes 4 e.1 ++ leBytes 4 e.2.toNat))

/-- The bytes of an entry (R198). -/
def OutEntry.bytes (e : OutEntry) : List Byte :=
  leBytes 4 e.id ++ leBytes 4 (e.token.getD 0xFFFFFFFF) ++ leBytes 4 e.stepNo ++ leBytes 1 e.status ++
    leBytes 1 (b2n e.lp.isSome + 2 * b2n e.cancelIgnored + 4 * b2n e.overflow) ++ leBytes 1 e.detail ++ leBytes 1 e.holds ++
    (match e.lp with | some l => lpBlock l | none => [])

/-- Insert an entry in ascending request id. -/
def insertEntry (e : OutEntry) : List OutEntry → List OutEntry
  | [] => [e]
  | x :: t => if e.id < x.id then e :: x :: t else x :: insertEntry e t

/-- Entries in ascending request id (R200). -/
def sortEntries (l : List OutEntry) : List OutEntry := l.foldl (fun acc e => insertEntry e acc) []

/-- A record: kind 1 of a step, 2 admin (R197). -/
def recordBytes (kind part vf stepSeq stamp : Nat) (es : List OutEntry) : List Byte :=
  let body := (sortEntries es).flatMap OutEntry.bytes
  leBytes 1 kind ++ leBytes 1 part ++ leBytes 2 vf ++ leBytes 4 es.length ++ leBytes 8 stepSeq ++ leBytes 8 stamp ++
    leBytes 4 (32 + body.length) ++ leBytes 4 0 ++ body

/-- The pad before the end of the ring: a whole header, or its first 16 bytes (R294). -/
def padRecord (n : Nat) : List Byte := (leBytes 24 0 ++ leBytes 4 n ++ (upto n).map (fun _ => (0 : Byte))).take n

/-! ### The completion ring (R294, R295) -/

def State.cq (s : State) (f : Nat) : Cq := s.cqs.get f
def State.updCq (s : State) (f : Nat) (g : Cq → Cq) : State := { s with cqs := s.cqs.upd f g }

/-- Bytes of a completion ring. -/
def State.cqSize (s : State) (f : Nat) : Nat := 2 ^ s.rd HIF_CQ_CFG_sizeLog2 f

/-- The pad that a record needs before it, so that it does not straddle the end. -/
def State.cqPad (s : State) (f len : Nat) : Nat :=
  let room := s.cqSize f - (s.cq f).w % s.cqSize f
  if room < len then room else 0

/-- A record fits when the ring is enabled and its free space covers it and its pad. -/
def State.cqFits (s : State) (f len : Nat) : Bool :=
  s.on HIF_CQ_CFG_enable f &&
  decide (s.cqPad f len + len + ((s.cq f).w + 2 ^ 64 - (s.cq f).c) % 2 ^ 64 ≤ s.cqSize f)

/-- Write a record that fits. -/
def State.cqWrite (s : State) (f : Nat) (r : List Byte) : State :=
  let base := s.rd HIF_CQ_CFG_base f * 4096
  let size := s.cqSize f
  let w := (s.cq f).w
  let pad := s.cqPad f r.length
  let s := if pad = 0 then s else s.emit (.hostWrite (base + w % size) (padRecord pad) [])
  let w' := w + pad
  let s := s.emit (.hostWrite (base + w' % size) r [])
  s.updCq f (fun q => { q with w := (w' + r.length) % 2 ^ 64, n := q.n + 1, fresh := q.fresh + 1 })

/-- Write the waiting records that fit, in order; `n` bounds how many. -/
def State.cqPlace (s : State) (f : Nat) : Nat → State
  | 0 => s
  | n + 1 =>
    match (s.cq f).waiting with
    | [] => s
    | r :: t =>
      if s.cqFits f r.length then ((s.cqWrite f r).updCq f (fun q => { q with waiting := t })).cqPlace f n else s

/-- Place what fits, and set or clear stalled (R295). -/
def State.cqFlush (s : State) (f : Nat) : State :=
  let s := s.cqPlace f (s.cq f).waiting.length
  if (s.cq f).waiting.isEmpty then s.wr HIF_FN_STATUS_stalled f 0 else s.fnFlag f HIF_FN_STATUS_stalled

/-- A record for function f, in commit order (R200). -/
def State.putRecord (s : State) (f : Nat) (r : List Byte) : State :=
  (s.updCq f (fun q => { q with waiting := q.waiting ++ [r] })).cqFlush f

/-- An admin record with one entry, written when its event occurs (R197). -/
def State.adminRecord (s : State) (p f : Nat) (e : OutEntry) : State := s.putRecord f (recordBytes 2 p f 0 s.dt [e])

/-- Vector 0 at a tail writeback, as moderated (R298). -/
def State.moderate (s : State) (f : Nat) : State :=
  let count := s.rd HIF_MSIX_MOD_count f
  let time := s.rd HIF_MSIX_MOD_timeUs f
  let t := (s.cq f).oldest.getD s.dt
  if (count = 0 ∧ time = 0) ∨ (0 < count ∧ count ≤ (s.cq f).n) ∨ (0 < time ∧ t + time * 100 ≤ s.dt) then
    (s.updCq f (fun q => { q with n := 0, oldest := none })).fire f 0
  else s.updCq f (fun q => { q with oldest := some t })

/-- The tail writeback after the records of a tick (R294). -/
def State.cqTail (s : State) (f : Nat) : State :=
  let a := s.rd HIF_CQ_TAIL_addr f
  if (s.cq f).fresh = 0 then s
  else
    let s' := s.updCq f (fun q => { q with fresh := 0 })
    if a = 0 then s'
    else (s'.emit (.hostWrite (a * 8) (leBytes 8 (s.cq f).w) [])).moderate f

/-- The offset C that the host has written, read when there is a head address (R294). -/
def State.cqRead (s : State) (f c : Nat) : State :=
  if s.rd HIF_CQ_HEAD_addr f = 0 then s else s.updCq f (fun q => { q with c := c % 2 ^ 64 })

end Sys2Proof.Machine
end

