-- ==== Sys2Proof/Machine/Serving.lean ====
section
/-! DEFINITION. Serving: requests entered and cancelled, steps assembled, commits judged (R187 to R206, R254), and the
notices PAGE_FLUSH, PROOF, COMMIT and those of reserved kinds as they are taken (R20, R90, R181). -/

namespace Sys2Proof.Machine

open Sys2Proof

/-- max_pages of a partition's module; the largest where its plate serves none (R170; log 45). -/
def State.maxPages (s : State) (p : Nat) : Nat := ((s.serving p).map (·.maxPages)).getD 16384

/-! ### Shipping, prefill side (R254) -/

/-- The group and the member of a ship target (R248). -/
def shipGroup (t : Nat) : Nat := bits t 12 4
def shipMember (t : Nat) : Nat := bits t 0 12

/-- The target is a member of an open group of the partition (R188). -/
def State.targetOk (s : State) (p t : Nat) : Bool :=
  t / 2 ^ 16 == 0 && (s.group p (shipGroup t)).state == 2 && decide (shipMember t < (s.group p (shipGroup t)).members)

/-- A request that waits for its shipment to be granted. -/
def Req.waitsShip (r : Req) : Bool :=
  rqShip r.rec_ && r.shipGrant.isNone && r.shipTried.isSome && (r.st == .admitted || r.st == .prefill) && !r.exhausted && !r.flr

/-- Bytes of the parts of a manifest (R211; log 43): header, page images of n positions, tails, counts. -/
abbrev shipHeader : Nat := 224
def imageBytes (v : ServingSpec) : Nat := 32 * (keyLen v.poolFmt v.headDim + v.headDim / 64 * valueLen v.poolFmt)
def tailBytes (v : ServingSpec) : Nat := 16 * tokenBytes v.headDim
def manifestBytes (v : ServingSpec) (n : Nat) : Nat :=
  shipHeader + n / 16 * v.pools.length * imageBytes v + v.pools.length * tailBytes v + countBytes

/-- The page positions of a manifest of a length (R211). -/
def manifestPages (v : ServingSpec) (len : Nat) : Nat :=
  (len - shipHeader - v.pools.length * tailBytes v - countBytes) / Nat.max 1 (v.pools.length * imageBytes v)

/-- The link toward the member that a request's shipment is for: the target's own, or the route's for a cell of this
origin (R248, R251). -/
def State.shipLink (s : State) (p g target : Nat) : GLink → Bool :=
  let x := s.group p g
  let route := (s.part p).plate.bind (fun pl => (pl.body.groups.find? (fun e => e.g == g)).bind (fun e =>
    (e.routes.find? (fun r => r.1 == 6 && r.2.1 == x.member)).map (·.2.2)))
  if x.links.any (fun l => l.peer == target) then (fun l => l.peer == target)
  else match route.bind (fun i => x.links[i]?) with
    | some y => (fun l => l.port == y.port)
    | none => (fun _ => true)

/-- An ARRIVING entry for a shipment of n page positions: the lowest FREE entry, with every page reserved as R176 has it
(R211, R254); none where it is refused. The class offset is not known before the header arrives, so it is a free value until
then (log 43). -/
def State.reserveShip (s : State) (p vf id len : Nat) : State × Option Nat :=
  match s.serving p, slots.find? (fun i => (s.req i).st == .free) with
  | some v, some i =>
    let a := s.freeVal % 256
    let s := s.drawn
    let s := s.updReq i (fun _ =>
      { st := .arriving, vf := vf, part := p, rec_ := leBytes 128 id, admission := s.dt, shipLen := len, classOff := some a })
    let q := s.reserveAll p v i (upto (manifestPages v len))
    if q.2 then (q.1, some i) else (q.1.freeReq p i, none)
  | _, _ => (s, none)

/-- The partition of this part that is the member of a group a request names (R211): another partition with that group OPEN. -/
def State.localTarget (s : State) (p g target : Nat) : Option Nat :=
  let x := s.group p g
  (upto 16).find? (fun p' => p' != p && (upto 16).any (fun g' =>
    let y := s.group p' g'
    y.state == 2 && y.inTag == x.inTag && y.inEpoch == x.inEpoch && y.member == target))

/-- The firmware asks for a shipment's reservation (R211, R254): SHIP_REQ leaves toward the target; another partition of the part
is asked at once. The manifest's length and the VF on the decode side stand in no field of the request: the length is that of
the cached sequence, the VF a free value (log 43). -/
def State.askShip (s : State) (p i : Nat) : State :=
  let r := s.req i
  let t := rqShipTarget r.rec_
  let g := shipGroup t
  let vf := s.freeVal % 64
  let s := s.drawn
  let len := match s.serving p with
    | some v => manifestBytes v (prefillOf r).length
    | none => 0
  let s := s.updReq i (fun x => { x with shipTried := some s.dt, shipLen := len, shipVf := vf })
  if (s.group p g).state = 2 then
    match s.localTarget p g (shipMember t) with
    | some p' =>
      let q := s.reserveShip p' vf (rqId r.rec_) len
      (match q.2 with
        | some k => q.1.updReq i (fun x => { x with shipGrant := some (0, len), shipUse := 1, shipLocal := some k })
        | none => q.1)
    | none => s.originate p g 6 (rqId r.rec_ + vf * 2 ^ 32 + len * 2 ^ 64) 0 (s.shipLink p g (shipMember t))
  else s

/-- SHIP_REQ_RETRY (R254): at most once in 100 µs. -/
def execShipReqRetry (p : Fin 16) (slot : Fin 1024) (s : State) : Result :=
  .next (match (s.req slot).shipTried with
    | some t => if (s.req slot).part = p.val ∧ (s.req slot).waitsShip ∧ t + 10000 ≤ s.dt then s.manage p (fun s => s.askShip p slot) else s
    | none => s)

/-! ### Steps (R190, R191) -/

/-- Insert a slot by last commit, then slot. -/
def insertSlot (s : State) (i : Nat) : List Nat → List Nat
  | [] => [i]
  | k :: t =>
    if (s.req i).lastCommit < (s.req k).lastCommit ∨ ((s.req i).lastCommit = (s.req k).lastCommit ∧ i < k) then i :: k :: t
    else k :: insertSlot s i t

/-- The requests that may join a step, in the order the firmware chooses (R191, R195). -/
def State.eligible (s : State) (p : Nat) : List Nat :=
  (slots.filter (fun i =>
    let r := s.req i
    r.part == p && (r.st == .admitted || r.st == .prefill || r.st == .decode) && r.heldFor.isEmpty && !r.exhausted && !r.flr)).foldl
    (fun acc i => insertSlot s i acc) []

/-- The query position of a request's next row: past what the pending append step will have appended (R190, R196). -/
def State.nextPos (s : State) (p : Nat) (v : ServingSpec) (i : Nat) : Nat :=
  (s.req i).len + (((s.part p).appends.filter (fun (e : StepRow) => e.slot == i)).map (appendCount v (s.req i))).sum

/-- A request's row in the next step (R190). -/
def rowOf (v : ServingSpec) (i pos : Nat) (r : Req) : StepRow :=
  ⟨i, pos, 0, if r.st = .decode then 0 else if (prefillOf r).length - pos ≤ v.chunk then 2 else 1⟩

/-- The classes of a row's items: its pages from the first visible one to the one before its position's (R171). -/
def itemClasses (r : Req) (e : StepRow) : List Nat :=
  ((upto (e.pos / 16)).filter (fun j => decide (e.first ≤ j))).map (fun j => (r.offset.getD 0 + j) % 256)

/-- Every class has at most U items (R171, R191). -/
def State.itemsFit (s : State) (v : ServingSpec) (rows : List StepRow) : Bool :=
  let l := rows.flatMap (fun e => itemClasses (s.req e.slot) e)
  l.all (fun c => decide ((l.filter (· == c)).length ≤ v.rounds))

/-- Place a request in the step, if every condition of R191 holds; one whose pages cannot be reserved is retired. -/
def State.placeRow (s : State) (p : Nat) (v : ServingSpec) (rows : List StepRow) (i : Nat) : State × List StepRow :=
  let r := s.req i
  let pos := s.nextPos p v i
  let e := rowOf v i pos r
  if v.rowsMax ≤ rows.length ∨ ¬ s.itemsFit v (rows ++ [e]) then (s, rows)
  else if e.kind = 2 ∧ rqShip r.rec_ ∧ r.shipGrant.isNone then (if r.shipTried.isNone then s.askShip p i else s, rows)
  else
    let q := s.reserveAll p v i (flushPositions r pos)
    if q.2 then (q.1, rows ++ [e])
    else ((q.1.releasePages p i).updReq i (fun x => { x with exhausted := true }), rows)

/-- The step table in the Vat: four INT32 a row, position -1 in rows that are not used (R190). -/
def State.putStepTable (s : State) (p : Nat) (v : ServingSpec) (rows : List StepRow) : State :=
  s.putInts (s.areaAt p v.stepTable) ((upto v.rowsMax).flatMap (fun k => match rows[k]? with
    | some e => [e.slot, e.pos, e.first, e.kind]
    | none => [0, 2 ^ 32 - 1, 0, 0]))

/-- The commit table in the Vat: slot and flag of every row of the step, flag 0 in rows that are not used (R196; log 89). -/
def State.putCommit (s : State) (p : Nat) (v : ServingSpec) (rows : List (StepRow × Bool)) : State :=
  s.putInts (s.areaAt p v.commitTable) ((upto v.rowsMax).flatMap (fun k => match rows[k]? with
    | some e => [e.1.slot, b2n e.2]
    | none => [0, 0]))

/-- The commit table becomes that of a step: in the partition's state and in the Vat (R196). -/
def State.setCommit (s : State) (p : Nat) (rows : List (StepRow × Bool)) : State :=
  let s := s.updPart p (fun x => { x with append := rows })
  match s.serving p with
  | none => s
  | some v => s.putCommit p v rows

/-- The step that a halt broke off, where the module is the same and a row's request still lives: its rows, and the commit table that
goes with them (R259). -/
def State.brokenStep (s : State) (p : Nat) : List StepRow × List (StepRow × Bool) :=
  match (s.part p).rerun with
  | some (m, rows, app) =>
    let here (e : StepRow) : Bool := (s.req e.slot).live && (s.req e.slot).part == p
    if m = s.moduleId p then (rows.filter here, app.filter (fun e => here e.1)) else ([], [])
  | none => ([], [])

/-- A step table goes to the plate with the release of wait_ring. -/
def State.releaseStep (s : State) (p : Nat) (v : ServingSpec) (rows : List StepRow) : State :=
  (s.putStepTable p v rows).updPart p (fun x => { x with rows := rows, lastRows := rows, releases := x.releases + 1, rerun := none })

/-- The next step table, and the release of wait_ring (R190, R191, R196, R295, R343); after a halt, first the step that it broke
off (R259). -/
def State.assemble (s : State) (p : Nat) : State :=
  match s.serving p with
  | none => s
  | some v =>
    if (s.part p).rows.isEmpty ∧ (s.part p).releases = 0 ∧ ¬ s.partStalled p ∧ s.rd PWR_STATUS_state 0 ≠ 3 ∧
        (s.pstate p = sRUNNING ∨ s.pstate p = sSTOPPING ∨ s.pstate p = sUNLOADING) ∧ ¬ (s.part p).kvDirty then
      let again := s.brokenStep p
      if ¬ again.1.isEmpty then (s.setCommit p again.2).releaseStep p v again.1
      else
        let q := (s.eligible p).foldl (fun (acc : State × List StepRow) i => acc.1.placeRow p v acc.2 i) (s, [])
        if q.2.isEmpty then q.1 else q.1.releaseStep p v q.2
    else s

/-! ### SUBMIT and CANCEL (R187 to R189, R204) -/

/-- A SUBMIT or CANCEL of the table that names a request: its entry. -/
def State.findReq (s : State) (f id : Nat) : Option Nat :=
  slots.find? (fun i => let r := s.req i
    (r.live || r.st == .arriving) && r.vf == f && rqId r.rec_ == id && !r.exhausted && !r.flr)

/-- The parameters of a record are in range (R188). -/
def paramsOk (b : List Byte) : Bool :=
  let t := rqTemperature b
  let tp := rqTopP b
  let rp := rqRepetition b
  rqFlags b / 16 == 0 && leAt b 7 1 == 0 && leAt b 0x70 16 == 0 &&
  isFin t && (isZero t || decide (t.toNat < 2 ^ 31)) && !isNaN tp && flt 0 tp && !flt one32 tp &&
  isPosNormal rp && isFin (rqPresence b) && isFin (rqFrequency b) &&
  decide (rqLpAlts b ≤ 9) && decide (1 ≤ rqMaxNew b) && decide (rqMaxNew b ≤ 262144)

/-- The cause for which a record is refused, 0 for none: the first that applies (R188). -/
def State.submitCause (s : State) (f p : Nat) (b : List Byte) : Nat :=
  if (s.findReq f (rqId b)).isSome then 1
  else if (slots.find? (fun i => (s.req i).st == .free)).isNone then 2
  else if !paramsOk b then 3
  else if rqPromptLen b = 0 ∨ 16 * s.maxPages p < rqPromptLen b then 4
  else if rqShip b ∧ ¬ s.targetOk p (rqShipTarget b) then 5
  else 0

/-- The count table and the overflow word of a slot are cleared (R208). -/
def State.clearCounts (s : State) (p i : Nat) : State :=
  match s.serving p with
  | none => s
  | some v =>
    s.putInts (s.areaAt p v.counts + countBytes * i)
      ((upto 2048).flatMap (fun _ => [noToken, 0]) ++ (upto 8).map (fun _ => 0))

/-- A record taken from a ring of function f: refused by an admin record, or entered in the lowest FREE entry with its
prompt matched (R180, R188, R189). -/
def State.submitReq (s : State) (f : Nat) (b : List Byte) (prompt : List Nat) : State :=
  let p := s.bound.get f
  let c := s.submitCause f p b
  if c ≠ 0 then
    s.adminRecord p f { id := rqId b, token := none, stepNo := rqStepBase b, status := stREFUSED, detail := c }
  else
    match slots.find? (fun i => (s.req i).st == .free) with
    | none => s
    | some i =>
      let toks := (upto (rqPromptLen b)).map (fun k => prompt.getD k 0)
      let s := s.updReq i (fun _ => { st := .admitted, vf := f, part := p, rec_ := b.take 128, prompt := toks, admission := s.dt })
      (s.clearCounts p i).manage p (fun s => s.matchPrompt p i)

/-- A CANCEL of function f (R204). A refusal that concerns no request has no step number to give: a free value. -/
def State.cancelReq (s : State) (f id : Nat) : State :=
  let p := s.bound.get f
  match s.findReq f id with
  | none =>
    (s.drawn).adminRecord p f { id := id, token := none, stepNo := s.freeVal % 2 ^ 32, status := stREFUSED, detail := 6 }
  | some i =>
    let r := s.req i
    if r.st = .shipping then
      s.adminRecord p f { id := id, token := none, stepNo := stepNumber r, status := stREFUSED, detail := 7, holds := r.holds,
                          overflow := r.reported }
    else s.updReq i (fun x => { x with cancel := some (x.cancel.getD s.dt) })

/-! ### Verdicts (R194, R195, R206) -/

/-- The detail for which a delivered token completes its request, 0 for none (R206). -/
def completes (maxPages : Nat) (r : Req) (tok : Nat) : Nat :=
  if (rqStop r.rec_).contains tok then 1
  else if rqMaxNew r.rec_ ≤ r.gen.length + 1 then 2
  else if 16 * maxPages ≤ r.prompt.length + r.gen.length + 1 then 3
  else 0

/-- A verdict: an entry, the request after it, and whether its row appends. -/
structure Verdict where
  entry : Option OutEntry
  req : Req
  append : Bool
  deriving DecidableEq, Repr, Inhabited

/-- An entry without a token. -/
def bareEntry (r : Req) (status : Nat) : OutEntry :=
  { id := rqId r.rec_, token := none, stepNo := stepNumber r, status := status, overflow := r.reported, holds := r.holds }

/-- The request retires. -/
def retiredBy (r : Req) (status : Nat) : Verdict := ⟨some (bareEntry r status), { r with st := .retired }, false⟩

/-- A delivered token: its entry, and the request with the token. -/
def delivered (r : Req) (c : Cand) (status detail : Nat) (ignored : Bool) : OutEntry × Req :=
  ({ id := rqId r.rec_, token := some c.token, stepNo := stepNumber r, status := status, cancelIgnored := ignored,
     overflow := r.reported, detail := detail, holds := r.holds, lp := if rqLpAlts r.rec_ = 0 then none else some (c.lp, c.alts) },
   { r with gen := r.gen ++ [c.token] })

/-- A sampling row whose candidate is not poisoned reports its overflow at this commit, whatever becomes of the token (R198,
R210). -/
def noteOverflow (r : Req) (row : Option StepRow) (c : Cand) : Req :=
  { r with reported := r.reported || (row.any (fun e => e.kind != 1) && !c.poison && c.overflow) }

/-- The verdict of a live request at T_c: the first line of R194 that applies; `faults`: those that poison the partition's steps,
for whose repair a held request waits (R195). -/
def judge (maxPages : Nat) (faults : List Nat) (r : Req) (row : Option StepRow) (c : Cand) (tc : Nat) : Verdict :=
  let r := noteOverflow r row c
  let late := rqDeadline r.rec_ ≠ 0 ∧ rqDeadline r.rec_ ≤ tc
  let cancel := r.cancel.any (fun t => decide (t < tc))
  if r.flr then ⟨none, { r with st := .retired }, false⟩
  else if r.exhausted then retiredBy r stKVEXHAUSTED
  else if late then retiredBy r stDEADLINE
  else match row with
    | none => if cancel then retiredBy r stCANCELLED else ⟨none, r, false⟩
    | some e =>
      let r := { r with lastCommit := tc }
      let samples := e.kind ≠ 1
      let done := completes maxPages r c.token
      let completesNow := samples ∧ ¬ c.numeric ∧ done ≠ 0
      if cancel ∧ ((samples ∧ c.poison) ∨ ¬ completesNow) then retiredBy r stCANCELLED
      else if samples ∧ c.poison then
        if rqHoldLimit r.rec_ ≤ r.holds then retiredBy r stFAULT
        else
          let r := { r with holds := r.holds + 1, heldFor := faults }
          ⟨some (bareEntry r stHELD), r, false⟩
      else if samples ∧ c.numeric then retiredBy r stNUMERIC
      else if e.kind = 1 then ⟨none, { r with st := .prefill }, true⟩
      else if done ≠ 0 then
        let d := delivered r c stCOMPLETE done cancel
        ⟨some d.1, { d.2 with st := .retired }, false⟩
      else if r.reported ∧ rqOverflowRetire r.rec_ then
        let d := delivered r c stCOUNTOVERFLOW 0 false
        ⟨some d.1, { d.2 with st := .retired }, false⟩
      else if e.kind = 2 ∧ rqShip r.rec_ then
        let d := delivered r c stSHIPPED 0 false
        ⟨some d.1, { d.2 with st := .shipping }, true⟩
      else
        let d := delivered r c stOK 0 false
        ⟨some d.1, { d.2 with st := .decode }, true⟩

/-- The candidate of a step's row that a slot has, as the firmware reads it from the Vat (R193). -/
def State.candidate (s : State) (p i : Nat) : Cand :=
  match s.serving p, (s.part p).rows.findIdx? (fun (e : StepRow) => e.slot == i) with
  | some v, some k => Cand.at_ s.vatSees (s.areaAt p v.cands + candBytes * k)
  | _, _ => {}

/-- The verdict of every live request of a partition, by entry. -/
def State.verdicts (s : State) (p : Nat) : List (Nat × Verdict) :=
  (slots.filter (fun i => (s.req i).part == p && ((s.req i).live || (s.req i).st == .arriving))).map (fun i =>
    (i, judge (s.maxPages p) (s.part p).faults (s.req i) ((s.part p).rows.find? (fun (e : StepRow) => e.slot == i)) (s.candidate p i) s.dt))

/-- The commit that a notice's value, its number modulo 2^32, names: the latest such. -/
def Part.commitNo (x : Part) (value : Nat) : Nat := x.commits - (x.commits % 2 ^ 32 + 2 ^ 32 - value % 2 ^ 32) % 2 ^ 32

/-- A retired request leaves its entry; a shipment that is still on its way to it is discarded as it arrives (R189, R213). -/
def State.retireReq (s : State) (p i : Nat) : State :=
  let s := s.freeReq p i
  { s with wins := s.wins.foldl (fun (m : NMap Win) e =>
      match e.2.ship with
      | some x => if x.slot = some i then NMap.set m e.1 { e.2 with ship := some { x with slot := none } } else m
      | none => m) s.wins }

/-- The firmware takes a STEP_COMMIT notice at T_c (R193 to R200): verdicts in one pass, records by VF, releases, the
commit table and the next step. -/
def State.commit (s : State) (p value : Nat) : State :=
  let tc := s.dt
  let part := s.part p
  let vs := s.verdicts p
  let cands := part.rows.foldl (fun (m : NMap Cand) e => m.set e.slot (s.candidate p e.slot)) []
  let s := s.each vs (fun s v => s.updReq v.1 (fun _ => v.2.req))
  let seq := part.commitNo value
  let s := s.each (upto 64) (fun s f =>
    let es := vs.filterMap (fun v => if v.2.req.vf = f then v.2.entry else none)
    if es.isEmpty then s else s.putRecord f (recordBytes 1 p f seq tc es))
  let s := s.each vs (fun s v => if v.2.req.st = .retired then s.retireReq p v.1 else s)
  let s := s.setCommit p (part.rows.map (fun (e : StepRow) => (e, vs.any (fun v => v.1 == e.slot && v.2.append))))
  let s := s.updPart p (fun x => { x with rows := [], committed := cands, prevCommit := tc })
  s.assemble p

/-! ### Notices taken by the firmware (R19, R20) -/

/-- The oldest notice of a partition, taken when it is of the kinds wanted. -/
def State.takeNotice (s : State) (p : Nat) (want : Nat → Bool) (f : State → Nat → State) : State :=
  match (s.part p).notices with
  | [] => s
  | n :: t => if want n.kind then f (s.updPart p (fun x => { x with notices := t })) n.value else s

/-- PAGE_FLUSH (R175, R181). -/
def execPageFlush (p : Fin 16) (s : State) : Result :=
  .next (s.manage p (fun s => s.takeNotice p (· == 0x21) (fun s v => s.flushNode p (bits v 0 10) (bits v 16 14))))

/-- PROOF (R90): the proof and its status byte are in the Vat; the notice is taken. -/
def execProof (p : Fin 16) (s : State) : Result := .next (s.takeNotice p (· == 0x24) (fun s _ => s))

/-- RESERVED_NOTICE (R20): taken without action. -/
def execReservedNotice (p : Fin 16) (s : State) : Result :=
  .next (s.takeNotice p (fun k => !(decide (0x20 ≤ k) && decide (k ≤ 0x24))) (fun s _ => s))

/-- COMMIT (R193, R194). -/
def execCommit (p : Fin 16) (s : State) : Result := .next (s.manage p (fun s => s.takeNotice p (· == 0x20) (fun s v => s.commit p v)))

end Sys2Proof.Machine
end

