-- ==== Sys2Proof/Machine/Egress.lean ====
section
/-! DEFINITION. What a port sends: the sends of a plate, grants, and codewords (R218 to R222, R226, R228, R234, R242,
R243). -/

namespace Sys2Proof.Machine

open Sys2Proof

/-! ### Sends (R220, R228, R242) -/

/-- The physical die bound to a plate's k-th logical die (R83); a plate names no other (R84; log 49). -/
def State.dieOf (s : State) (p k : Nat) : Nat := (((s.part p).bind.map (· / 4)).dedup).getD k 4

/-- The words of a tensor in ascending offset of its image: each row padded to whole words, then the scale rows
(R105; log 47). -/
def tensorWords (t : TDesc) : List Nat :=
  (upto t.nRows).flatMap (fun r => (upto (t.rowBytes / 32)).map (fun i => t.rowByte (rowIdx t r) + 32 * i)) ++
    (if t.mx then (upto (t.nRows * t.scaleRow / 32)).map (fun i => t.scaleOff + 32 * i) else [])

/-- A source word as it leaves: data and code bits. A stack word of an open region gets check bits over its data as
read; one of an unused region reads poisoned (R148, R220). -/
def State.sendWord (s : State) (p : Nat) (t : TDesc) (o : Nat) : W256 × W16 :=
  if t.space = 0 then
    let a := s.tAddr p t o
    match s.buffered a with
    | some x => (x.data, eccCode x.data x.poison)
    | none => (s.vatWord a, s.vatCodeAt a)
  else
    let a := (s.phys p t.unit).getD 16 * 2 ^ 35 + o
    let k := s.kindAt a
    if sealedKind k then (s.stkWord a, s.stkCodeAt a)
    else if k = 2 then (s.stkWord a, eccCode (s.stkWord a) false)
    else (0, eccCode 0 true)

/-- WRITE cells of words from a cell offset on; the last has one word where the source ends on a half cell. -/
def writeCells (win : Nat) : Nat → List (W256 × W16) → List LCell
  | _, [] => []
  | off, [a] => [⟨1, 1, win, 0, off, 0, 0, a.1, 0, a.2, eccCode 0 false⟩]
  | off, a :: b :: t => ⟨1, 3, win, 0, off, 0, 0, a.1, b.1, a.2, b.2⟩ :: writeCells win (off + 1) t

/-- The source of a send lies on the die of its port (R17, R228). -/
def State.sendDieOk (s : State) (p : Nat) (e : SendSpec) : Bool :=
  (s.phys p (TDesc.ofWords e.desc).unit).any (fun q => q / 4 == s.dieOf p e.die)

/-- A SEND notice names send entry i: its cells wait for the port and for the grant of its use. An entry of no group has
no peer binding to translate by, so its cells never leave (R228, R243); one whose source is on another die than its port
sends nothing (R17). -/
def State.startSend (s : State) (p i : Nat) : State :=
  match (s.part p).plate with
  | none => s
  | some pl =>
    match pl.body.sends[i]? with
    | none => s
    | some e =>
      if !s.sendDieOk p e then s
      else
      let t := TDesc.ofWords e.desc
      let cells := writeCells 0 e.offset ((tensorWords t).map (s.sendWord p t))
      let x : Sending := ⟨p, i, 4 * s.dieOf p e.die + e.port, e.group, some e.counter, e.use, e.peer, e.lq, e.window,
        cells, none, false⟩
      { s.edgeUse 1 (if t.space = 0 then (tensorWords t).length else 0) with sendings := s.sendings ++ [x] }

/-- SEND (R228, R242): the source is read in egress slots of a frame after the one in which the notice was posted. -/
def execSend (p : Fin 16) (s : State) : Result :=
  .next (if (s.part p).notices.head?.any (fun n => decide (n.frame < s.gridFrame)) ∧ s.edgeOpen 1 then
      s.settle.takeNotice p (· == 0x22) (fun s v => s.startSend p (bits v 0 16)) else s)

/-! ### Grants (R243) -/

/-- Links of a group by number. -/
def Group.linkNo (g : Group) (i : Nat) : Option GLink := g.links[i]?

/-- GRANT cells for a window's use on the links that feed it. -/
def State.sendGrant (s : State) (p g lq win use : Nat) (feeds : List Nat) : State :=
  let ports := feeds.filterMap (fun i => ((s.group p g).linkNo i).map (·.port))
  s.originate p g 3 (lq + win * 16 + use * 2 ^ 32) 0 (fun l => ports.contains l.port)

/-- The links that feed a window, as the plate names them. -/
def State.feedsOf (s : State) (p lq win : Nat) : Option (Nat × List Nat) :=
  (s.part p).plate.bind (fun pl =>
    (pl.body.windows.find? (fun w => w.lq == lq && w.num == win)).bind (fun w => w.group.map (fun g => (g, w.feeds))))

/-- A GRANT notice: sent when the group is OPEN, held while it is FORMING, without effect otherwise. -/
def State.grantUse (s : State) (p lq win use : Nat) : State :=
  match s.feedsOf p lq win with
  | none => s
  | some (g, feeds) =>
    match (s.group p g).state with
    | 1 => s.updGroup p g (fun x => { x with heldGrants := x.heldGrants ++ [(lq, win, use)] })
    | 2 => s.sendGrant p g lq win use feeds
    | _ => s

/-- GRANT (R243). -/
def execGrant (p : Fin 16) (s : State) : Result :=
  .next (s.takeNotice p (· == 0x23) (fun s v => s.grantUse p (bits v 0 4) (bits v 4 5) (bits v 32 32)))

/-! ### Codewords out (R218, R221, R222, R226, R234) -/

/-- LINK, TIME and MGMT cells have their own credits. -/
def ctlType (c : LCell) : Bool := c.typ == 3 || c.typ == 4 || c.typ == 5

/-- Whether a port in a state sends cells of a type: WRITE and NOTICE in UP and QUARANTINED only; LINK from AUTH on; TIME
and MGMT once authenticated (R225, R234, R235). -/
def sendsType (st typ : Nat) : Bool :=
  if typ = 5 then st == pAUTH || st == pLOW || st == pFULLTRAIN || st == pUP || st == pQUAR
  else if typ = 3 ∨ typ = 4 then st == pLOW || st == pFULLTRAIN || st == pUP || st == pQUAR
  else st == pUP || st == pQUAR

/-- A port that exchanges codewords. -/
def codewords (st : Nat) : Bool := st == pAUTH || st == pLOW || st == pFULLTRAIN || st == pUP || st == pQUAR

/-- Whether a port may send one more sequenced cell of a kind: a credit and a place in the replay buffer. -/
def Port.room (x : Port) (control : Bool) : Bool :=
  decide (x.replay.length < 8192) && (if control then decide (0 < x.ctlCredits) else decide (0 < x.credits))

/-- A sequenced cell goes out: its sequence and header check, the replay buffer, the credit. DESIGN CHOICE (log 94): the credit of
a LINK, TIME or MGMT cell returns with the ack that covers it, as a credit tag counts one pool only (R218, R222). -/
def Port.send (x : Port) (c : LCell) : Port × LCell :=
  let c := sequenced c x.txSeq
  ({ x with
      txSeq := (x.txSeq + 1) % 65536
      replay := x.replay ++ [c]
      ctlCredits := if ctlType c then x.ctlCredits - 1 else x.ctlCredits
      credits := if ctlType c then x.credits else x.credits - 1 }, c)

/-- The first waiting cell of the egress queue that may leave. -/
def State.nextQueued (s : State) (j : Nat) : Option (Nat × LCell) :=
  let x := s.port j
  let st := s.portState j
  ((x.egress.mapIdx (fun i c => (i, c))).find? (fun e => sendsType st e.2.typ && x.room (ctlType e.2)))

/-- The highest use of a shipment's window that the sender holds a grant for: a request's own shipment, or one passed on
(R254). -/
def State.shipUseOf (s : State) (entry : Nat) : Nat :=
  if entry < 131072 then (s.reqs.get (entry - 65536)).shipUse
  else (((s.wins.get (entry - 131072)).ship).map (·.nextUse)).getD 0

/-- The grant a send waits for: its group's link to the peer on the port, and the physical window id it gives. A shipment
names its window itself, and its chunks are the uses of it (R254). An entry of no group has none. -/
def State.sendWindow (s : State) (x : Sending) : Option Nat :=
  if 65536 ≤ x.entry then (if x.use ≤ s.shipUseOf x.entry then some x.win else none)
  else match x.group with
    | none => none
    | some n =>
      let g := s.group x.part n
      match g.links.findIdx? (fun l => l.port == x.port && l.peer == x.peer) with
      | none => none
      | some i =>
        if g.state = 2 ∧ x.use ≤ g.grants.get (i * 512 + x.lq * 32 + x.win) ∧ 0 < x.use then
          (g.links[i]?).map (fun l => 32 * (bits l.binding (4 * x.lq) 4 % 4) + x.win)
        else none

/-- The first send with a cell that may leave by a port (R228, R243). -/
def State.nextSending (s : State) (j : Nat) : Option (Nat × Nat) :=
  (s.sendings.mapIdx (fun i x => (i, x))).findSome? (fun e =>
    if e.2.port = j ∧ ¬ e.2.cells.isEmpty then (s.sendWindow e.2).map (fun w => (e.1, w)) else none)

/-- A cell of the handshake is part of its transcript (R225). -/
def Port.noteHs (x : Port) (st : Nat) (c : LCell) : Port :=
  if st = pAUTH ∧ c.typ = 5 ∧ c.aux = Config.linkAux 0 % 65536 then { x with hsTx := x.hsTx ++ [c] } else x

/-- The cell for the next slot: a replayed one first, then the egress queue, then the sends in posting order (log 48). A port
that may not send a type holds its cells, replayed ones too (R234, R235). -/
def State.nextCell (s : State) (j : Nat) : State × Option LCell :=
  let x := s.port j
  let st := s.portState j
  match x.resend with
  | c :: t =>
    if sendsType st c.typ then ((s.updPort j (fun y => { y with resend := t })).incSat LRT_PORT_REPLAY_replayed j 1, some c)
    else (s, none)
  | [] =>
    match s.nextQueued j with
    | some (i, c) =>
      let q := { x with egress := x.egress.eraseIdx i }.send c
      ((s.updPort j (fun _ => q.1.noteHs st q.2)).noteLeft j q.2, some q.2)
    | none =>
      if sendsType st 1 ∧ x.room false then
        match s.nextSending j with
        | none => (s, none)
        | some (i, w) =>
          match (s.sendings[i]?).bind (fun y => y.cells.head?) with
          | none => (s, none)
          | some c =>
            let q := x.send { c with window := w }
            ({ s.updPort j (fun _ => q.1) with
                sendings := s.sendings.modify i (fun y => { y with cells := y.cells.drop 1, last := some q.2.seq }) }, some q.2)
      else (s, none)

/-- Fill slots in order. -/
def State.fillSlots (s : State) (j : Nat) : Nat → State × List LCell
  | 0 => (s, [])
  | n + 1 =>
    let q := s.nextCell j
    let r := q.1.fillSlots j n
    match q.2 with
    | some c => (r.1, c :: r.2)
    | none => (r.1, sequenced (ctlCell 0 0 0 0) 0 :: r.2)

/-- The tag that goes next: a nak first, then the oldest of the others. -/
def nextTag (ts : List LTag) : LTag × List LTag :=
  match ts.findIdx? (fun t => t.kind == 3) with
  | some i => ((ts[i]?).getD ⟨0, 0⟩, ts.eraseIdx i)
  | none => (ts.headD ⟨0, 0⟩, ts.drop 1)

/-- A SEAL cell: the GCM tag in bytes 0 to 15, other bytes zero (R226). The model keeps it as the header fields and the
payload that those bytes make. -/
def sealCell (tag : Nat) : LCell := ⟨6, 0, 0, 0, 0, 0, 0, BitVec.ofNat 256 tag, 0, 0, 0⟩

/-- The nonce of a codeword: the direction in bit 95, 0 from the initiator, and the codeword count (R226; log 21). -/
def Port.gcmNonce (x : Port) : Nat := b2n (!x.initiator) * 2 ^ 95 + x.cwCount % 2 ^ 64

/-- One codeword starts on a port (R218, R226). A link whose keys have sealed 2^40 codewords goes DOWN, as one whose rekeying
has failed (R226, R227; log 21). -/
def State.transmit (s : State) (j : Nat) : State :=
  let enc := s.on LRT_PORT_STATUS_encrypted j
  if codewords (s.portState j) ∧ enc ∧ 2 ^ 40 ≤ (s.port j).cwCount then (s.portDown j pDOWN).fault 0x0805 (.port j)
  else if codewords (s.portState j) then
    let q := s.fillSlots j (if enc then 7 else 8)
    let s := q.1
    let t := nextTag (s.port j).tags
    let s := s.updPort j (fun x => { x with tags := t.2, lastSent := if q.2.any (fun c => c.typ != 0) then s.dt else x.lastSent })
    match enc, (s.port j).keys with
    | true, some k =>
      let sealed := Config.seal k.1 (s.port j).gcmNonce q.2
      (s.updPort j (fun x => { x with cwCount := x.cwCount + 1 })).emit
        (.codeword j (sealed.1 ++ [sealCell (bits sealed.2.toNat 0 128)]) t.1 true)
    | _, _ => s.emit (.codeword j q.2 t.1 enc)
  else s

/-- CODEWORD_TRANSMIT (R218). -/
def execCodewordTransmit (j : Fin 16) (s : State) : Result := .next (s.transmit j)

end Sys2Proof.Machine
end

