-- ==== Sys2Proof/Machine/Ingress.lean ====
section
/-! DEFINITION. What a port receives: codewords, WRITE cells at their windows, drops and quarantine; and the opening and
closing of software windows (R217 to R222, R229 to R235, R239). -/

namespace Sys2Proof.Machine

open Sys2Proof

/-! ### Windows as memory (R230) -/

/-- Bytes of a window. -/
def winSize (t : TDesc) : Nat := t.ext 0 * (if t.rank = 2 then t.ext 1 else 1)

/-- The physical quarter or half of a window. -/
def State.winUnit (s : State) (w : Win) : Nat :=
  let t := TDesc.ofWords w.desc
  if w.plate then (s.phys w.owner t.unit).getD 16 else t.unit

/-- The physical address of image byte b of a window, a Vat or a stack address by its space. -/
def State.winAddr (s : State) (w : Win) (b : Nat) : Nat :=
  let t := TDesc.ofWords w.desc
  if t.space = 0 then vatPlace (s.winUnit w) (t.off + b) t.shift t.mask else s.winUnit w * 2 ^ 35 + t.off + b

/-! ### Drops (R233, R234) -/

abbrev dSTATE : Nat := 0
abbrev dTYPE : Nat := 1
abbrev dCLOSED : Nat := 2
abbrev dPORT : Nat := 3
abbrev dPEER : Nat := 4
abbrev dCLEAR : Nat := 5
abbrev dRANGE : Nat := 6
abbrev dREGION : Nat := 7

/-- A drop of a port in UP counts toward its limit in the current drop window. -/
def State.countDrop (s : State) (j : Nat) : State :=
  let limit := s.rd LRT_PORT_CTRL_dropLimit j
  if s.portState j = pUP then
    let k := s.dt / 100000
    let x := s.port j
    let n := (if x.dropWin = k then x.drops else 0) + 1
    let s := s.updPort j (fun y => { y with dropWin := k, drops := n })
    if limit ≠ 0 ∧ limit ≤ n then (s.setPortState j pQUAR).fault 0x0806 (.port j) else s
  else s

/-- A cell is dropped with a cause. -/
def State.dropCell (s : State) (j : Nat) (c : LCell) (cause : Nat) : State :=
  let s := s.inc LRT_PORT_DROP_count (j * 8 + cause) 1
  let s := if c.typ = 1 then s.updWin (winKey (j / 4) c.window) (fun w => { w with drops := w.drops + 1 }) else s
  s.countDrop j

/-- A cell leaves the ingress buffer, and its credit returns (R222). -/
def State.takeCell (s : State) (j : Nat) (c : LCell) : State :=
  let x := s.port j
  if x.ingress.contains c then
    let tags := if ctlType c then x.tags
      else if x.tags.any (fun t => t.kind == 1) then
        x.tags.map (fun (t : LTag) => if t.kind = 1 then { t with value := (t.value + 1) % 65536 } else t)
      else x.tags ++ [⟨1, 1⟩]
    s.updPort j (fun y => { y with ingress := y.ingress.erase c, tags := tags })
  else s

/-- The cause for which a port in a state does not accept a type, none where it does (R225, R233 to R235). -/
def typeCause (st typ : Nat) : Option Nat :=
  if 7 ≤ typ ∨ typ = 0 ∨ typ = 6 then some dTYPE
  else if typ = 5 then none
  else if typ = 4 then (if codewords st && st != pAUTH then none else some dTYPE)
  else if typ = 3 then (if st == pLOW || st == pFULLTRAIN || st == pUP then none else some dSTATE)
  else if st = pUP then none else some dSTATE

/-- WRITE cells and the NOTICE cells FORM and WITHDRAW act in the order of their sequences (R244). -/
def ordered (c : LCell) : Bool := c.typ == 1 || (c.typ == 2 && (c.aux == 1 || c.aux == 5))

/-- A cell that must act before another, where it came earlier: of two ordered cells the first, and of other cells of one
type (R244, R250). -/
def actsBefore (e c : LCell) : Bool := if ordered c then ordered e else e.typ == c.typ && !ordered e

/-- It is a cell's turn: no cell waits in the ingress buffer that came before it and acts before it. A cell that is not in the
buffer arrives after all that are. -/
def Port.turn (x : Port) (c : LCell) : Bool := !((x.ingress.takeWhile (· != c)).any (fun e => actsBefore e c))

/-- A cell of a type is taken from its port in its turn: dropped where the port's state does not accept it, left where its
crossbar input is quarantined (R282). Answers whether it is to be acted on. -/
def State.accept (s : State) (j : Nat) (c : LCell) (typ : Nat) : State × Bool :=
  if s.portState j ≤ pDOWN ∨ bit (s.rd SVC_QUAR_quarantined 0) (12 + j) ∨ !(s.port j).turn c then (s, false)
  else
    let s := s.takeCell j c
    if c.typ ≠ typ then (s.dropCell j c dTYPE, false)
    else match typeCause (s.portState j) typ with
      | some cause => (s.dropCell j c cause, false)
      | none => (s, true)

/-! ### WRITE cells (R220, R230, R233, R239) -/

/-- The cause that drops a WRITE cell at its window, the first that applies. -/
def State.writeCause (s : State) (j : Nat) (c : LCell) : Option Nat :=
  let w := s.win (winKey (j / 4) c.window)
  let t := TDesc.ofWords w.desc
  let present := (upto 2).filter (fun i => bit c.mask i)
  if w.state ≠ 1 then some dCLOSED
  else if !bit w.mask (j % 4) then some dPORT
  else if w.fp ≠ 0 ∧ w.fp ≠ s.reg (LRT_PORT_PEER_fingerprint.addr j) then some dPEER
  else if w.enc ∧ ¬ s.on LRT_PORT_STATUS_encrypted j then some dCLEAR
  else if winSize t < 64 * c.offset + 64 then some dRANGE
  else if t.space = 1 ∧ present.any (fun i => !sealedKind (s.kindAt (s.winAddr w (64 * c.offset + 32 * i)))) then some dREGION
  else none

/-- A window gains the bytes and the cell of a delivered cell. -/
def State.countCell (s : State) (k bytes : Nat) : State := s.updWin k (fun w => { w with bytes := w.bytes + bytes, cells := w.cells + 1 })

/-- A word at its destination: what the end-to-end check makes of it (R220). -/
def State.landWord (s : State) (k : Nat) (w : Win) (b : Nat) (d : W256) (code : W16) (cell bytes : Nat) : State :=
  let t := TDesc.ofWords w.desc
  let a := s.winAddr w b
  let r := eccRead d code
  let loc := if t.space = 0 then Loc.vat a else Loc.stack a
  let x : W256 × W16 := r.res.pick (d, code) (r.data, eccCode r.data r.poison) (r.data, eccCode r.data true)
  let s := r.res.pick s (s.logEvent 0x0803 (some w.owner) false loc r.detail) (s.logEvent 0x0804 (some w.owner) false loc r.detail)
  let s := s.refetchLanded k (r.poison || r.res == .uncorrectable)
  if t.space = 0 then (s.vatRaw a x.1 x.2).edgeUse 0 1
  else if s.streaming (stkHalf a) (stkBank a) ∨ s.waitsHeld a then s.hold ⟨a, x.1, x.2, fullMask, false, some (k, cell), bytes⟩
  else s.svcLand a x.1 x.2

/-- An accepted cell: each present word written whole, and the counts once both are (R233, R239). -/
def State.acceptCell (s : State) (j : Nat) (c : LCell) : State :=
  let k := winKey (j / 4) c.window
  let w := s.win k
  let bytes := 32 * (b2n (bit c.mask 0) + b2n (bit c.mask 1))
  let n := s.cellSeq
  let s := { s with cellSeq := n + 1 }
  let s := if bit c.mask 0 then s.landWord k w (64 * c.offset) c.w0 c.c0 n bytes else s
  let s := if bit c.mask 1 then s.landWord k w (64 * c.offset + 32) c.w1 c.c1 n bytes else s
  if s.held.any (fun h => h.win == some (k, n)) then s else s.countCell k bytes

/-- A cell for a Vat window that no edge slot can carry waits in its port's buffer (R98, R222; log 57). -/
def State.cellWaits (s : State) (j : Nat) (c : LCell) : Bool :=
  let w := s.win (winKey (j / 4) c.window)
  w.state == 1 && (TDesc.ofWords w.desc).space == 0 && !s.edgeOpen 0

/-- WRITE_CELL (R233). -/
def State.writeCell (s : State) (j : Nat) (c : LCell) : State :=
  let q := if s.cellWaits j c then (s, false) else s.accept j c 1
  if q.2 then
    match q.1.writeCause j c with
    | some cause => q.1.dropCell j c cause
    | none => q.1.acceptCell j c
  else q.1

def execWriteCell (j : Fin 16) (c : LCell) (s : State) : Result := .next (s.settle.writeCell j c)

/-- QUARANTINE_CLEAR (R234): a QUARANTINED port returns to UP. -/
def State.quarantineClear (s : State) (j : Nat) : State := if s.portState j = pQUAR then s.setPortState j pUP else s

/-! ### Codewords in (R217, R218, R221, R222) -/

/-- Corrected symbols by codeword and wavelength, in the rolling span of the last 2^20 codewords (R217). -/
def State.countSymbols (s : State) (j : Nat) (cs : List (Nat × Nat)) : State :=
  let s := s.incSat LRT_PORT_FEC_corrected j (cs.foldl (fun n e => n + e.2) 0)
  s.updPort j (fun x =>
    let n := x.span + 1
    { x with
      sym := (cs.foldl (fun (m : NMap Nat) e => m.upd (32 * n + e.1) (· + e.2)) x.sym).keep (fun k => decide (n < k / 32 + 2 ^ 20))
      span := n })

/-- A nak with the sequence expected next. -/
def State.sendNak (s : State) (j : Nat) : State :=
  (s.updPort j (fun x => { x with discarding := true, tags := x.tags ++ [⟨3, x.rxSeq⟩] })).incSat LRT_PORT_REPLAY_naks j 1

/-- The codeword is discarded; after 64 in a row the port goes DOWN. -/
def State.discard (s : State) (j : Nat) : State :=
  let s := s.sendNak j
  let s := s.updPort j (fun x => { x with discards := x.discards + 1 })
  if 64 ≤ (s.port j).discards then s.portDown j pDOWN else s

/-- The distance from one sequence to a later one. -/
def seqDist (a b : Nat) : Nat := (b + 65536 - a % 65536) % 65536

/-- Sends whose every cell is acknowledged count in their send counter and end (R242). -/
def State.finishSends (s : State) (j : Nat) : State :=
  let unacked (q : Nat) : Bool := (s.port j).replay.any (fun c => c.seq == q)
  let done (x : Sending) : Bool := x.port == j && x.cells.isEmpty && !x.cut && !(x.last.any unacked)
  let s' := s.each (s.sendings.filter done) (fun s x => match x.counter with
    | some k => s.updPart x.part (fun y => { y with sends := y.sends.upd k (· + 1) })
    | none => s)
  { s' with sendings := s'.sendings.filter (fun x => !done x) }

/-- An ack of every cell up to a sequence. -/
def State.acked (s : State) (j seq : Nat) : State :=
  let x := s.port j
  match x.replay.findIdx? (fun c => c.seq == seq) with
  | none => s
  | some i =>
    let gone := x.replay.take (i + 1)
    let s := s.updPort j (fun y =>
      { y with
        replay := y.replay.drop (i + 1)
        resend := y.resend.filter (fun c => !gone.any (fun g => g.seq == c.seq))
        ctlCredits := Nat.min 64 (y.ctlCredits + (gone.filter ctlType).length) })
    s.finishSends j

/-- Link control in a tag: credit, ack, or nak (R218, R221; log 48). -/
def State.handleTag (s : State) (j : Nat) (t : LTag) : State :=
  match t.kind with
  | 1 => s.updPort j (fun x => { x with credits := Nat.min 8192 (x.credits + t.value) })
  | 2 => s.acked j t.value
  | 3 =>
    let s := s.acked j ((t.value + 65535) % 65536)
    s.updPort j (fun x => { x with resend := x.replay.filter (fun c => decide (seqDist t.value c.seq < 32768)) })
  | _ => s

/-- A sequenced cell in order reaches the ingress buffer; a full buffer is an overrun of a far end that sends without
credit, and the port goes DOWN (R222, R234). LINK cells are consumed by the link, those of a handshake as part of its
transcript (R225); what makes one malformed is a free value, and a malformed one counts as TYPE (R234; log 67). A cell of a
reserved type or kind is dropped, with STATE where the port's state does not accept its type at all (R225, R233, R235). -/
def State.deliver (s : State) (j : Nat) (c : LCell) : State :=
  let x := s.port j
  let full := if ctlType c then decide (64 ≤ (x.ingress.filter ctlType).length)
    else decide (8192 ≤ (x.ingress.filter (fun e => !ctlType e)).length)
  let reserved := decide (7 ≤ c.typ) || (c.typ == 2 && !(decide (1 ≤ c.aux) && decide (c.aux ≤ 7)))
  let s := s.updPort j (fun y =>
    { y with
      rxSeq := (y.rxSeq + 1) % 65536
      discarding := false
      tags := y.tags.filter (fun t => t.kind != 2) ++ [⟨2, c.seq⟩] })
  if full then (s.incSat LRT_PORT_REPLAY_naks j 1).portDown j pDOWN
  else if c.typ = 5 then
    (if s.freeVal % 2 = 1 then s.drawn.dropCell j c dTYPE
     else if s.portState j = pAUTH ∧ c.aux = Config.linkAux 0 % 65536 then s.drawn.updPort j (fun y => { y with hsRx := y.hsRx ++ [c] })
     else s.drawn)
  else if reserved then
    (s.updPort j (fun y => { y with ingress := y.ingress ++ [c] })).takeCell j c |>.dropCell j c ((typeCause (s.portState j) c.typ).getD dTYPE)
  else s.updPort j (fun y => { y with ingress := y.ingress ++ [c] })

/-- A cell of a good codeword: idle and seal cells are not sequenced; one out of order is ignored, as a replayed or a
later cell is (R221). -/
def State.receiveCell (s : State) (j : Nat) (c : LCell) : State :=
  if c.typ = 0 ∨ c.typ = 6 ∨ s.portState j ≤ pDOWN then s
  else if c.seq = (s.port j).rxSeq then s.deliver j c
  else s

/-- CODEWORD_RECEIVE (R221). -/
def State.receive (s : State) (j : Nat) (w : Codeword) : State :=
  if s.portState j ≤ pDOWN then s
  else
    let s := s.countSymbols j w.corrected
    let bad := w.bad || w.cells.any (fun c => c.typ != 6 && c.hcrc != cellCrc c) || (s.on LRT_PORT_STATUS_encrypted j && !w.gcmOk)
    if bad then (if w.bad then s.incSat LRT_PORT_FEC_uncorrectable j 1 else s).discard j
    else
      let s := s.updPort j (fun x => { x with discards := 0 })
      let s := s.handleTag j w.tag
      s.each w.cells (fun s c => s.receiveCell j c)

def execCodewordReceive (j : Fin 16) (w : Codeword) (s : State) : Result :=
  s.act (codewordOk w) (fun s => s.receive j w)

/-! ### Software windows (R230 to R232) -/

/-- The window that LRT_WIN_SEL_d selects. -/
def State.selWin (s : State) (d : Nat) : Nat := winKey d (s.rd LRT_WIN_SEL_window d)

/-- Quarters that a window of an owner may lie in: those it holds, or while STOPPED those its mask names. -/
def State.ownerQuarter (s : State) (p q : Nat) : Bool :=
  bit (s.rd PART_STATUS_held p) q || (s.pstate p == sSTOPPED && bit (s.rd PART_CFG_quarters p) q)

/-- The additional conditions of R230 on a window's descriptor. -/
def winShape (t : TDesc) : Bool :=
  (t.rank == 1 || (t.rank == 2 && (t.dim 1).stride == t.ext 0)) && t.fmt == 0xA && t.dims.all (fun d => d.kind == 0) &&
  t.ext 0 % 64 == 0 && !t.ro

/-- The regions that a stack window covers. -/
def winRegions (t : TDesc) : List Nat :=
  let a := t.off / 2 ^ 21
  (upto ((t.off + winSize t + (2 ^ 21 - 1)) / 2 ^ 21 - a)).map (a + ·)

/-- The cause of R108 for which a window does not open, 0 where it does: `within` tells which units it may lie in. A break of
an additional condition is FORMAT, in FORMAT's place of R108's table (log 81). -/
def State.winCause (s : State) (ws : List W64) (within : Nat → Bool) (unitOf : Nat → Nat) : Nat :=
  let t := TDesc.ofWords ws
  let c := descCause ws within
  let units := (upto ((t.off + winSize t - 1) / 2 ^ spaceBits t.space + 1)).map (t.unit + ·)
  if c = 1 then 1
  else if !winShape t ∨ !units.all within ∨
      (t.space = 1 ∧ (winRegions t).any (fun r => !sealedKind (s.kindOf (unitOf t.unit) r))) then 2
  else c

/-- LRT_WIN_CMD open of a software window: counts cleared; an open of a plate's window or of one that is not CLOSED sets
cmd_err, a bad descriptor its cause. -/
def State.winOpen (s : State) (d : Nat) : State :=
  let k := s.selWin d
  let w := s.win k
  if s.rd LRT_WIN_SEL_window d < 128 ∨ w.state ≠ 0 then s.updWin k (fun w => { w with cmdErr := true })
  else
    let c := s.winCause w.desc (fun q => q / 4 == d && s.ownerQuarter w.owner q) id
    if c = 0 then s.updWin k (fun w => { w with state := 1, bytes := 0, cells := 0, drops := 0, closeReq := false })
    else (s.updWin k (fun w => { w with cause := c })).logEvent (0x0400 + c) (some w.owner) false .none 0

/-- LRT_WIN_CMD close: takes effect at the next frame start. -/
def State.winClose (s : State) (d : Nat) : State :=
  let k := s.selWin d
  if s.rd LRT_WIN_SEL_window d < 128 then s.updWin k (fun w => { w with cmdErr := true })
  else s.closeWin k

end Sys2Proof.Machine
end

