-- ==== Sys2Proof/Machine/Groups.lean ====
section
/-! DEFINITION. Collective groups: formation, GRANT, SLOW and WITHDRAW as they arrive, the close of a withdrawn
partition's windows, and shipments (R211 to R213, R243, R248 to R258). -/

namespace Sys2Proof.Machine

open Sys2Proof

/-! ### Formation (R249, R250) -/

/-- The quarter binding as FORM carries it: nibble n is the physical quarter of logical quarter n. -/
def bindingWord (b : List Nat) : Nat := b.reverse.foldl (fun n q => n * 16 + q % 16) 0

/-- Word 1 of a FORM cell. -/
def State.formWord (s : State) (p members : Nat) : Nat :=
  let b := (s.part p).bind
  s.moduleId p + bindingWord b * 2 ^ 128 + b.length % 2 ^ 8 * 2 ^ 192 + (members - 1) % 2 ^ 12 * 2 ^ 200

/-- A group at plate load: CLOSED with tag 0, OPEN with no link, else FORMING with FORM sent on each link. Sequences go on
within one tag and epoch. -/
def State.formGroup (s : State) (p : Nat) (v : GroupSpec) : State :=
  let links := v.links.map (fun (l : LinkSpec) => ({ port := 4 * s.dieOf p l.die + l.port, peer := l.peer, fp := l.fingerprint } : GLink))
  let s := s.updGroup p v.g (fun x =>
    let same := x.inTag == x.tag && x.inEpoch == x.epoch
    { x with
      inTag := x.tag
      inEpoch := x.epoch
      state := if x.tag = 0 then 0 else if links.isEmpty then 2 else 1
      member := v.member
      members := v.members
      cause := 0
      origin := 0
      links := links
      slow := []
      seen := if same then x.seen else []
      seq := if same then x.seq else 0
      heldGrants := []
      grants := [] })
  if (s.group p v.g).state = 1 then s.originate p v.g 1 0 (s.formWord p v.members) (fun _ => true) else s

/-- A FORMING group with FORM and FORM_ACK on every link is OPEN, and its held grants leave (R243, R249). -/
def State.checkOpen (s : State) (p g : Nat) : State :=
  let x := s.group p g
  if x.state = 1 ∧ x.links.all (fun l => l.form && l.ack) then
    let s := s.updGroup p g (fun y => { y with state := 2, heldGrants := [] })
    s.each x.heldGrants (fun s h =>
      match s.feedsOf p h.1 h.2.1 with
      | some (_, feeds) => s.sendGrant p g h.1 h.2.1 h.2.2 feeds
      | none => s)
  else s

/-- Change the link of a group on a port. -/
def State.updLink (s : State) (k j : Nat) (f : GLink → GLink) : State :=
  { s with groups := s.groups.upd k (fun x => { x with links := x.links.map (fun l => if l.port = j then f l else l) }) }

/-- A NOTICE cell of a kind is taken from its port (R250). -/
def State.admitNotice (s : State) (j : Nat) (c : LCell) (kind : Nat) : State × Bool :=
  if c.aux = kind then s.accept j c 2 else (s, false)

/-- The group of a port's die that a NOTICE cell's tag and epoch name (R250). -/
def State.namedGroup (s : State) (j : Nat) (c : LCell) : Option Nat :=
  (s.groups.find? (fun e => e.2.state != 0 && e.2.inTag == noticeTag c && e.2.inEpoch == noticeEpoch c &&
    e.2.links.any (fun l => l.port / 4 == j / 4))).map (·.1)

/-- A NOTICE cell that names a group acts on it, one that names none is dropped with cause TYPE (R250). -/
def State.onNotice (s : State) (j : Nat) (c : LCell) (kind : Nat) (f : State → Nat → State) : State :=
  let q := s.admitNotice j c kind
  if q.2 then
    match q.1.namedGroup j c with
    | some k => f q.1 k
    | none => q.1.dropCell j c dTYPE
  else q.1

/-- A FORM cell's claims agree with a group's own (R249). -/
def State.formAgrees (s : State) (k j : Nat) (c : LCell) : Bool :=
  let x := s.groups.get k
  let w := c.w1.toNat
  noticeEpoch c == x.inEpoch && bits w 0 128 == s.moduleId (k / 16) && bits w 200 12 + 1 == x.members &&
    x.links.all (fun l => l.port != j || (match l.fp with
      | none => true
      | some f => f == s.reg (LRT_PORT_PEER_fingerprint.addr j)))

/-- FORM (R249): matched by its tag and the link it arrives on. -/
def State.recvForm (s : State) (j : Nat) (c : LCell) : State :=
  let q := s.admitNotice j c 1
  let s := q.1
  if q.2 then
    match s.groups.find? (fun e => e.2.state != 0 && e.2.inTag == noticeTag c && e.2.links.any (fun l => l.port == j)) with
    | none => s.dropCell j c dTYPE
    | some (k, x) =>
      if x.state = 3 then s
      else if s.formAgrees k j c then
        let s := s.updLink k j (fun l => { l with form := true, binding := bits c.w1.toNat 128 64 })
        (s.originate (k / 16) (k % 16) 2 0 0 (fun l => l.port == j)).checkOpen (k / 16) (k % 16)
      else
        ({ s with groups := s.groups.upd k (fun y => { y with mismatch := true }) }).logEvent 0x0901 (some (k / 16)) false (.port j) 0
  else s

def execForm (j : Fin 16) (c : LCell) (s : State) : Result := .next (s.recvForm j c)

/-- FORM_ACK (R249). -/
def State.recvFormAck (s : State) (j : Nat) (c : LCell) : State :=
  s.onNotice j c 2 (fun s k =>
    if (s.groups.get k).live then (s.updLink k j (fun l => { l with ack := true })).checkOpen (k / 16) (k % 16) else s)

def execFormAck (j : Fin 16) (c : LCell) (s : State) : Result := .next (s.recvFormAck j c)

/-! ### GRANT (R243, R254) -/

/-- The shipment that a GRANT from a port for a physical window id concerns: the request that sends it, or the window that
passes it on, by key of its sends. DESIGN CHOICE (log 43), as R254 has GRANT cells for software windows and R250 gives them no
field of their own: a software window's id stands in the bits of logical quarter and window number, taken together. -/
def State.shipGrantOf (s : State) (j k n : Nat) : Option Nat :=
  match slots.find? (fun i => (s.req i).st == .shipping && (s.req i).shipSent && (s.req i).shipFrom.any (fun f => f.1 == j && f.2.1 == k && f.2.2.2 == n)) with
  | some i => some (65536 + i)
  | none => (s.wins.find? (fun e => e.2.ship.any (fun x => x.key == k && x.next == some (j, n) && 0 < x.chunk))).map (fun e => 131072 + e.1)

/-- A grant for the next chunk of a shipment. -/
def State.noteShipGrant (s : State) (j k n use : Nat) : State :=
  match s.shipGrantOf j k n with
  | none => s
  | some e =>
    if e < 131072 then s.updReq (e - 65536) (fun r => { r with shipUse := Nat.max r.shipUse use })
    else s.updWin (e - 131072) (fun w => { w with ship := w.ship.map (fun x => { x with nextUse := Nat.max x.nextUse use }) })

/-- GRANT_CELL: the highest use granted for a window of the neighbour on the arriving link. -/
def State.recvGrant (s : State) (j : Nat) (c : LCell) : State :=
  s.onNotice j c 3 (fun s k =>
    let x := s.groups.get k
    let w := c.w0.toNat
    if (s.shipGrantOf j k (bits w 128 9)).isSome then s.noteShipGrant j k (bits w 128 9) (bits w 160 32)
    else match x.links.findIdx? (fun l => l.port == j) with
    | some i =>
      if x.live then
        { s with groups := s.groups.upd k (fun y =>
            { y with grants := y.grants.upd (i * 512 + bits w 128 4 * 32 + bits w 132 5) (fun u => Nat.max u (bits w 160 32)) }) }
      else s
    | none => s)

def execGrantCell (j : Fin 16) (c : LCell) (s : State) : Result := .next (s.recvGrant j c)

/-! ### SLOW and WITHDRAW (R251, R256 to R258) -/

/-- The cell's sequence is higher than any accepted from its origin (R251). A member's own notices come back to it and
are none of them higher. -/
def Group.fresh (x : Group) (c : LCell) : Bool :=
  noticeOrigin c != x.member && decide (x.seen.get (noticeOrigin c) < noticeSeq c)

/-- The sequence is the highest accepted from its origin. -/
def State.noteSeq (s : State) (k : Nat) (c : LCell) : State :=
  { s with groups := s.groups.upd k (fun y => { y with seen := y.seen.set (noticeOrigin c) (noticeSeq c) }) }

/-- An origin's factor until a time, in place of its earlier one; a factor of 16 or below cancels; the event bit where the
effective factor changes (R256). -/
def State.setSlow (s : State) (k origin factor until_ : Nat) : State :=
  let before := s.slowF (s.groups.get k)
  let s := { s with groups := s.groups.upd k (fun y =>
    { y with slow := y.slow.set origin (if factor ≤ 16 then (0, 0) else (factor, until_)) }) }
  if s.slowF (s.groups.get k) = before then s else { s with groups := s.groups.upd k (fun y => { y with slowSeen := true }) }

/-- SLOW: the origin's factor until its time; a factor of 16 or below cancels; passed on to every other link. -/
def State.recvSlow (s : State) (j : Nat) (c : LCell) : State :=
  s.onNotice j c 4 (fun s k =>
    if (s.groups.get k).fresh c then
      let w := c.w0.toNat
      let s := s.noteSeq k c
      if bits w 192 64 ≤ s.dt then s
      else (s.setSlow k (noticeOrigin c) (bits w 128 12) (bits w 192 64)).sendLinks (k / 16) (k % 16) (fun l => l.port != j) c
    else s)

def execSlow (j : Fin 16) (c : LCell) (s : State) : Result := .next (s.recvSlow j c)

/-- WITHDRAW: the link has nothing more of the group to bring; a live group withdraws with the cell's cause and origin. A
cell newer than its origin's last is passed on on every link, also by a group that has withdrawn already (R251, R258). -/
def State.recvWithdraw (s : State) (j : Nat) (c : LCell) : State :=
  s.onNotice j c 5 (fun s k =>
    let p := k / 16
    let g := k % 16
    let s := s.updLink k j (fun l => { l with withdrawn := true })
    let s :=
      if (s.groups.get k).fresh c then
        let s := s.noteSeq k c
        let s := if (s.groups.get k).live then s.markWithdrawn p g (bits c.w0.toNat 128 8) (noticeOrigin c) else s
        s.sendLinks p g (fun _ => true) c
      else s
    s.pollClosing p)

def execWithdraw (j : Fin 16) (c : LCell) (s : State) : Result := .next (s.recvWithdraw j c)

/-- WITHDRAW_CLOSE_TIMEOUT: 10 µs after the partition's own WITHDRAW of a group left by a link, no window of the group waits
for that link (R231, R258). -/
def execWithdrawCloseTimeout (p : Fin 16) (s : State) : Result := .next (s.pollClosing p)

/-! ### Manifests (R211; log 43) -/

/-- The contents of a manifest. Its encoding is the model's: 224 bytes of header, then whole words. -/
structure Manifest where
  digest : Nat
  record : List Byte
  vf : Nat
  length : Nat
  classOffset : Nat
  overflow : Bool
  pages : List (List (W256 × Bool))
  tails : List (List (W256 × Bool))
  counts : List (W256 × Bool)
  deriving Repr

/-- The pools of a set in ascending layer and KV head. -/
def poolOrder (v : ServingSpec) : List PoolSpec :=
  sortBy (fun (a b : PoolSpec) => decide (a.layer < b.layer) || (a.layer == b.layer && decide (a.head < b.head))) v.pools

/-- The words of bytes. -/
def bytesWords (bs : List Byte) : List (W256 × Bool) :=
  (upto (ceilDiv bs.length 32)).map (fun i => (BitVec.ofNat 256 (leNat ((bs.drop (32 * i)).take 32)), false))

/-- The request record with step_base advanced to the step number after the first token. -/
def advancedRecord (r : Req) : List Byte := r.rec_.take 0x20 ++ leBytes 4 (stepNumber r) ++ r.rec_.drop 0x24

/-- The words of a request's manifest: header, page images, tails, count table with its overflow word. -/
def State.manifestWords (s : State) (p : Nat) (v : ServingSpec) (i : Nat) : List (W256 × Bool) :=
  let r := s.req i
  let digest := ((s.part p).plate.map plModule).getD 0
  let header := leBytes 64 digest.toNat ++ advancedRecord r ++ leBytes 4 r.shipVf ++ leBytes 4 r.len ++ leBytes 4 (r.offset.getD 0) ++
    leBytes 4 (b2n r.reported) ++ leBytes 16 0
  bytesWords header ++
    (poolOrder v).flatMap (fun o => (upto (r.len / 16)).flatMap (fun j => (s.pageImage p v o ((r.pageAt j).getD 0)).map (fun w => (w, false)))) ++
    (poolOrder v).flatMap (fun o => (upto (tailBytes v / 32)).map (fun w => s.svcRead (s.tailAddr p v o i 0 + 32 * w))) ++
    (upto (countBytes / 32)).map (fun w => let e := s.vatEcc (s.areaAt p v.counts + countBytes * i + 32 * w); (e.data, e.poison || e.res == .uncorrectable))

/-- A list in groups of n, m of them. -/
def groupsOf {α : Type} (n m : Nat) (l : List α) : List (List α) := (upto m).map (fun i => (l.drop (n * i)).take n)

/-- The manifest that words hold. -/
def manifestOf (v : ServingSpec) (ws : List (W256 × Bool)) : Manifest :=
  let h := (ws.take 7).flatMap (fun (w : W256 × Bool) => leBytes 32 w.1.toNat)
  let n := leAt h 196 4
  let images := (ws.drop 7)
  let k := v.pools.length * (n / 16)
  let tails := images.drop (k * (imageBytes v / 32))
  ⟨leAt h 0 64, (h.drop 64).take 128, leAt h 192 4 % 64, n, leAt h 200 4 % 256, bit (leAt h 204 4) 0,
    groupsOf (imageBytes v / 32) k images, groupsOf (tailBytes v / 32) v.pools.length tails,
    (tails.drop (v.pools.length * (tailBytes v / 32))).take (countBytes / 32)⟩

/-! ### Windows of shipments (R231, R254; log 43) -/

/-- The free software windows of a die. -/
def State.freeWins (s : State) (d : Nat) : List Nat :=
  ((upto 128).map (128 + ·)).filter (fun i => (s.win (winKey d i)).state == 0 && (s.win (winKey d i)).ship.isNone)

/-- The descriptor of a shipment's window: rank 1, INT8, in stack memory, as long as a chunk. -/
def shipDesc (a chunk : Nat) : List W64 :=
  [0x1A01, BitVec.ofNat 64 a, 0, 0, BitVec.ofNat 64 chunk, BitVec.ofNat 64 (chunk + 2 ^ 26)]

/-- An area of the partition's plate on a die that no other shipment has, in sealed regions, with its bytes. -/
def State.shipArea (s : State) (p d : Nat) : Option (Nat × Nat) :=
  ((s.serving p).map (·.shipAreas)).getD [] |>.findSome? (fun e =>
    match s.stkArea p e.1 with
    | none => none
    | some a =>
      let chunk := Nat.min (e.2 / 64 * 64) 0xFFFFC0
      let t := TDesc.ofWords (shipDesc a chunk)
      if stkHalf a / 4 = d ∧ 0 < chunk ∧ stkRangeOk (a % 2 ^ 35) (chunk / 32) ∧
          (winRegions t).all (fun r => sealedKind (s.kindOf (stkHalf a) r)) ∧
          ¬ s.wins.any (fun w => w.2.ship.isSome && (TDesc.ofWords w.2.desc).unit == t.unit && (TDesc.ofWords w.2.desc).off == t.off) then
        some (a, chunk)
      else none)

/-- The window of a shipment on a die: its id, where the die has a free one and an area for it. Which free one is open. -/
def State.shipWin (s : State) (p d : Nat) (x : Ship) (state : Nat) : State × Option (Nat × Nat) :=
  let ws := s.freeWins d
  match ws[s.freeVal % ws.length]?, s.shipArea p d with
  | some n, some (a, chunk) =>
    (s.drawn.updWin (winKey d n) (fun _ => { state := state, owner := p, mask := 2 ^ (x.port % 4), desc := shipDesc a chunk, ship := some { x with chunk := chunk } }),
      some (n, chunk))
  | _, _ => (s.drawn, none)

/-- The window closes and serves no shipment any more. -/
def State.endShipWin (s : State) (k : Nat) : State := s.updWin k (fun w => { w with ship := none, state := 0 })

/-- The words of a chunk in a window. -/
def State.chunkWords (s : State) (k n : Nat) : List (W256 × Bool) :=
  (upto (ceilDiv n 32)).map (fun i => s.svcRead (s.winAddr (s.win k) (32 * i)))

/-- A grant for a use of a software window leaves on the link it is fed by. -/
def State.grantShip (s : State) (k : Nat) (x : Ship) (use : Nat) : State :=
  s.originate (x.key / 16) (x.key % 16) 3 (k % 256 + use * 2 ^ 32) 0 (fun l => l.port == x.port)

/-- The link by which a cell of a kind and an origin goes on from this member, none where it ends here (R251). -/
def State.routeOf (s : State) (key kind origin : Nat) : Option Nat :=
  ((s.part (key / 16)).plate.bind (fun pl => (pl.body.groups.find? (fun e => e.g == key % 16)).bind (fun e =>
    (e.routes.find? (fun r => r.1 == kind && r.2.1 == origin)).bind (fun r => (s.groups.get key).links[r.2.2]?)))).map (·.port)

/-! ### SHIP_REQ and SHIP_GRANT (R211, R251, R254) -/

/-- An answer to a request goes back on the link it came by. -/
def State.answerShip (s : State) (k j id : Nat) (grant : Option (Nat × Nat)) : State :=
  s.originate (k / 16) (k % 16) 7 (match grant with
    | some (n, chunk) => id + n * 2 ^ 32 + chunk * 2 ^ 64
    | none => id + 2 ^ 40) 0 (fun l => l.port == j)

/-- The window that already serves a request of an origin. -/
def State.shipOf (s : State) (k origin id : Nat) : Option (Nat × Ship) :=
  s.wins.findSome? (fun e => match e.2.ship with
    | some x => if x.key = k ∧ x.origin = origin ∧ x.id = id then some (e.1, x) else none
    | none => none)

/-- SHIP_REQ at its target: an ARRIVING entry with its pages, an open window and a SHIP_GRANT, or a refusal. A request that is
served already gets its answer again. -/
def State.shipTarget (s : State) (j k : Nat) (c : LCell) : State :=
  let p := k / 16
  let w := c.w0.toNat
  let id := bits w 128 32
  match s.shipOf k (noticeOrigin c) id with
  | some (key, x) => s.answerShip k j id (some (key % 256, x.chunk))
  | none =>
    let q := (s.checkTree p).reserveShip p (bits w 160 6) id (bits w 192 64)
    match q.2 with
    | none => q.1.answerShip k j id none
    | some i =>
      let x : Ship := { slot := some i, origin := noticeOrigin c, port := j, key := k, id := id, len := bits w 192 64, chunk := 0, use := 1 }
      let r := q.1.shipWin p (j / 4) x 1
      match r.2 with
      | none => (r.1.freeReq p i).answerShip k j id none
      | some (n, chunk) =>
        (r.1.updReq i (fun y => { y with shipFrom := some (j, k, noticeOrigin c, winKey (j / 4) n) })).answerShip k j id (some (n, chunk))

/-- SHIP_REQ on the way: a window of this member's own is kept for it, and the cell goes on unchanged; without one it is
refused. -/
def State.shipOnward (s : State) (j k out : Nat) (c : LCell) : State :=
  let w := c.w0.toNat
  let id := bits w 128 32
  match s.shipOf k (noticeOrigin c) id with
  | some _ => s.egress out c
  | none =>
    let x : Ship := { slot := none, origin := noticeOrigin c, port := j, key := k, id := id, len := bits w 192 64, chunk := 0, use := 0, next := some (out, 0) }
    let r := s.shipWin (k / 16) (j / 4) x 0
    match r.2 with
    | none => r.1.answerShip k j id none
    | some _ => r.1.egress out c

def State.recvShipReq (s : State) (j : Nat) (c : LCell) : State :=
  s.onNotice j c 6 (fun s k => match s.routeOf k 6 (noticeOrigin c) with
    | some out => s.shipOnward j k out c
    | none => s.shipTarget j k c)

def execShipReq (j : Fin 16) (c : LCell) (s : State) : Result := .next (s.settle.recvShipReq j c)

/-- The admin record of a shipment that failed. -/
def State.shipFailed (s : State) (p i : Nat) : State :=
  (s.adminRecord p (s.req i).vf (bareEntry (s.req i) stSHIPFAILED)).freeReq p i

/-- SHIP_GRANT at the requester: the waiting request may ship, or goes on waiting where refused is set. A refusal of a request
that is SHIPPING says that its manifest was not accepted (R213; log 43). -/
def State.shipGranted (s : State) (j k : Nat) (c : LCell) : State :=
  let p := k / 16
  let w := c.w0.toNat
  let mine (st : Req → Bool) : Option Nat := slots.find? (fun i => let r := s.req i
    r.part == p && st r && rqId r.rec_ == bits w 128 32 && rqShip r.rec_ && shipGroup (rqShipTarget r.rec_) == k % 16)
  if bit w 168 then
    match mine (fun r => r.st == .shipping) with
    | some i => State.shipFailed { s with sendings := s.sendings.filter (fun x => x.entry != 65536 + i) } p i
    | none => s
  else match mine Req.waitsShip with
    | none => s
    | some i => (s.updReq i (fun r =>
        { r with shipGrant := some (bits w 160 8, bits w 192 32), shipUse := 1, shipFrom := some (j, k, noticeOrigin c, bits w 160 8) })).assemble p

/-- SHIP_GRANT on the way: the window kept for the request opens with the granted chunk, and is what the sender before this
member is granted; where it is too small, or the target refuses, the request is refused. -/
def State.grantOnward (s : State) (j k : Nat) (c : LCell) : State :=
  let w := c.w0.toNat
  let id := bits w 128 32
  match s.wins.find? (fun e => e.2.ship.any (fun x => x.key == k && x.id == id && x.use == 0 && x.next == some (j, 0))) with
  | none => s
  | some (key, y) =>
    match y.ship with
    | none => s
    | some x =>
      if bit w 168 ∨ x.chunk < bits w 192 32 then (s.endShipWin key).answerShip k x.port id none
      else
        let x := { x with chunk := bits w 192 32, use := 1, next := some (j, bits w 160 8), nextUse := 1 }
        (s.updWin key (fun y =>
          { y with state := 1, bytes := 0, cells := 0, drops := 0, closeReq := false, ship := some x })).answerShip k x.port id
          (some (key % 256, x.chunk))

def State.recvShipGrant (s : State) (j : Nat) (c : LCell) : State :=
  s.onNotice j c 7 (fun s k => match s.routeOf k 7 (noticeOrigin c) with
    | some _ => s.grantOnward j k c
    | none => s.shipGranted j k c)

def execShipGrant (j : Fin 16) (c : LCell) (s : State) : Result := .next (s.settle.recvShipGrant j c)

/-! ### The transfer (R211, R213, R254) -/

/-- The cells of a word list, in chunks, as the sends of a shipment: chunk u is use u of the window. -/
def shipSends (p entry port g win chunk : Nat) (ws : List (W256 × Bool)) (first : Nat) : List Sending :=
  (groupsOf (Nat.max 1 (chunk / 32)) (ceilDiv ws.length (Nat.max 1 (chunk / 32))) ws).mapIdx (fun u l =>
    ⟨p, entry, port, some g, none, first + u, 0, 0, win, writeCells win 0 (l.map (fun w => (w.1, eccCode w.1 w.2))), none, false⟩)

/-- The chunks of a length. -/
def shipChunks (len chunk : Nat) : Nat := ceilDiv len (Nat.max 1 chunk)

/-- A shipment of the prefill side goes on: it fails with its group, starts once the first token's append is done, and ends when
the target has taken the last chunk. -/
def State.pollShip (s : State) (p i : Nat) : State :=
  let r := s.req i
  let waits := (s.part p).appends.any (fun (e : StepRow) => e.slot == i)
  match r.shipLocal, r.shipFrom, r.shipGrant, s.serving p with
  | some k, _, _, some v =>
    if (s.req k).st ≠ .arriving then s.freeReq p i
    else if r.shipSent ∨ waits then s
    else (s.updReq k (fun y => { y with arrived := s.manifestWords p v i })).updReq i (fun x => { x with shipSent := true })
  | none, some (j, k, _, _), some (win, chunk), some v =>
    if (s.groups.get k).state ≠ 2 then
      State.shipFailed { s with sendings := s.sendings.filter (fun x => x.entry != 65536 + i) } p i
    else if r.shipSent then
      (if ¬ s.sendings.any (fun x => x.entry == 65536 + i) ∧ shipChunks r.shipLen chunk < r.shipUse then s.freeReq p i else s)
    else if waits then s
    else
      let s := s.updReq i (fun x => { x with shipSent := true })
      { s with
        sendings := s.sendings ++ shipSends p (65536 + i) j (k % 16) win chunk (s.manifestWords p v i) 1 }
  | _, _, _, _ => s

/-- An ARRIVING entry that another partition of the part asked for goes with the request that it was for. -/
def State.pollArrival (s : State) (p i : Nat) : State :=
  if (s.req i).shipFrom.isNone ∧ ¬ s.reqs.any (fun e => e.2.shipLocal == some i && e.2.st != .free) then s.freeReq p i else s

/-- The shipment of a window goes on (R254). With its group gone it is discarded and its reservation freed (R213). A chunk that
has arrived is moved out: to the ARRIVING entry, on to the next member, or nowhere; then the next use is granted. The last chunk
of an entry is granted by the acceptance. -/
def State.pollWin (s : State) (k : Nat) : State :=
  match (s.win k).ship with
  | none => s
  | some x =>
    let p := (s.win k).owner
    let last := decide (x.len ≤ x.use * x.chunk)
    let have_ := Nat.min x.len (x.use * x.chunk)
    let step (s : State) : State := s.updWin k (fun w => { w with ship := some { x with moved := x.use, use := x.use + 1 } })
    if (s.groups.get x.key).state ≠ 2 then
      let s := s.endShipWin k
      (match x.slot with
        | some i => if (s.req i).st = .arriving then s.freeReq p i else s
        | none => s)
    else if x.use = 0 ∨ (s.win k).bytes < have_ then s
    else match x.slot, x.next with
      | some i, _ =>
        if x.moved = x.use then s
        else
          let s := s.updReq i (fun r => { r with arrived := r.arrived ++ s.chunkWords k (have_ - (x.use - 1) * x.chunk) })
          if last then s.updWin k (fun w => { w with ship := some { x with moved := x.use } })
          else (step s).grantShip k x (x.use + 1)
      | none, some (port, win) =>
        if x.moved < x.use then
          let s := s.updWin k (fun w => { w with ship := some { x with moved := x.use } })
          { s with
            sendings := s.sendings ++ shipSends p (131072 + k) port (x.key % 16) win x.chunk (s.chunkWords k (have_ - (x.use - 1) * x.chunk)) x.use }
        else if s.sendings.any (fun y => y.entry == 131072 + k) ∨ x.nextUse ≤ x.use then s
        else
          let s := (step s).grantShip k x (x.use + 1)
          if last then s.endShipWin k else s
      | none, none =>
        let s := (step s).grantShip k x (x.use + 1)
        if last then s.endShipWin k else s

/-- The service firmware looks at every shipment of the part. -/
def State.pollShips (s : State) : State :=
  let s := s.each (s.wins.map (·.1)) State.pollWin
  s.each slots (fun s i => match (s.req i).st with
    | .shipping => s.pollShip (s.req i).part i
    | .arriving => s.pollArrival (s.req i).part i
    | _ => s)

/-! ### Acceptance (R212, R213) -/

/-- The pages that a shipment fills hold the manifest's class offset: those reserved for another one are returned first. -/
def State.fitPages (s : State) (p : Nat) (v : ServingSpec) (i : Nat) (m : Manifest) : State × Bool :=
  let s := if (s.req i).classOff = some m.classOffset then s
    else (s.releasePages p i).updReq i (fun r => { r with classOff := some m.classOffset })
  s.reserveAll p v i (upto (m.length / 16))

/-- The pages of a manifest go into the pages reserved for them: the image of each pool. -/
def State.placePages (s : State) (p : Nat) (v : ServingSpec) (i : Nat) (m : Manifest) : State :=
  let n := m.length / 16
  s.each (upto n) (fun s j =>
    match (s.req i).pageAt j with
    | none => s
    | some pg =>
      let kl := keyLen v.poolFmt v.headDim
      let vl := valueLen v.poolFmt
      s.each ((poolOrder v).mapIdx (fun o x => (o, x))) (fun s e =>
        let ws := m.pages.getD (e.1 * n + j) []
        s.putPage p v e.2 pg (ws.take kl) ((upto (v.headDim / 64)).map (fun h => (ws.drop (kl + h * vl)).take vl))))

/-- The shipment is whole and its module is the loaded one: pages, tails and counts go into place, and the request decodes. Its
prompt and first token are not carried, so they are free values. -/
def State.acceptShip (s : State) (p i : Nat) (v : ServingSpec) (m : Manifest) : State :=
  let s := s.placePages p v i m
  let s := s.each ((poolOrder v).mapIdx (fun o x => (o, x))) (fun s e =>
    s.each ((m.tails.getD e.1 []).mapIdx (fun k d => (k, d))) (fun s w => s.svcPut (s.tailAddr p v e.2 i 0 + 32 * w.1) w.2.1 w.2.2))
  let s := s.each (m.counts.mapIdx (fun k d => (k, d))) (fun s w =>
    let a := s.areaAt p v.counts + countBytes * i + 32 * w.1
    if vatPopulated a then s.vatPut a w.2.1 w.2.2 else s)
  let n := rqPromptLen m.record
  let free := s.free
  { s.updReq i (fun r =>
      { r with
        st := .decode
        vf := m.vf
        rec_ := m.record.take 128
        prompt := (upto n).map (fun k => Config.freeNat (free + k))
        gen := [Config.freeNat (free + n)]
        genBase := 1
        counted := n
        len := m.length
        reported := m.overflow
        arrived := []
        shipFrom := none }) with free := free + n + 1 }

/-- The prefill side hears that its shipment is accepted, by the grant after the last chunk, or that it is not, by a SHIP_GRANT
with refused set; a request of another partition of the part is told at once (R213; log 43). -/
def State.answerEnd (s : State) (i : Nat) (ok : Bool) : State :=
  match (s.req i).shipFrom with
  | some (_, _, _, w) =>
    (match (s.win w).ship with
      | some x => (if ok then s.grantShip w x (x.use + 1) else s.answerShip x.key x.port x.id none).endShipWin w
      | none => s)
  | none =>
    match s.reqs.find? (fun e => e.2.shipLocal == some i && e.2.st == .shipping) with
    | some e => if ok then s.freeReq e.2.part e.1 else s.shipFailed e.2.part e.1
    | none => s

/-- The window by which a shipment comes, none for one within the part. -/
def Req.shipWin (r : Req) : Option Nat := r.shipFrom.map (·.2.2.2)

/-- SHIPMENT_ACCEPT (R212, R213): once the manifest's length has arrived. Where the digests differ, or no page of a class is left,
the shipment fails on both sides. -/
def State.shipmentAccept (s : State) (p i : Nat) (win : Option Nat) : State :=
  let r := s.req i
  match s.serving p with
  | none => s
  | some v =>
    if r.st = .arriving ∧ r.part = p ∧ r.shipWin = win ∧ ¬ r.arrived.isEmpty ∧ r.shipLen ≤ 32 * r.arrived.length then
      let m := manifestOf v r.arrived
      let q := s.fitPages p v i m
      if m.digest = (((s.part p).plate.map plModule).getD 0).toNat ∧ q.2 then (q.1.answerEnd i true).acceptShip p i v m
      else (q.1.answerEnd i false).shipFailed p i
    else s

def execShipmentAccept (p : Fin 16) (slot : Fin 1024) (win : Option Nat) (s : State) : Result :=
  .next (s.manage p (fun s => s.pollShips.shipmentAccept p slot win))

end Sys2Proof.Machine
end

