-- ==== Sys2Proof/Machine/Plate.lean ====
section
/-! DEFINITION. Plates: the checks of a load, the binding, and what a load, a save and a restore place
(R82 to R84, R116, R120, R127, R231, R249, R266 to R272, R323). -/

namespace Sys2Proof.Machine

open Sys2Proof

/-! ### The checks at the fetch (R84) -/

/-- Causes of a plate-load fault, in the order of the code (R315). -/
abbrev plFORMAT : Nat := 1
abbrev plTARGET : Nat := 2
abbrev plVERSION : Nat := 3
abbrev plDIGEST : Nat := 4
abbrev plSHAPE : Nat := 5
abbrev plSECTION : Nat := 6

/-- The SHA3-512 digest of the whole plate with the digest field zero (R82). -/
def plSha (i : PlateImage) : W512 := sha3 (i.bytes.take 0x60 ++ List.replicate 64 0 ++ i.bytes.drop 0xA0)

/-- A section count above 32, or a table or section that ends beyond the plate, is no container of this version. DESIGN CHOICE
(log 49): R84 names no cause for either. -/
def plShapeless (i : PlateImage) : Bool :=
  decide (32 < plSections i) || decide (i.bytes.length < 0xA8 + 24 * plSections i) ||
    (upto (plSections i)).any (fun k => decide (i.bytes.length < plSectionOff i k + plSectionLen i k))

/-- Magic, container, target, contract and digest; 0 where the plate passes. -/
def plateCause (i : PlateImage) : Nat :=
  if plMagic i ≠ 0x314554414C505844 ∨ plContainer i ≠ 1 ∨ plShapeless i then plFORMAT
  else if plTarget i ≠ 0x48 then plTARGET
  else if plContract i ≠ 0x10000 then plVERSION
  else if plDigest i ≠ plSha i then plDIGEST
  else 0

/-- A section of an unknown type that is not optional. -/
def plSectionBad (i : PlateImage) : Bool :=
  (upto (plSections i)).any (fun k => !(decide (1 ≤ plSectionType i k) && decide (plSectionType i k ≤ 0xC)) && !bit (plSectionFlags i k) 0)

/-! ### Binding (R83, R323) -/

/-- The units of a quarter that stand on spares: engine e as e, core c as 4 + c. -/
def State.spared (s : State) (q : Nat) : List Nat :=
  let d := q / 4
  (if s.on INT_SPARE_pressUsed d ∧ s.rd INT_SPARE_pressFor d / 4 = q % 4 then [s.rd INT_SPARE_pressFor d % 4] else []) ++
  (if s.on INT_SPARE_burin0Used d ∧ s.rd INT_SPARE_burin0For d / 8 = q % 4 then [4 + s.rd INT_SPARE_burin0For d % 8] else []) ++
  (if s.on INT_SPARE_burin1Used d ∧ s.rd INT_SPARE_burin1For d / 8 = q % 4 then [4 + s.rd INT_SPARE_burin1For d % 8] else [])

/-- Two arrangements name the same units. -/
def sameUnits (a b : List Nat) : Bool := (upto 12).all (fun u => a.contains u == b.contains u)

/-- The lowest quarters left that have the arrangements wanted, in order. -/
def pickQs (arr : Nat → List Nat) : List Nat → List (List Nat) → Option (List Nat)
  | _, [] => some []
  | avail, a :: t =>
    match avail.find? (fun q => sameUnits (arr q) a) with
    | none => none
    | some q => (pickQs arr (avail.filter (· != q)) t).map (q :: ·)

/-- Quarters for dies assigned in order: die, first logical quarter and count of each. -/
def bindDies (arr : Nat → List Nat) (mask : List Nat) (want : Nat → List Nat) : List (Nat × Nat × Nat) → Option (List Nat)
  | [] => some []
  | (d, lq, n) :: t =>
    match pickQs arr (mask.filter (fun q => q / 4 == d)) ((upto n).map (fun i => want (lq + i))), bindDies arr mask want t with
    | some a, some b => some (a ++ b)
    | _, _ => none

/-- Lists of n distinct dies in ascending lexicographic order. -/
def dieLists : Nat → List (List Nat)
  | 0 => [[]]
  | n + 1 => (upto 4).flatMap (fun d => ((dieLists n).filter (fun l => !l.contains d)).map (d :: ·))

/-- Dies with the first logical quarter and count of each. -/
def spread (img : PlateImage) : Nat → Nat → List Nat → List (Nat × Nat × Nat)
  | _, _, [] => []
  | k, lq, d :: t => (d, lq, plShape img k) :: spread img (k + 1) (lq + plShape img k) t

/-- The binding of a plate to the quarters of a mask. DESIGN CHOICE (log 49): a die_count or a nibble of quarter_shape outside 1
to 4 is a shape that no mask meets, so the plate is refused with SHAPE; R83 and R84 name no outcome for it. -/
def State.bindPlate (s : State) (p : Nat) (img : PlateImage) : Option (List Nat) :=
  let n := plDies img
  if n = 0 ∨ 4 < n ∨ (upto n).any (fun k => plShape img k == 0 || decide (4 < plShape img k)) then none
  else (dieLists n).findSome? (fun ds => bindDies s.spared (s.maskOf p) (fun lq => img.body.arrangement.getD lq []) (spread img 0 0 ds))

/-! ### The checks against the quarters taken (R84, R108, R120, R230, R270, R316) -/

/-- Region keys of a plate under a binding. -/
def plateRegions (img : PlateImage) (b : List Nat) : List Nat :=
  img.body.regions.filterMap (fun r => (b[r.1]?).map (fun h => regionKey h r.2))

/-- A region that a STOPPED partition maps, or a retired page. -/
def State.regionTaken (s : State) (key : Nat) : Bool :=
  (s.regions.get key).retired || s.maps.any (fun m => m.2 == key && s.pstate m.1 == sSTOPPED)

/-- Two Press descriptors concern one engine. -/
def sameEngine (a b : PressDesc) : Bool := a.lq == b.lq && a.engine == b.engine

/-- The load that a stream of Press descriptors made last before a place of it, of those that satisfy a condition; the last of
all where there is none before it, as a stream may repeat. -/
def lastLoad (ds : List PressDesc) (i : Nat) (p : PressDesc → Bool) : Option PressDesc :=
  match (ds.take i).reverse.find? p with
  | some d => some d
  | none => ds.reverse.find? p

/-- The pass at a place of a stream keeps to the class of its tile: its k_len to the tile depth, and its stream rows to the formats
of the class (R114, R118; log 85). -/
def passFits (descs : List (List W64)) (ds : List PressDesc) (i : Nat) (d : PressDesc) : Bool :=
  match lastLoad ds i (fun x => x.kind == 1 && sameEngine x d && x.slot == d.slot) with
  | none => true
  | some tile =>
    decide (d.kLen ≤ classDepth tile.cls) && (upto d.rows).all (fun r =>
      match lastLoad ds i (fun x => x.kind == 2 && sameEngine x d && decide (x.rowSlot ≤ d.rowSlot + r) &&
          decide (d.rowSlot + r < x.rowSlot + x.rows)) with
      | none => true
      | some l => fmtFits (TDesc.ofWords (descs.getD l.desc [])).fmt tile.cls)

/-- The Press descriptor at a place of a plate's stream passes R120: by itself, by the tensor descriptor it names, which the plate
has, and by the tile of its pass. -/
def pressStreamOk (img : PlateImage) (i : Nat) (w : Words4) : Bool :=
  let d := PressDesc.ofWords w
  let named := img.body.descs[d.desc]?
  pressDescOk w (TDesc.ofWords (named.getD [])) &&
    (if d.kind = 3 then passFits img.body.descs (img.body.press.map PressDesc.ofWords) i d else named.isSome)

/-- The first descriptor cause of a plate's tensor descriptors, Press descriptors, windows, send entries and proof entries; 0 where
all pass, 256 for a Press descriptor refused for itself, to which no cause of R108 is assigned: a free one is logged (log 49).
A plate's window lies on the die whose ports it serves (R17, R230; log 81). -/
def State.plateDescCause (s : State) (img : PlateImage) (b : List Nat) : Nat :=
  let within (u : Nat) : Bool := decide (u < b.length)
  let sameDie (lq u : Nat) : Bool := (b[u]?).any (fun q => (b[lq]?).any (fun r => r / 4 == q / 4))
  let causes := img.body.descs.map (fun d => descCause d within) ++
    img.body.press.mapIdx (fun i w => if pressStreamOk img i w then 0 else 256) ++
    img.body.windows.map (fun w => s.winCause w.desc (sameDie w.lq) (fun u => b.getD u 16)) ++
    img.body.sends.map (fun e => descCause e.desc within) ++
    (img.body.proofs.flatMap (·.shards)).map (fun d => descCause d within)
  (causes.find? (· != 0)).getD 0

/-- A plate names only logical dies, ports, windows and quarters that its binding has. DESIGN CHOICE (log 49): R84 names no cause
for one that does not, and the model refuses it with FORMAT. -/
def plateNames (img : PlateImage) (b : List Nat) : Bool :=
  let dies := (b.map (· / 4)).dedup.length
  let quarter (u : Nat) : Bool := decide (u < b.length)
  img.body.sends.all (fun e => decide (e.die < dies) && decide (e.port < 4)) &&
    img.body.groups.all (fun g => g.links.all (fun l => decide (l.die < dies) && decide (l.port < 4))) &&
    img.body.windows.all (fun w => quarter w.lq && decide (w.num < 32)) &&
    img.body.proofs.all (fun e => quarter (e.addr / 2 ^ 26)) && img.body.regions.all (fun r => quarter r.1)

/-- Refuse a plate: the plate-load fault, and the cause REFUSED. -/
def State.refusePlate (s : State) (p cause : Nat) : State := (s.logEvent (0x0300 + cause) (some p) false .none 0).pcmdEnd causeRefused

/-- What stands against a plate, as its plate-load cause and the descriptor cause logged beside it; none where it may
load. -/
def State.plateStands (s : State) (p : Nat) (img : PlateImage) : Option (Nat × Nat) :=
  match s.bindPlate p img with
  | none => some (plSHAPE, 0)
  | some b =>
    if (plateRegions img b).any s.regionTaken then some (plSHAPE, 0)
    else if plSectionBad img then some (plSECTION, 0)
    else if !plateNames img b then some (plFORMAT, 0)
    else let c := s.plateDescCause img b; if c = 0 then none else some (plFORMAT, c)

/-! ### The load areas (R266, R269) -/

/-- Bytes of a load or save area. -/
abbrev areaBytes : Nat := 41 * 2 ^ 21

/-- A half that a requester reaches: its link is trained, its die is on and it is not retired (R12, R316, R324; log 70). -/
def State.halfUp (s : State) (h : Nat) : Bool := !(s.q h).linkBad && !bit s.dieFence (h / 4) && (s.q h).svc != .retired

/-- The fetched plate is written into the load areas by whole words, in ascending quarter order; bytes after its end in its last
word are zero (log 49). -/
def State.fillAreas (s : State) (p : Nat) (img : PlateImage) : State :=
  let qs := s.maskOf p
  s.each (upto (ceilDiv img.bytes.length 32)) (fun s i =>
    match qs[32 * i / areaBytes]? with
    | none => s
    | some q =>
      if s.halfUp q then
        s.svcPut (q * 2 ^ 35 + 16302 * 2 ^ 21 + 32 * i % areaBytes) (BitVec.ofNat 256 (leAt img.bytes (32 * i) 32)) false
      else s)

/-! ### Placing a plate -/

/-- Section 0x06 is placed in the code areas of the partition's cores (R127). -/
def State.placeCode (s : State) (p : Nat) (img : PlateImage) : State :=
  img.body.code.foldl (fun (s : State) (c : CodeSpec) =>
    match s.phys p c.lq with
    | none => s
    | some q => { s with burin := s.burin.upd (8 * q + c.core) (fun x => { x with code := x.code.set c.offset (some c.body) }) }) s

/-- Section 0x0B is placed in the Vat. -/
def State.placeInit (s : State) (p : Nat) (img : PlateImage) : State :=
  img.body.init.foldl (fun (s : State) (i : InitSpec) =>
    match s.phys p i.lq with
    | none => s
    | some q => s.each (i.words.mapIdx (fun k w => (k, w))) (fun s e => s.vatPut (q * 2 ^ 26 + i.offset + 32 * e.1) e.2 false)) s

/-- The Press buffers and the churn state of quarters are cleared (R116, R138). -/
def State.clearUnits (s : State) (qs : List Nat) : State :=
  { s with
    press := s.press.keep (fun e => !qs.contains (e / 4))
    churn := s.churn.keep (fun c => !qs.contains (c / 512))
    seqs := s.seqs.keep (fun h => !qs.contains h) }

/-- A plate's window opens, with counts given by its key (R229, R231). -/
def State.openPlateWin (s : State) (p : Nat) (counts : Nat → Nat × Nat) (v : WinSpec) : State :=
  match s.phys p v.lq with
  | none => s
  | some q =>
    let k := plateWin q v.num
    let c := counts k
    s.updWin k (fun w =>
      { state := 1, plate := true, owner := p, mask := v.portMask, enc := v.encOnly, cmdErr := w.cmdErr, fp := v.fingerprint,
        bytes := c.1, cells := c.2, desc := v.desc, group := v.group })

/-- A load finishes once its quarters are awake: everything of the plate in place, windows open, groups forming; it starts
at the next run frame (R266). -/
def State.finishLoad (s : State) (p : Nat) (img : PlateImage) : State :=
  let b := (s.part p).bind
  let s := s.clearUnits (s.heldQs p)
  let s := (s.placeCode p img).placeInit p img
  let s := { s with maps := s.maps ++ (plateRegions img b).map (fun k => (p, k)) }
  let s := img.body.windows.foldl (fun (s : State) w => s.openPlateWin p (fun _ => (0, 0)) w) s
  let s := img.body.groups.foldl (fun (s : State) g => s.formGroup p g) s
  let s := s.updPart p (fun x => { x with waking := false, starting := true, prevCommit := s.dt })
  { s with aon := { s.aon with plateLoaded := true } }.pcmdEnd 0

/-! ### Saving and restoring (R268, R271, R272) -/

/-- Words of a save area hold what was saved in an encoding that the manual does not give: free values (log 53). -/
def State.fillSave (s : State) (q bytes : Nat) : State :=
  let n := ceilDiv bytes 32
  let free := s.free
  let s := s.each (upto n) (fun s i => s.stkPut (q * 2 ^ 35 + 16343 * 2 ^ 21 + 32 * i) (BitVec.ofNat 256 (Config.freeNat (free + i))) false)
  { s with free := s.free + n }

/-- Bytes saved for each logical quarter at a break point (R87). -/
def saveSizes (pl : Option PlateImage) (bp : Nat) : List Nat :=
  (pl.bind (fun pl => (pl.body.breaks.find? (fun b => b.num == bp)).map (·.saveBytes))).getD []

/-- The state of a partition as its save holds it. -/
def State.savedOf (s : State) (p : Nat) : Saved :=
  let x := s.part p
  let qs := s.heldQs p
  { bp := x.bp
    seg := x.seg
    frame := x.bpOff
    wait := x.wait
    vat := s.vat.keep (fun a => qs.contains (a / 2 ^ 26))
    vatCode := s.vatCode.keep (fun w => qs.contains (w / 2 ^ 21))
    press := (s.press.keep (fun e => qs.contains (e / 4))).map (fun e => (e.1, { e.2 with passes := [], fills := [] }))
    burin := (s.burin.keep (fun b => qs.contains (b / 8))).map (fun e => (e.1, { mem := e.2.mem, lines := e.2.lines }))
    churn := s.churn.keep (fun c => qs.contains (c / 512))
    wins := (s.plateWins p).map (fun k => (k, (s.win k).bytes, (s.win k).cells))
    sends := x.sends
    groups := (upto 16).map (fun g => (g, (s.group p g).inTag, (s.group p g).inEpoch)) }

/-- The save is written: save_kib is the largest size of a quarter, in KiB. -/
def State.save (s : State) (p : Nat) : State :=
  let v := s.savedOf p
  let sizes := saveSizes (s.part p).plate (s.part p).bp
  let s := s.each (s.heldQs p) State.wcbDrain
  let s := s.each ((s.part p).bind.mapIdx (fun i q => (i, q))) (fun s e => s.fillSave e.2 (sizes.getD e.1 0))
  let s := { s with sendings := s.sendings.filter (fun x => x.part != p || decide (65536 ≤ x.entry)) }
  let s := s.updPart p (fun x => { x with saved := some v, wait := none, closing := none, sends := [] })
  (s.wr PART_STATUS_saveKib p (ceilDiv (sizes.foldl Nat.max 0) 1024)).setPState p sSTOPPED

/-- The saved units and memories of the partition's quarters come back. -/
def State.restore (s : State) (p : Nat) (v : Saved) : State :=
  let qs := s.heldQs p
  { s.clearUnits qs with
    vat := s.vat.replace v.vat (fun a => qs.contains (a / 2 ^ 26))
    vatCode := s.vatCode.replace v.vatCode (fun w => qs.contains (w / 2 ^ 21))
    press := s.press.replace v.press (fun e => qs.contains (e / 4))
    burin := s.burin.replace v.burin (fun b => qs.contains (b / 8))
    churn := s.churn.replace v.churn (fun c => qs.contains (c / 512)) }

/-- The words of a quarter's save area are read at the resume. What the checker finds is logged, and for a word that is
poisoned or uncorrectable the restored word is poisoned: as the encoding of the area is not given, a free one of the
quarter's Vat (R305, R326; log 53). -/
def State.readSave (s : State) (q bytes : Nat) : State :=
  s.each (upto (ceilDiv bytes 32)) (fun s i =>
    let a := q * 2 ^ 35 + 16343 * 2 ^ 21 + 32 * i
    let s := s.stkReadLog a
    if (s.stkRead a).2 then
      let w := q * 2 ^ 26 + 32 * (s.freeVal % 1572864)
      s.drawn.vatPut w (s.vatEcc w).data true
    else s)

/-- A resume finishes once its quarters are awake: state and code back, windows open with their saved counts, and each
group whose epoch has changed forms anew unless the stop was in mid-collective (R271, R272). -/
def State.finishResume (s : State) (p : Nat) : State :=
  match (s.part p).plate, (s.part p).saved with
  | some img, some v =>
    let s := (s.restore p v).each ((s.part p).bind.mapIdx (fun i q => (i, q)))
      (fun s e => s.readSave e.2 ((saveSizes (some img) v.bp).getD e.1 0))
    let s := s.placeCode p img
    let counts (k : Nat) : Nat × Nat := ((v.wins.find? (fun e => e.1 == k)).map (·.2)).getD (0, 0)
    let s := img.body.windows.foldl (fun (s : State) w => s.openPlateWin p counts w) s
    let s := img.body.groups.foldl (fun (s : State) (g : GroupSpec) =>
      let was := ((v.groups.find? (fun e => e.1 == g.g)).map (·.2.2)).getD 0
      if ¬ s.on PART_STATUS_midCollective p ∧ (s.group p g.g).epoch ≠ was then s.formGroup p g else s) s
    let s := s.updPart p (fun x =>
      { x with waking := false, starting := true, bp := v.bp, bpOff := v.frame, seg := v.seg, wait := v.wait, sends := v.sends,
               segStart := s.runFrame })
    s
  | _, _ => s

/-! ### Quarters for a load or a resume (R266, R271, R334) -/

/-- The partition takes its mask's quarters; those that are OFF wake. -/
def State.takeQuarters (s : State) (p st : Nat) : State :=
  let s := s.each (s.maskOf p) (fun s q => s.setQ q (fun x => if x.power = .off then { x with power := .waking } else x))
  (s.wr PART_STATUS_held p (s.rd PART_CFG_quarters p)).setPState p st

/-- Every quarter of a partition's mask is awake. -/
def State.maskAwake (s : State) (p : Nat) : Bool := (s.maskOf p).all (fun q => (s.q q).power == .on)

/-- The command in progress goes on when every quarter of its partition is awake. -/
def State.pollCmd (s : State) : State :=
  match s.pcmd with
  | some c =>
    if c.phase = .waking ∧ s.maskAwake c.p then
      (match c.img with
        | some img => s.finishLoad c.p img
        | none => (s.finishResume c.p).pcmdEnd 0)
    else s
  | none => s

/-- So does every resume that a wake started (R337). -/
def State.pollWaking (s : State) : State :=
  s.pollCmd.each (upto 16) (fun s p =>
    if s.pstate p = sRESUMING ∧ (s.part p).waking ∧ s.maskAwake p then s.finishResume p else s)

/-- LOAD's steps after the fetch: the quarters, the checks, the binding (R266). -/
def State.loadFetched (s : State) (p : Nat) (img : PlateImage) : State :=
  if !(s.maskOf p).all s.takeable then s.pcmdEnd causeQuarter
  else match s.plateStands p img with
    | some (c, d) =>
      (if d = 0 then s else if d = 256 then (s.drawn).logEvent (0x0401 + s.freeVal % 9) (some p) false .none 0
       else s.logEvent (0x0400 + d) (some p) false .none 0).refusePlate p c
    | none =>
      let s := s.takeQuarters p sLOADING
      let s := s.updPart p (fun x =>
        { plate := some img, bind := (s.bindPlate p img).getD [], passed := true, waking := true, notices := x.notices, meas := x.meas, rerun := x.rerun })
      { s with pcmd := some ⟨1, p, some img, .waking⟩, aon := { s.aon with idleSince := s.dt } }.pollWaking

end Sys2Proof.Machine
end

