-- ==== Sys2Proof/Machine/PartCmd.lean ====
section
/-! DEFINITION. The partition commands: LOAD, STOP, RESUME, UNLOAD, PREEMPT, and the writes of PART_CFG
(R262 to R276, R284). -/

namespace Sys2Proof.Machine

open Sys2Proof

/-- A PART_CMD write: lost while a command runs, else the command becomes busy and acts (R276). -/
def State.partCmd (s : State) (f : State → State) : State :=
  if s.on PART_CMD_STATUS_busy 0 then s.pcmdLost else f s.pcmdBusy

/-- A PART_CMD write of a source (R284). -/
def State.partCmdBy (s : State) (src : Src) (p op : Nat) (f : State → State) : State :=
  s.access src (PART_CMD_op.addr 0) 8 (BitVec.ofNat 64 (p + 16 * op)) (fun s => s.partCmd f)

/-- LOAD, RESUME and PREEMPT fail with STATE during a shutdown and while TRIPPED (R343; log 51). -/
def State.shutting (s : State) : Bool := decide (3 ≤ s.rd PWR_STATUS_state 0)

/-- PART_CFG_WRITE (R263). -/
def State.partCfg (s : State) (p : Nat) (v : W64) : State :=
  if s.pstate p = sEMPTY then s.wrs p [(PART_CFG_quarters, bits v.toNat 0 16), (PART_CFG_priority, bits v.toNat 16 4)]
  else s.wr PART_STATUS_cfgErr p 1

def execPartCfgWrite (src : Src) (p : Fin 16) (val : W64) (s : State) : Result :=
  .next (s.access src (PART_CFG_quarters.addr p) 8 val (fun s => s.partCfg p val))

/-! ### LOAD and PREEMPT (R266, R275) -/

/-- An image is one that the fetch of PART_CMD_LEN bytes can bring. -/
def State.fetched (s : State) (img : PlateImage) : Bool :=
  (if img.readError then decide (img.bytes.length ≤ s.rd PART_CMD_LEN_len 0)
   else img.bytes.length == s.rd PART_CMD_LEN_len 0 && plateOk img)

/-- The fetch by host DMA engine 3, and the checks made at it. What came before a read error stands in the load areas; with the
engine's crossbar input quarantined nothing comes (R266, R282; log 56). -/
def State.fetchPlate (s : State) (op p : Nat) (img : PlateImage) : State :=
  let areas := (s.maskOf p).length * areaBytes
  if s.rd PART_CMD_ADDR_addr 0 % 4096 ≠ 0 ∨ areas < s.rd PART_CMD_LEN_len 0 ∨ bit (s.rd SVC_QUAR_quarantined 0) 11 then s.pcmdEnd causeFetch
  else
    let s := s.fillAreas p img
    if img.readError then s.pcmdEnd causeFetch
    else if plateCause img ≠ 0 then s.refusePlate p (plateCause img) else { s with pcmd := some ⟨op, p, some img, .fetched⟩ }

def State.cmdLoad (s : State) (p : Nat) (img : PlateImage) : State :=
  if s.shutting ∨ s.pstate p ≠ sEMPTY then s.pcmdEnd causeState
  else if s.rd PART_CFG_quarters p = 0 then s.pcmdEnd causeQuarter
  else s.fetchPlate 1 p img

/-- LOAD (R266). -/
def execLoad (src : Src) (p : Fin 16) (img : PlateImage) (s : State) : Result :=
  s.act (s.fetched img) (fun s => s.partCmdBy src p 1 (fun s => s.cmdLoad p img))

/-- The partitions that hold a quarter of p's mask. -/
def State.holders (s : State) (p : Nat) : List Nat :=
  (upto 16).filter (fun v => s.rd PART_STATUS_held v &&& s.rd PART_CFG_quarters p != 0)

/-- The plate maps a region that a STOPPED partition maps, or one that would stop for it (R270; log 51). -/
def State.preemptShape (s : State) (p : Nat) (img : PlateImage) : Bool :=
  match s.bindPlate p img with
  | none => false
  | some b => (plateRegions img b).any (fun k => s.regionTaken k || s.maps.any (fun m => m.2 == k && (s.holders p).contains m.1))

/-- A quarter the partition holds has a retired page in its save area, so that it cannot be stopped (R316). -/
def State.saveRetired (s : State) (p : Nat) : Bool :=
  (s.heldQs p).any (fun q => (upto 41).any (fun i => (s.region q (16343 + i)).retired))

def State.cmdPreempt (s : State) (p : Nat) (img : PlateImage) : State :=
  if s.shutting ∨ s.pstate p ≠ sEMPTY then s.pcmdEnd causeState
  else if s.rd PART_CFG_quarters p = 0 then s.pcmdEnd causeQuarter
  else if (s.holders p).any (fun v => decide (s.rd PART_CFG_priority p ≤ s.rd PART_CFG_priority v)) then s.pcmdEnd causePriority
  else if (s.holders p).any s.saveRetired then s.pcmdEnd causeQuarter
  else s.fetchPlate 5 p img

/-- PREEMPT (R275). -/
def execPreempt (src : Src) (p : Fin 16) (img : PlateImage) (s : State) : Result :=
  s.act (s.fetched img) (fun s => s.partCmdBy src p 5 (fun s => s.cmdPreempt p img))

/-- A stop of a partition that runs, loads or resumes; of one that is on its way out already it has no further effect
(R268, R276). -/
def State.stopPart (s : State) (p : Nat) : State :=
  let st := s.pstate p
  if st = sRUNNING ∨ st = sLOADING ∨ st = sRESUMING then s.askStop p .stop else s

/-- A PREEMPT loads its partition once no holder is left. -/
def State.pollStops (s : State) : State :=
  match s.pcmd with
  | some ⟨5, p, some img, .stops⟩ => if (s.holders p).isEmpty then s.loadFetched p img else s
  | _ => s

/-- PLATE_FETCH_DONE: a fetched LOAD goes on, a fetched PREEMPT stops the holders first, unless a quarter it needs is out
of service (R263, R266, R275). -/
def State.fetchDone (s : State) : State :=
  match s.pcmd with
  | some ⟨1, p, some img, .fetched⟩ => if s.rd PWR_STATUS_state 0 = 2 then s.loadFetched p img else s
  | some ⟨5, p, some img, .fetched⟩ =>
    if (s.maskOf p).any (fun q => (s.q q).svc != .none || bit s.dieFence (q / 4)) then s.pcmdEnd causeQuarter
    else if s.preemptShape p img then s.refusePlate p plSHAPE
    else if (s.holders p).any (fun v => decide (s.rd PART_CFG_priority p ≤ s.rd PART_CFG_priority v)) then s.pcmdEnd causePriority
    else
      let s := s.each (s.holders p) State.stopPart
      { s with pcmd := some ⟨5, p, some img, .stops⟩ }.pollStops
  | _ => s.pollStops

def execPlateFetchDone (s : State) : Result := .next s.fetchDone

/-! ### STOP, SAVE_DONE, RESUME, UNLOAD (R267, R268, R271, R276) -/

/-- STOP of a partition that is on its way out, or is out, has no further effect; any other goes on until the partition is
STOPPED (log 54). -/
def State.cmdStop (s : State) (p : Nat) : State :=
  let st := s.pstate p
  if st = sEMPTY then s.pcmdEnd causeState
  else if st = sSTOPPING ∨ st = sSAVING ∨ st = sSTOPPED ∨ st = sUNLOADING then s.pcmdEnd 0
  else if s.saveRetired p then s.pcmdEnd causeQuarter
  else { s.stopPart p with pcmd := some ⟨2, p, none, .stops⟩ }

def execStop (src : Src) (p : Fin 16) (s : State) : Result := .next (s.partCmdBy src p 2 (fun s => s.cmdStop p))

/-- A PREEMPT's fenced or other end, and the fences that wait for a quarter, are looked at when a partition lets go of its
quarters. -/
def State.saveDone (s : State) (p : Nat) : State :=
  if s.pstate p = sSAVING ∧ (s.part p).closing.isSome ∧ s.winsClosed p ∧ (s.part p).notices.isEmpty then
    ((((s.save p).releaseQuarters p).pollStopCmd p).pollRepair).pollStops
  else s

/-- SAVE_DONE (R268). -/
def execSaveDone (p : Fin 16) (s : State) : Result := .next (s.saveDone p)

/-- RESUME's own steps, shared with the wake of R337. -/
def State.resumePart (s : State) (p : Nat) : State :=
  if s.shutting ∨ s.pstate p ≠ sSTOPPED then s.pcmdEnd causeState
  else if !(s.maskOf p).all s.takeable then s.pcmdEnd causeQuarter
  else
    let s := (s.takeQuarters p sRESUMING).updPart p (fun x => { x with waking := true })
    { s with pcmd := some ⟨3, p, none, .waking⟩, aon := { s.aon with idleSince := s.dt } }.pollWaking

/-- RESUME (R271). -/
def execResume (src : Src) (p : Fin 16) (s : State) : Result := .next (s.partCmdBy src p 3 (fun s => s.resumePart p))

/-- UNLOAD: of a running partition at its next break point, of a STOPPING one in place of the stop unless a shutdown
stops it, of a STOPPED one at once (R267, R276; log 54). -/
def State.cmdUnload (s : State) (p : Nat) : State :=
  let st := s.pstate p
  let goesOn (s : State) : State := { s with pcmd := some ⟨4, p, none, .stops⟩ }
  if st = sRUNNING then goesOn (s.askStop p .unload)
  else if st = sSTOPPING then
    (match (s.part p).stop with
      | some (.shutdown, _) => goesOn s
      | some (_, f) => goesOn ((s.setPState p sUNLOADING).updPart p (fun x => { x with stop := some (.unload, f) }))
      | none => s.pcmdEnd causeState)
  else if st = sSTOPPED then (s.unloadPart p).pcmdEnd 0
  else s.pcmdEnd causeState

def execUnload (src : Src) (p : Fin 16) (s : State) : Result := .next (s.partCmdBy src p 4 (fun s => s.cmdUnload p))

/-- PART_CMD_INVALID: an op that names no command (R284). -/
def execPartCmdInvalid (src : Src) (p : Fin 16) (op : Fin 16) (s : State) : Result :=
  s.act (op.val == 0 || decide (6 ≤ op.val)) (fun s => s.partCmdBy src p op (fun s => s.pcmdEnd causeState))

end Sys2Proof.Machine
end

