-- ==== Sys2Proof/Machine/Remote.lean ====
section
/-! DEFINITION. Register accesses to remote devices (R301, R302). -/

namespace Sys2Proof.Machine

open Sys2Proof

/-- A message leaves in MGMT cells (R219, R301; log 63). -/
def State.sendMgmt (s : State) (j : Nat) (m : MgmtMsg) : State :=
  s.each (Config.mgmtCells m) (fun s c => s.egress j (ctlCell 3 (c.1 % 65536) c.2.1 c.2.2))

/-- HIF_RMT_CMD: an access to the remote device that HIF_RMT_ADDR names; ignored while one runs (R302). -/
def State.rmtStart (s : State) (write : Bool) : State :=
  if s.on HIF_RMT_STATUS_busy 0 then s
  else
    let k := s.rd HIF_RMT_ADDR_device 0
    if s.fwdUp k then ({ s with rmt := some ⟨k, write, s.dt⟩ }.wr HIF_RMT_STATUS_busy 0 1).sendMgmt (s.fwdPort k)
      (let off := 8 * s.rd HIF_RMT_ADDR_offset 0 ; if write then .write off (s.reg (HIF_RMT_DATA_data.addr 0)) else .read off)
    else s.rmtEnd 1

/-- RMT_READ (R301). -/
def execRmtRead (src : Src) (s : State) : Result :=
  .next (s.access src (HIF_RMT_CMD_read.addr 0) 8 1 (fun s => s.rmtStart false))

/-- RMT_WRITE (R301). -/
def execRmtWrite (src : Src) (s : State) : Result :=
  .next (s.access src (HIF_RMT_CMD_read.addr 0) 8 2 (fun s => s.rmtStart true))

/-- RMT_TIMEOUT: an access not answered within 1 ms (R301). -/
def State.rmtTimeout (s : State) : State :=
  match s.rmt with
  | some r => if r.since + 100000 ≤ s.dt then s.rmtEnd 2 else s
  | none => s

def execRmtTimeout (s : State) : Result := .next s.rmtTimeout

/-- HIF_FWD_k.state as it reads: 0 off, 1 up, 2 DOWN (R302). -/
def State.fwdState (s : State) (k : Nat) : Nat :=
  if s.on HIF_FWD_enable (k - 1) then (if s.fwdUp k then 1 else 2) else 0

end Sys2Proof.Machine
end

