-- ==== Sys2Proof/Machine/StackSvc.lean ====
section
/-! DEFINITION. The service side of the stacks, the Vat's edge slots and the crossbar: merges, held writes, refills,
region attributes, lane spares, slot owners, the service watchdog (R98, R112, R151 to R158, R282). -/

namespace Sys2Proof.Machine

open Sys2Proof

/-! ### The write-combining buffer and held writes (R153, R154) -/

/-- WCB_MERGE: the entry for a word of a half, in a service cycle free of streaming commands. -/
def State.wcbMerge (s : State) (half word : Nat) : State :=
  let a := half * 2 ^ 35 + word * 32
  match s.wcb.find? (fun e => e.word == a) with
  | some e => if s.streaming half (stkBank a) then s else s.wcbLand e
  | none => s

def execWcbMerge (half : Fin 16) (word : Nat) (s : State) : Result := .next (s.settle.wcbMerge half word)

/-- A held write reaches its word. -/
def State.landHeld (s : State) (h : Held) : State :=
  let s := { s with held := s.held.erase h }
  let s := if h.scrub then s.stkRaw h.word h.data h.code
    else if h.mask = fullMask then s.svcLand h.word h.data h.code
    else s.stkRaw h.word (mergeBytes (s.stkWord h.word) h.data h.mask) 0
  match h.win with
  | some (k, n) => if s.held.any (fun x => x.win == some (k, n)) then s else s.countCell k h.bytes
  | none => s

/-- HELD_WRITE_LAND: the oldest write held for a word, in the first service cycle with no streaming command in flight on
the bank; a cell counts once its last held word has landed (R239). -/
def State.heldLand (s : State) (half word : Nat) : State :=
  let a := half * 2 ^ 35 + word * 32
  match s.held.find? (fun h => h.word == a) with
  | some h => if s.streaming half (stkBank a) then s else s.landHeld h
  | none => s

def execHeldWriteLand (half : Fin 16) (word : Nat) (s : State) : Result := .next (s.settle.heldLand half word)

/-! ### Refills (R151, R158) -/

/-- STK_REFILL: a start while one runs is ignored (log 55). -/
def State.refillStart (s : State) (v : Nat) : State :=
  let s := s.setReg (STK_REFILL_start.addr 0) (BitVec.ofNat 64 (bits v 0 33))
  if !bit v 32 ∨ s.refill.isSome then s
  else { s with refill := some ⟨bits v 28 4, bits v 0 14, bits v 14 14⟩ }.wr STK_REFILL_STATUS_busy 0 1

def execStkRefill (src : Src) (val : W64) (s : State) : Result :=
  .next (s.access src (STK_REFILL_start.addr 0) 8 val (fun s => s.refillStart val.toNat))

/-- The word of a refill's source that stands at a pail of bank j: zero and poisoned where the source is not sealed
plain. -/
def State.refillWord (s : State) (r : Refill) (j w : Nat) : W256 × Bool :=
  if s.kindOf r.half r.src = 1 then
    let e := s.stkEcc (stkAddr r.half (128 * (r.src % 4) + j) (r.src / 4) w)
    (e.data, e.poison || e.res == .uncorrectable)
  else (0, true)

/-- One pail of a refill: whole check rows with their sums, and the words beyond them as they stand. -/
def State.refillPail (s : State) (r : Refill) (g : Region) (j : Nat) : State :=
  let per := 512 / Nat.max 1 g.rowLen
  let bank := 128 * (r.dst % 4) + j
  let s := if s.kindOf r.half r.src = 1 then
      s.each (upto 512) (fun s w => s.stkLog (stkAddr r.half (128 * (r.src % 4) + j) (r.src / 4) w) false)
    else s
  let s := s.each (upto per) (fun s i =>
    s.putRow r.half bank (r.dst / 4) i g ((upto g.rowLen).map (fun k => s.refillWord r j (i * g.rowLen + k))))
  s.each ((upto 512).filter (fun w => decide (per * g.rowLen ≤ w))) (fun s w =>
    s.svcPut (stkAddr r.half bank (r.dst / 4) w) (s.refillWord r j w).1 false)

/-- REFILL_DONE: done, and error on an uncorrectable word or a wrong kind, with the destination left poisoned. A bad copy in a
mapped region is a fault of the partition, and a good one its repair (R195, R312, R320). -/
def State.refillDone (s : State) : State :=
  match s.refill with
  | none => s
  | some r =>
    let g := s.region r.half r.dst
    let ok := s.kindOf r.half r.src == 1 && s.kindOf r.half r.dst == 2 && g.rowOk
    let bad := (upto 128).any (fun j => (upto 512).any (fun w =>
      (s.stkEcc (stkAddr r.half (128 * (r.src % 4) + j) (r.src / 4) w)).res == .uncorrectable))
    let s := if s.kindOf r.half r.dst = 2 ∧ g.rowOk then s.each (upto 128) (fun s j => s.refillPail r g j) else s
    let s := match s.mapped r.half r.dst with
      | some p => if ok && !bad then s.repaired p (regionFault r.half r.dst) else s.addFault p (regionKey r.half r.dst)
      | none => s
    s.refillEnd (!ok || bad)

def execRefillDone (s : State) : Result := .next s.settle.refillDone

/-! ### Region attributes (R148, R152, R158, R269, R316) -/

/-- STK_REGION_ATTR of the selected region, in force from the next frame; ignored for the save and load areas and for a
retired page. -/
def State.regionAttr (s : State) (v : Nat) : State :=
  let h := s.rd STK_REGION_SEL_half 0
  let r := s.rd STK_REGION_SEL_region 0
  if areaRegion r ∨ (s.region h r).retired then s
  else { s with regions := s.regions.upd (regionKey h r) (fun (g : Region) =>
      { g with pend := some (bits v 0 2, bits v 2 10, bits v 12 14, bits v 26 21) }) }

def execRegionAttrWrite (src : Src) (val : W64) (s : State) : Result :=
  .next (s.access src (STK_REGION_ATTR_kind.addr 0) 8 val (fun s => s.regionAttr val.toNat))

/-- The value that STK_REGION_ATTR reads: the attributes as last written (log 55). -/
def State.regionAttrRead (s : State) : Nat :=
  let h := s.rd STK_REGION_SEL_half 0
  let r := s.rd STK_REGION_SEL_region 0
  let g := s.region h r
  let m := b2n (s.mapped h r).isSome * 2 ^ 47
  if areaRegion r ∨ g.retired then s.kindOf h r + m
  else match g.pend with
    | some (k, l, sr, so) => k + l * 2 ^ 2 + sr * 2 ^ 12 + so * 2 ^ 26 + m
    | none => g.kind + g.rowLen * 2 ^ 2 + g.sumRegion * 2 ^ 12 + g.sumOffset * 2 ^ 26 + m

/-! ### Lane spares (R156) -/

/-- LANE_SPARE_SWITCH: the lane has passed the threshold, so the stack link has corrected that many words of it and any
number of others (log 58); its group's spare takes over, or the link is degraded. -/
def State.laneSwitch (s : State) (k group lane : Nat) : State :=
  let n := s.rd STK_LANE_CFG_threshold 0 + 1
  let s := { s with lanes := s.lanes.set (k * 2048 + group * 32 + lane) n }
  let s := (s.drawn).incSat STK_LINK_STATUS_corrected k (n + s.freeVal)
  let used := s.rd STK_LANE_SPARE_spareUsed k
  if bit used group then (s.wr STK_LINK_STATUS_degraded k 1).fault 0x0204 (.link (0x10 + k))
  else s.wr STK_LANE_SPARE_spareUsed k (used + 2 ^ group)

def execLaneSpareSwitch (k : Fin 8) (group : Fin 64) (lane : Fin 32) (s : State) : Result := .next (s.laneSwitch k group lane)

/-! ### Edge slots (R98, R112) -/

/-- VAT_SLOT_CFG: the owner of each slot and lending, in force from the next frame. -/
def State.slotCfgWrite (s : State) (v : Nat) : State :=
  (s.wr VAT_SLOT_CFG_slots 0 (v &&& 0x333333)).wr VAT_SLOT_CFG_lendUnused 0 (bits v 24 1)

def execVatSlotCfgWrite (src : Src) (val : W64) (s : State) : Result :=
  .next (s.access src (VAT_SLOT_CFG_slots.addr 0) 8 val (fun s => s.slotCfgWrite val.toNat))

/-! ### The service watchdog (R279, R282, R285) -/

/-- SVC_WATCHDOG: the grant has ended; the input is quarantined, input 31 excepted; the first event is recorded. -/
def State.watchdog (s : State) (input target : Nat) (locked : Bool) : State :=
  let q := s.rd SVC_QUAR_quarantined 0
  let s := if input = 31 then s else s.wr SVC_QUAR_quarantined 0 (q ||| 2 ^ input)
  let s := if s.on SVC_WDOG_EVENT_valid 0 then s
    else s.wrs 0 [(SVC_WDOG_EVENT_valid, 1), (SVC_WDOG_EVENT_input, input), (SVC_WDOG_EVENT_locked, b2n locked),
      (SVC_WDOG_EVENT_target, target), (SVC_WDOG_DT_dt, s.dt)]
  s.fault 0x0A01 (.input input)

/-- The target codes of R280. -/
def targetCode (t : Nat) : Bool :=
  decide (t ≤ 3) || (decide (0x10 ≤ t) && decide (t ≤ 0x20)) || (decide (0x30 ≤ t) && decide (t ≤ 0x33)) || t == 0x40

/-- Inputs 28 to 30 never request (R279). -/
def execSvcWatchdog (input : Fin 32) (target : Nat) (locked : Bool) (s : State) : Result :=
  s.act (targetCode target && !(decide (28 ≤ input.val) && decide (input.val ≤ 30))) (fun s => s.watchdog input target locked)

end Sys2Proof.Machine
end

