-- ==== Sys2Proof/Machine/HostIf.lean ====
section
/-! DEFINITION. The host link: BAR2 and BAR4, rings and their entries, host DMA, function-level reset
(R286 to R299, R302). -/

namespace Sys2Proof.Machine

open Sys2Proof

/-! ### BAR2 and BAR4 (R288 to R290, R312) -/

/-- A word that a TLP reaches: its address, the mask of the bytes concerned and their data in place. -/
structure TlpWord where
  addr : Nat
  mask : Nat
  data : W256
  deriving DecidableEq, Repr, Inhabited

/-- Bytes from an offset on as words. -/
def wordsOf (a : Nat) (bs : List (Byte × Bool)) : List TlpWord :=
  let n := (a % 32 + bs.length + 31) / 32
  (upto n).map (fun i =>
    let at_ (k : Nat) : Byte × Bool := if 32 * i + k < a % 32 then (0, false) else bs.getD (32 * i + k - a % 32) (0, false)
    ⟨a / 32 * 32 + 32 * i, (upto 32).foldl (fun m k => m + b2n (at_ k).2 * 2 ^ k) 0,
      BitVec.ofNat 256 (leNat ((upto 32).map (fun k => (at_ k).1)))⟩)

/-- A TLP's offset and length. -/
def tlpAddr : Tlp → Nat
  | .write a _ _ => a
  | .read a _ => a
def tlpLen : Tlp → Nat
  | .write _ d _ => d.length
  | .read _ n => n

/-- A TLP that the host link carries: payload to 512 bytes, read requests to 4,096, inside the BAR (R286, R288). -/
def tlpOk (size : Nat) (t : Tlp) : Bool :=
  decide (1 ≤ tlpLen t) && decide (tlpAddr t + tlpLen t ≤ size) &&
    (match t with
      | .write _ _ _ => decide (tlpLen t ≤ 512)
      | .read _ _ => decide (tlpLen t ≤ 4096))

/-- How a word stands to a function: 0 permitted, 1 in a hole, 2 forbidden. -/
def State.vatReach (s : State) (f a : Nat) : Nat :=
  let q := a / 2 ^ 26
  if !vatPopulated a then 1
  else if (s.q q).power = .on ∧ (f = 0 ∨ bit (s.rd PART_STATUS_held (s.bound.get f)) q) then 0 else 2

def State.stkReach (s : State) (f a : Nat) : Nat :=
  let h := a / 2 ^ 35
  if 2 ^ 39 ≤ a then 1
  else if s.halfUp h ∧ (s.rd PWR_STATUS_state 0 = 2 ∨ s.rd PWR_STATUS_state 0 = 3) ∧
      (f = 0 ∨ bit (s.rd PART_STATUS_held (s.bound.get f)) h) then 0 else 2

/-- The partition a function's access concerns. -/
def State.fnPart (s : State) (f : Nat) : Option Nat := some (s.bound.get f)

/-- Log a TLP's holes and forbidden words, each once at the first such word (R289). -/
def State.tlpFaults (s : State) (f : Nat) (reach : Nat → Nat) (loc : Nat → Loc) (as : List Nat) : State :=
  let s := match as.find? (fun a => reach a == 1) with
    | some a => s.logEvent 0x0502 (s.fnPart f) false (loc a) 0
    | none => s
  match as.find? (fun a => reach a == 2) with
  | some a => (s.logEvent 0x0A02 (s.fnPart f) false (loc a) 2).fnFlag f HIF_FN_STATUS_range
  | none => s

/-- A service write of the masked bytes of a Vat word: whole, or merged with the checked old word (R100, R305). -/
def State.vatMerge (s : State) (w : TlpWord) (poison : Bool) : State :=
  if w.mask = 0 then s
  else if w.mask = fullMask then s.vatPut w.addr w.data poison
  else
    let r := s.vatEcc w.addr
    (s.vatLog w.addr false).vatPut w.addr (mergeBytes r.data w.data w.mask) (r.poison || r.res == .uncorrectable || poison)

/-- Completed data of a read: the bytes asked for. -/
def readBytes (a n : Nat) (ws : List W256) : List Byte := ((ws.flatMap (fun w => leBytes 32 w.toNat)).drop (a % 32)).take n

/-- The words of a read. -/
def readAddrs (a n : Nat) : List Nat := (upto ((a % 32 + n + 31) / 32)).map (fun i => a / 32 * 32 + 32 * i)

/-- The function's accesses reach the memories: it exists and the crossbar input of their traffic class is not quarantined
(R279, R282; log 56). -/
def State.barOpen (s : State) (f tc : Nat) : Bool :=
  s.boot.phase == .running && s.fnEnabled f && !bit (s.rd SVC_QUAR_quarantined 0) (4 + tc)

/-- The words of an access that the hub link of their die has delivered poisoned are logged (R303). -/
def State.hubLog (s : State) (p : Option Nat) (dies : List Nat) : State :=
  s.each dies (fun s d => s.logEvent 0x0203 p false (.link (0x20 + d % 4)) 0)

/-- The elements of a list at the places that another list names. -/
def pickAt {α : Type} (l : List α) (hub : List Nat) : List α := (l.mapIdx (fun i x => (i, x))).filterMap (fun e => if hub.contains e.1 then some e.2 else none)

/-- BAR2: offset a is physical Vat address a. An access that no edge slot can carry waits (R98; log 57). -/
def State.bar2 (s : State) (f tc : Nat) (t : Tlp) (hub : List Nat) : State :=
  if !s.reaches (.fn (Fin.ofNat 64 f)) then s
  else if !s.barOpen f tc then s.emit (.unsupported f)
  else if !s.edgeOpen 2 then s
  else match t with
  | .write a d poisoned =>
    let ws := wordsOf a d
    let bad := ws.any (fun w => s.vatReach f w.addr != 0)
    let ok := ws.filter (fun w => s.vatReach f w.addr == 0)
    let late := pickAt (ws.map (·.addr)) hub
    let s' := (s.tlpFaults f (s.vatReach f) Loc.vat (ws.map (·.addr))).hubLog (s.fnPart f) (late.map (· / 2 ^ 28))
    let s' := if poisoned then
        (match ok.head? with
          | some w => s'.logEvent 0x0A02 (s'.fnPart f) false (.vat w.addr) 3
          | none => s')
      else (s'.each ok (fun s w => s.vatMerge w (late.contains w.addr))).edgeUse 2
        (ok.foldl (fun n w => n + (if w.mask = 0 then 0 else if w.mask = fullMask then 1 else 2)) 0)
    if bad then s'.emit (.unsupported f) else s'
  | .read a n =>
    let as := readAddrs a n
    if as.any (fun x => s.vatReach f x != 0) then (s.tlpFaults f (s.vatReach f) Loc.vat as).emit (.unsupported f)
    else
      let late := pickAt as hub
      let rs := as.map (fun x => (x, (s.vatEcc x).data, (s.vatEcc x).poison || late.contains x))
      let s' := ((s.each as (fun s x => s.vatLog x false)).edgeUse 2 as.length).hubLog (s.fnPart f) (late.map (· / 2 ^ 28))
      let s' := match rs.find? (fun e => e.2.2) with
        | some e => s'.logEvent 0x0A02 (s'.holder (e.1 / 2 ^ 26)) false (.vat e.1) 1
        | none => s'
      s'.emit (.completion f (readBytes a n (rs.map (·.2.1))) (rs.any (fun e => e.2.2)))

/-- BAR2_ACCESS (R289). -/
def execBar2Access (fn : Fin 64) (x : HostAccess) (s : State) : Result :=
  s.act (tlpOk (2 ^ 30) x.tlp) (fun s => (s.settle.bar2 fn x.tc x.tlp x.hub).pcieWake)

/-- A read that returns poison of stack words logs it once, at the first of them (R289). -/
def State.poisonedRead (s : State) : List Nat → State
  | [] => s
  | a :: _ => s.logEvent 0x0A02 (s.stkPart (a % 2 ^ 39)) false (.stack (a % 2 ^ 39)) 1

/-- A host write of the masked bytes of a stack word, delivered poisoned or not: into an open region poisoned data is dropped
(R148, R312). -/
def State.barPut (s : State) (w : TlpWord) (poison : Bool) : State :=
  if poison then
    (if sealedKind (s.kindAt w.addr) then s.svcWrite w.addr (mergeBytes (s.svcRead w.addr).1 w.data w.mask) true fullMask else s)
  else s.svcWrite w.addr w.data false w.mask

/-- BAR4: offset o is stack address base + o. -/
def State.bar4 (s : State) (f tc : Nat) (t : Tlp) (hub : List Nat) : State :=
  let base := s.rd HIF_WIN4_BASE_base f * 2 ^ 21
  let loc (a : Nat) : Loc := .stack (a % 2 ^ 39)
  if !s.reaches (.fn (Fin.ofNat 64 f)) then s
  else if !s.barOpen f tc then s.emit (.unsupported f)
  else match t with
  | .write o d poisoned =>
    let ws := wordsOf (base + o) d
    let bad := ws.any (fun w => s.stkReach f w.addr != 0)
    let ok := ws.filter (fun w => s.stkReach f w.addr == 0)
    let late := pickAt (ws.map (·.addr)) hub
    let s' := (s.tlpFaults f (s.stkReach f) loc (ws.map (·.addr))).hubLog (s.fnPart f) (late.map (· / 2 ^ 37))
    let s' := if poisoned then
        (match ok.head? with
          | some w => s'.logEvent 0x0A02 (s'.fnPart f) false (loc w.addr) 3
          | none => s')
      else s'.each ok (fun s w => if w.mask = 0 then s else s.barPut w (late.contains w.addr))
    if bad then s'.emit (.unsupported f) else s'
  | .read o n =>
    let as := readAddrs (base + o) n
    if as.any (fun x => s.stkReach f x != 0) then (s.tlpFaults f (s.stkReach f) loc as).emit (.unsupported f)
    else
      let late := pickAt as hub
      let rs := as.map (fun x => (x, (s.svcRead x).1, (s.svcRead x).2 || late.contains x))
      let s' := (s.each as (fun s x => s.stkReadLog x)).hubLog (s.fnPart f) (late.map (· / 2 ^ 37))
      let s' := s'.poisonedRead ((rs.filter (fun e => e.2.2)).map (·.1))
      s'.emit (.completion f (readBytes (base + o) n (rs.map (·.2.1))) (rs.any (fun e => e.2.2)))

/-- BAR4_ACCESS (R290). -/
def execBar4Access (fn : Fin 64) (x : HostAccess) (s : State) : Result :=
  s.act (tlpOk (2 ^ 36) x.tlp) (fun s => (s.settle.bar4 fn x.tc x.tlp x.hub).pcieWake)

/-- HIF_WIN4_BASE_f: a base that is no multiple of 2 MiB is ignored and sets win_err (R290). -/
def State.win4Base (s : State) (f : Nat) (v : W64) : State :=
  if v.toNat % 2 ^ 21 ≠ 0 then s.fnFlag f HIF_FN_STATUS_winErr else s.wr HIF_WIN4_BASE_base f (bits v.toNat 21 18)

/-- WIN4_BASE_WRITE. -/
def execWin4BaseWrite (src : Src) (fn : Fin 64) (val : W64) (s : State) : Result :=
  .next (if ownFn src fn then s.access src (viewOff src fn HIF_WIN4_BASE_base) 8 val (fun s => s.win4Base fn val) else s)

/-! ### Ring configuration (R293, R294, R302) -/

/-- HIF_RQ_CFG_f_k; enabling puts the head at slot 0 and the expected phase at 1. -/
def State.rqCfg (s : State) (i : Nat) (v : W64) : State :=
  let n := bits v.toNat 4 4
  let base := bits v.toNat 12 52
  let en := bit v.toNat 0
  let was := s.on HIF_RQ_CFG_enable i
  if n < 4 ∨ 12 < n ∨ (was ∧ en ∧ (n ≠ s.rd HIF_RQ_CFG_sizeLog2 i ∨ base ≠ s.rd HIF_RQ_CFG_base i)) then
    s.fnFlag (i / 4) HIF_FN_STATUS_cfgErr
  else
    let s := s.wrs i [(HIF_RQ_CFG_enable, b2n en), (HIF_RQ_CFG_sizeLog2, n), (HIF_RQ_CFG_base, base)]
    if en ∧ ¬ was then { s with rings := s.rings.set i ⟨0, true, 0⟩ } else s

/-- HIF_CQ_CFG_f; enabling puts W and C at 0. -/
def State.cqCfg (s : State) (f : Nat) (v : W64) : State :=
  let n := bits v.toNat 4 5
  let base := bits v.toNat 12 52
  let en := bit v.toNat 0
  let was := s.on HIF_CQ_CFG_enable f
  if n < 16 ∨ 24 < n ∨ (was ∧ en ∧ (n ≠ s.rd HIF_CQ_CFG_sizeLog2 f ∨ base ≠ s.rd HIF_CQ_CFG_base f)) then
    s.fnFlag f HIF_FN_STATUS_cfgErr
  else
    let s := s.wrs f [(HIF_CQ_CFG_enable, b2n en), (HIF_CQ_CFG_sizeLog2, n), (HIF_CQ_CFG_base, base)]
    if en ∧ ¬ was then s.updCq f (fun q => { q with w := 0, c := 0, fresh := 0 }) else s

/-- The ring configuration register at a PF offset: a request ring's, or a completion ring's. -/
def ringReg (a : Nat) : Option (Nat ⊕ Nat) :=
  match familyIndex 0x91000 64 128 4 a, familyIndex 0x91040 64 128 1 a with
  | some i, _ => some (.inl i)
  | _, some f => some (.inr f)
  | none, none => none

/-- A write of a ring configuration register by its PF offset. -/
def State.ringCfg (s : State) (a : Nat) (v : W64) : State :=
  match ringReg a with
  | some (.inl i) => s.rqCfg i v
  | some (.inr f) => s.cqCfg f v
  | none => s

/-- RING_CFG_WRITE. -/
def execRingCfgWrite (src : Src) (off : Nat) (val : W64) (s : State) : Result :=
  match s.writeOff src off with
  | some a => s.act (ringReg a).isSome (fun s => s.access src off 8 val (fun s => s.ringCfg a val))
  | none => .next s

/-! ### Entries (R291 to R293) -/

def entryKind (b : List Byte) : Nat := leAt b 1 1
def entryTag (b : List Byte) : Nat := leAt b 8 8
def entryBody (b : List Byte) : List Byte := b.drop 0x20

/-- A reserved bit of the 32-byte header is set. -/
def entryReserved (b : List Byte) : Bool := leAt b 0 1 / 2 != 0 || leAt b 2 6 != 0 || leAt b 0x10 16 != 0

/-- What an entry does once taken. -/
def State.entry (s : State) (f k : Nat) (r : RingRead) : State :=
  let b := r.bytes
  if 3 < entryKind b ∨ entryReserved b then
    (s.logEvent 0x0A03 (s.fnPart f) false (.fn f) 0).fnFlag f HIF_FN_STATUS_badEntry
  else match entryKind b with
  | 1 => s.submitReq f (entryBody b) r.prompt
  | 2 => s.cancelReq f (leAt (entryBody b) 0 4)
  | 3 => { s with dmaQ := s.dmaQ.upd k (fun q => q ++ [⟨f, entryTag b, entryBody b⟩]) }
  | _ => s

/-- Rings are scanned: the package is AWAKE or shutting down (R335, R337, R343). -/
def State.scans (s : State) : Bool :=
  s.boot.phase == .running && (s.rd PWR_STATUS_state 0 == 2 || s.rd PWR_STATUS_state 0 == 3)

/-- An entry at the head of a ring is taken when its phase is the expected one, and it is no SUBMIT or CANCEL of a
function whose partition is EMPTY. -/
def State.takes (s : State) (f k : Nat) (b : List Byte) : Bool :=
  let i := 4 * f + k
  s.scans && s.fnEnabled f && s.on HIF_RQ_CFG_enable i && (bit (leAt b 0 1) 0 == (s.rings.get i).phase) &&
    !((entryKind b == 1 || entryKind b == 2) && s.pstate (s.bound.get f) == sEMPTY)

/-- The head of a ring moves on. -/
def State.advance (s : State) (i : Nat) : State :=
  { s with
    rings := s.rings.upd i (fun r =>
      if r.head + 1 = 2 ^ s.rd HIF_RQ_CFG_sizeLog2 i then ⟨0, !r.phase, r.wraps + 1⟩ else { r with head := r.head + 1 })
    aon := { s.aon with idleSince := s.dt } }

/-- The entries of one visit, in ring order, until one is not taken. -/
def State.visitReads (s : State) (f k : Nat) : List RingRead → State × Bool
  | [] => (s, false)
  | r :: t =>
    if s.takes f k r.bytes then
      let q := ((s.advance (4 * f + k)).entry f k r).visitReads f k t
      (q.1, true)
    else (s, false)

/-- One visit of a ring: at most 16 entries, then the writeback. -/
def State.visit (s : State) (f k : Nat) (rs : List RingRead) : State :=
  let i := 4 * f + k
  let q := s.visitReads f k (rs.take 16)
  let a := q.1.rd HIF_RQ_WB_addr i
  let r := q.1.rings.get i
  if q.2 ∧ a ≠ 0 then q.1.emit (.hostWrite (8 * a) (leBytes 4 r.head ++ leBytes 4 r.wraps) []) else q.1

/-- An entry taken from a ring of a remote device goes toward it; while its path is down it waits untaken (R301). -/
def State.forwardEntry (s : State) (r : RingRead) : State :=
  if s.fwdUp r.dev then s.sendMgmt (s.fwdPort r.dev) (.entry r.fn r.ring r.bytes r.prompt) else s

/-- A ring tick (R292, R294): consumed offsets, records that now fit, rings in ascending function and ring, the step
tables that may now be made, shipments, tails. -/
def State.ringTick (s : State) (reads : List RingRead) (consumed : List (Fin 64 × Nat)) : State :=
  if s.scans then
    let s := s.settle.each (upto 16) State.checkTree
    let s := s.each consumed (fun s e => s.cqRead e.1 e.2)
    let s := s.each (upto 64) State.cqFlush
    let s := s.each (upto 256) (fun s i => s.visit (i / 4) (i % 4) (reads.filter (fun r => r.dev == 0 && r.fn.val == i / 4 && r.ring.val == i % 4)))
    let s := s.each (reads.filter (fun r => r.dev != 0)) (fun s r => s.forwardEntry r)
    let s := s.each (upto 16) State.assemble
    let s := s.pollShips
    s.each (upto 64) State.cqTail
  else s

/-- RING_TICK (R292). -/
def execRingTick (reads : List RingRead) (consumed : List (Fin 64 × Nat)) (s : State) : Result :=
  s.act (reads.all ringReadOk) (fun s => s.ringTick reads consumed)

/-- SUBMIT (R188): one visit that finds this entry, and the step table that may then be made (R190). -/
def execSubmit (r : RingRead) (s : State) : Result :=
  s.act (ringReadOk r && r.dev == 0 && entryKind r.bytes == 1) (fun s => s.manage (s.bound.get r.fn) (fun s => (s.visit r.fn r.ring [r]).assemble (s.bound.get r.fn)))

/-- CANCEL (R204). -/
def execCancel (r : RingRead) (s : State) : Result :=
  s.act (ringReadOk r && r.dev == 0 && entryKind r.bytes == 2) (fun s => s.manage (s.bound.get r.fn) (fun s => s.visit r.fn r.ring [r]))

/-- DMA (R296). -/
def execDma (r : RingRead) (s : State) : Result :=
  s.act (ringReadOk r && r.dev == 0 && entryKind r.bytes == 3) (fun s => s.visit r.fn r.ring [r])

/-- NOP (R291). -/
def execNop (r : RingRead) (s : State) : Result :=
  s.act (ringReadOk r && r.dev == 0 && entryKind r.bytes == 0) (fun s => s.visit r.fn r.ring [r])

/-! ### Function-level reset (R299, R380) -/

/-- An ARRIVING entry of a function is discarded with what still arrives for it (R213, R299). -/
def State.dropArrivals (s : State) (f : Nat) : State :=
  s.each slots (fun s i => if (s.req i).st = .arriving ∧ (s.req i).vf = f then s.retireReq (s.req i).part i else s)

/-- The part of a function: its rings and window base at reset, its entries lost, its live requests to retire without
records, its binding in force. -/
def State.resetFn (s : State) (f : Nat) : State :=
  let own (a : Nat) : Bool := decide (0x91000 + 128 * f ≤ a) && decide (a < 0x91068 + 128 * f) || a == 0x800 + 8 * f
  let s := { s with regs := s.regs.keep (fun a => !own a) }
  let s := s.wr HIF_FN_STATUS_stalled f 0
  let s := { s with
    rings := s.rings.keep (fun i => i / 4 != f)
    cqs := s.cqs.set f {}
    dmaQ := (s.dmaQ.map (fun (e : Nat × List DmaReq) => (e.1, e.2.filter (fun (d : DmaReq) => d.fn != f)))).filter (fun (e : Nat × List DmaReq) => !e.2.isEmpty)
    cfgSpace := s.cfgSpace.keep (fun r => r / 1024 != f)
    masked := s.masked.filter (· != f)
    msixPend := s.msixPend.filter (fun v => v / 128 != f) }
  let s := s.each slots (fun s i => if (s.req i).live ∧ (s.req i).vf = f then s.updReq i (fun r => { r with flr := true }) else s)
  let s := s.dropArrivals f
  { s with bound := s.bound.set f (bits (s.reg (PART_BIND_f.addr (f / 16))).toNat (4 * (f % 16)) 4) }

/-- A partition is unloaded by a reset of the PF: it withdraws with cause RESET; stack data and kinds stay (log 62). -/
def State.flrUnload (s : State) (p : Nat) : State :=
  if s.pstate p = sEMPTY then s else ((s.withdrawAll p wRESET).failPcmd p).unloadPart p

/-- A function-level reset of a function, of the PF also of every VF. -/
def State.flr (s : State) (f : Nat) : State :=
  if f = 0 then
    let s := s.each (upto 64) State.resetFn
    let s := s.each (upto 16) State.flrUnload
    { s with vfEnable := false, numVfs := 0 }
  else s.resetFn f

/-- FUNCTION_LEVEL_RESET. -/
def execFunctionLevelReset (fn : Fin 64) (s : State) : Result :=
  .next (if (s.boot.phase = .running ∨ s.boot.phase = .recovery) ∧ s.fnEnabled fn then s.settle.flr fn else s)

end Sys2Proof.Machine
end

