-- ==== Sys2Proof/Machine/Scrub.lean ====
section
/-! DEFINITION. The scrub engine and the fault log's head (R310, R311, R313, R327). -/

namespace Sys2Proof.Machine

open Sys2Proof

/-- The scrub engine takes cycles: frames run and crossbar input 3 is not quarantined. -/
def State.scrubs (s : State) : Bool := s.framesRun && !bit (s.rd SVC_QUAR_quarantined 0) 3

/-- The region that a pail of a bank lies in (R134). -/
def bankRegion (bank pail : Nat) : Nat := 4 * pail + bank / 128

/-- A bank that the scrub engine walks. -/
def State.bankScrubbed (s : State) (half bank : Nat) : Bool := s.halfUp half && !s.badBanks.contains (half * 512 + bank)

/-- The next sealed word of a bank at or after a bank word address, in ascending order. -/
def State.nextSealed (s : State) (half bank n : Nat) : Option Nat :=
  if n < 2097152 ∧ sealedKind (s.kindOf half (bankRegion bank (n / 512))) then some n
  else ((upto 4096).find? (fun pail => decide (n < pail * 512) && sealedKind (s.kindOf half (bankRegion bank pail)))).map (· * 512)

/-- A bank has reached the end of its walk; when every bank has, a sweep is complete. -/
def State.stkLap (s : State) (half bank : Nat) : State :=
  let laps := s.stkLaps.set (half * 512 + bank) true
  if (upto 16).all (fun h => (upto 512).all (fun b => !s.bankScrubbed h b || laps.get (h * 512 + b))) then
    { s with stkLaps := [] }.inc INT_SCRUB_STATUS_stackSweeps 0 1
  else { s with stkLaps := laps }

/-- The scrub of one word: what the checker finds is logged, and a word that is not clean is to be rewritten. -/
def State.scrubWord (s : State) (a : Nat) : State :=
  let r := s.stkEcc a
  if r.res = .clean then s
  else
    let s := s.stkLog a true
    let code := eccCode r.data (r.poison || r.res == .uncorrectable)
    { s with held := s.held.filter (fun h => !(h.scrub && h.word == a)) ++ [⟨a, r.data, code, fullMask, true, none, 0⟩] }

/-- SCRUB_STACK_WORD: the next sealed word of a bank. -/
def State.scrubStack (s : State) (half bank : Nat) : State :=
  if s.scrubs ∧ s.rd INT_SCRUB_CFG_stackInterval 0 ≠ 0 ∧ s.bankScrubbed half bank then
    let k := half * 512 + bank
    match s.nextSealed half bank (s.scrubStk.get k) with
    | some n => ({ s with scrubStk := s.scrubStk.set k (n + 1) }).scrubWord (stkAddr half bank (n / 512) (n % 512))
    | none =>
      match s.nextSealed half bank 0 with
      | some n => (({ s with scrubStk := s.scrubStk.set k (n + 1) }).stkLap half bank).scrubWord (stkAddr half bank (n / 512) (n % 512))
      | none => s
  else s

def execScrubStackWord (half : Fin 16) (bank : Fin 512) (s : State) : Result := .next (s.settle.scrubStack half bank)

/-- A quarter whose Vat is scrubbed: IDLE, RUNNING, STOPPED or FENCED, and powered. -/
def State.vatScrubbed (s : State) (q : Nat) : Bool :=
  decide (2 ≤ s.quarterCode q) && decide (s.quarterCode q ≤ 5) && (s.q q).power == .on && !bit s.dieFence (q / 4)

/-- As `stkLap`, for the Vat. -/
def State.vatLap (s : State) (bank : Nat) : State :=
  let laps := s.vatLaps.set bank true
  if (upto 4096).all (fun b => !s.vatScrubbed (b / 256) || laps.get b) then
    { s with vatLaps := [] }.inc INT_SCRUB_STATUS_vatSweeps 0 1
  else { s with vatLaps := laps }

/-- SCRUB_VAT_WORD: the next word of a Vat bank, read at pc 62 and rewritten at pc 63 of the same frame. -/
def State.scrubVatWord (s : State) (bank : Nat) : State :=
  if s.scrubs ∧ s.rd INT_SCRUB_CFG_vatInterval 0 ≠ 0 ∧ s.vatScrubbed (bank / 256) then
    let w := s.scrubVat.get bank
    let a := bank / 256 * 2 ^ 26 + w * 8192 + bank % 256 * 32
    let r := s.vatEcc a
    let s := if r.res = .clean then s else (s.vatLog a true).vatPut a r.data (r.poison || r.res == .uncorrectable)
    let s := { s with scrubVat := s.scrubVat.set bank ((w + 1) % 6144) }
    if w + 1 = 6144 then s.vatLap bank else s
  else s

def execScrubVatWord (bank : Fin 4096) (s : State) : Result := .next (s.settle.scrubVatWord bank)

/-- INT_LOG_HEAD: marks entries as read; a write that would pass tail is ignored. -/
def State.logHead (s : State) (v : Nat) : State :=
  let old := s.rd INT_LOG_HEAD_head 0
  let unread := s.rd INT_LOG_STATUS_unread 0
  let n := (v % 1024 + 1024 - old) % 1024
  if unread < n then s else (s.wr INT_LOG_HEAD_head 0 v).wr INT_LOG_STATUS_unread 0 (unread - n)

/-- LOG_HEAD_WRITE. -/
def execLogHeadWrite (src : Src) (val : W64) (s : State) : Result :=
  .next (s.access src (INT_LOG_HEAD_head.addr 0) 8 val (fun s => s.logHead val.toNat))

end Sys2Proof.Machine
end

