-- ==== Sys2Proof/Machine/RepairCmd.lean ====
section
/-! DEFINITION. Repair: fences, BIST, spares, retirement, region initialisation and refetch (R307, R316 to R327). -/

namespace Sys2Proof.Machine

open Sys2Proof

/-- Causes of INT_REPAIR_STATUS (R327). -/
abbrev rSTATE : Nat := 1
abbrev rNOSPARE : Nat := 2
abbrev rFETCH : Nat := 3
abbrev rVERIFY : Nat := 4
abbrev rARG : Nat := 5
abbrev rTIMEOUT : Nat := 6

/-- A repair operation with the bits of INT_REPAIR_CMD: ignored while one runs (R326), and in RECOVERY, where no such command acts
(R362). -/
def State.repairOp (s : State) (word : Nat) (f : State → State) : State :=
  if s.on INT_REPAIR_STATUS_busy 0 ∨ s.boot.phase = .recovery then s
  else f (s.setReg (INT_REPAIR_CMD_op.addr 0) (BitVec.ofNat 64 word))

/-- An INT_REPAIR_CMD write of a source. -/
def State.repairBy (s : State) (src : Src) (word : Nat) (f : State → State) : State :=
  s.access src (INT_REPAIR_CMD_op.addr 0) 8 (BitVec.ofNat 64 word) (fun s => s.repairOp word f)

/-- The grid frame, for operations that take frames. -/
def State.frameNow (s : State) : Nat := s.rd PKG_GRID_FRAME_gridFrame 0

/-! ### Fences (R321, R324) -/

/-- A resume is abandoned: the partition is STOPPED again with its save areas intact; RESUME fails with QUARTER. -/
def State.abandonResume (s : State) (p : Nat) : State :=
  let s := match s.pcmd with
    | some c => if c.p = p then s.pcmdEnd causeQuarter else s
    | none => s
  let s := ((s.withdrawAll p wFENCE).closeAll p).releaseQuarters p
  (s.updPart p (fun x => { x with waking := false, starting := false, wait := none, stop := none })).setPState p sSTOPPED

/-- What a fence does to the partition that holds the quarter: one that loads or runs halts, one that resumes returns to
STOPPED, one on its way out goes on. -/
def State.clearFor (s : State) (q : Nat) : State :=
  match s.holder q with
  | none => s
  | some p =>
    let st := s.pstate p
    if st = sLOADING ∨ st = sRUNNING then s.haltPart p wFENCE
    else if st = sRESUMING then s.abandonResume p
    else s

/-- FENCE_QUARTER. -/
def State.fenceQuarter (s : State) (q : Nat) : State :=
  match (s.q q).svc with
  | .fenced => s.repairEnd 0
  | .test => s.repairEnd rSTATE
  | .retired => s.repairEnd rSTATE
  | .none =>
    let p := s.holder q
    let s := s.clearFor q
    if (s.holder q).isNone then (s.fenceNow q p).repairEnd 0 else s.repairStart ⟨1, 1 + 16 * q, q, s.frameNow, none⟩

def execFenceQuarter (src : Src) (q : Fin 16) (s : State) : Result := .next (s.repairBy src (1 + 16 * q) (fun s => s.fenceQuarter q))

/-- UNFENCE_QUARTER: to IDLE, which a quarter still powering up reaches at its wake. -/
def State.unfenceQuarter (s : State) (q : Nat) : State :=
  let x := s.q q
  if x.svc = .fenced ∧ (¬ x.bistRun ∨ x.bistPass) ∧ ¬ x.linkBad ∧ ¬ bit s.dieFence (q / 4) then
    let s := s.setQ q (fun y => { y with svc := .none, unheldSince := s.dt })
    if x.power = .waking then s.repairStart ⟨2, 2 + 16 * q, q, s.frameNow, none⟩ else s.repairEnd 0
  else s.repairEnd rSTATE

def execUnfenceQuarter (src : Src) (q : Fin 16) (s : State) : Result :=
  .next (s.repairBy src (2 + 16 * q) (fun s => s.unfenceQuarter q))

/-- FENCE_DIE: the quarters fence as one; the die goes off once none is held. -/
def State.fenceDieCmd (s : State) (d : Nat) : State :=
  if bit s.dieFence d then s.repairEnd 0
  else ((s.each ((upto 4).map (4 * d + ·)) State.clearFor).repairStart ⟨6, 6 + 2 ^ 8 * d, d, s.frameNow, none⟩).pollRepair

def execFenceDie (src : Src) (d : Fin 4) (s : State) : Result := .next (s.repairBy src (6 + 2 ^ 8 * d) (fun s => s.fenceDieCmd d))

/-- UNFENCE_DIE: the die is powered and its links train; its quarters wake cleared (R94, R116, R138) and stay FENCED.
A failure is logged and, as the manual names no cause, reported as STATE (log 73). -/
def State.unfenceDieCmd (s : State) (d : Nat) (trained : Bool) (lanes : List (Nat × Nat × Nat)) : State :=
  if !bit s.dieFence d then s.repairEnd rSTATE
  else
  let a := s.trainLanes lanes (2 * d)
  let b := a.1.trainLanes lanes (2 * d + 1)
  if trained ∧ a.2 ∧ b.2 then
    let s := { b.1 with dieFence := s.dieFence - 2 ^ d }
    let s := s.each [2 * d, 2 * d + 1] (fun s k => s.wr STK_LINK_STATUS_trained k 1)
    (s.each ((upto 4).map (4 * d + ·)) (fun s q => (s.quarterClear q).setQ q (fun x => { x with power := .on, linkBad := false }))).repairEnd 0
  else (s.logEvent 0x0201 none false (.link (0x20 + d)) 0).repairEnd rSTATE

def execUnfenceDie (src : Src) (d : Fin 4) (x : Training) (s : State) : Result :=
  s.act (lanesOk x.lanes) (fun s => s.repairBy src (7 + 2 ^ 8 * d) (fun s => s.unfenceDieCmd d x.passed x.lanes))

/-! ### BIST (R322) -/

/-- BIST takes a FENCED quarter to TEST. -/
def State.bistStart (s : State) (q : Nat) : State :=
  if (s.q q).svc = .fenced ∧ ¬ bit s.dieFence (q / 4) then
    ((s.setQ q (fun x => { x with svc := .test })).wr INT_BIST_done q 0).repairStart ⟨3, 3 + 16 * q, q, s.frameNow, none⟩
  else s.repairEnd rSTATE

def execBist (src : Src) (q : Fin 16) (s : State) : Result := .next (s.repairBy src (3 + 16 * q) (fun s => s.bistStart q))

/-- Every unit passed. -/
def bistGood (r : BistResult) : Bool :=
  r.press == 0 && r.burin == 0 && !r.vat && !r.churn && !r.dma && !r.checker && !r.sparePress && r.spareBurin == 0

/-- The spares of a die after a BIST: the unused ones as it found them. -/
def State.noteSpares (s : State) (d : Nat) (r : BistResult) : List Nat :=
  let bad : List (Nat × Bool × Bool) :=
    [(3 * d, s.on INT_SPARE_pressUsed d, r.sparePress), (3 * d + 1, s.on INT_SPARE_burin0Used d, bit r.spareBurin 0),
     (3 * d + 2, s.on INT_SPARE_burin1Used d, bit r.spareBurin 1)]
  bad.foldl (fun l e => if e.2.1 then l else l.filter (· != e.1) ++ (if e.2.2 then [e.1] else [])) s.badSpares

/-- BIST_COMPLETE: the Vat banks are zero, the quarter is FENCED, the result stands in INT_BIST_q. -/
def State.bistDone (s : State) (q : Nat) (r : BistResult) : State :=
  match s.repair with
  | some ⟨3, _, a, _, _⟩ =>
    if a = q then
      let spares := s.noteSpares (q / 4) r
      let s := { s.vatClear q with badSpares := spares }
      let s := s.wrs q [(INT_BIST_done, 1), (INT_BIST_pass, b2n (bistGood r)), (INT_BIST_press, r.press), (INT_BIST_burin, r.burin),
        (INT_BIST_vat, b2n r.vat), (INT_BIST_churn, b2n r.churn), (INT_BIST_dma, b2n r.dma), (INT_BIST_checker, b2n r.checker),
        (INT_BIST_sparePress, b2n r.sparePress), (INT_BIST_spareBurin, r.spareBurin)]
      let s := s.setQ q (fun x => { x with svc := .fenced, bistRun := true, bistPass := bistGood r })
      (if bistGood r then s else s.logEvent 0x0D02 none false .none 0).repairEnd 0
    else s
  | _ => s

def execBistComplete (q : Fin 16) (r : BistResult) (s : State) : Result :=
  s.act (decide (r.press < 16) && decide (r.burin < 256) && decide (r.spareBurin < 4)) (fun s => s.bistDone q r)

/-! ### Spares (R323) -/

/-- A unit stands on a spare of its die that is free and passed its last BIST; none where there is no such spare. A unit
that stood on another spare leaves it (log 71). -/
def State.placeSpare (s : State) (q : Nat) (burin : Bool) (unit : Nat) : Option State :=
  let d := q / 4
  let free (f : Fld) (i : Nat) : Bool := !s.on f d && !s.badSpares.contains (3 * d + i)
  if burin then
    let code := 8 * (q % 4) + unit
    let s' := s
      |> (fun s => if s.on INT_SPARE_burin0Used d ∧ s.rd INT_SPARE_burin0For d = code then s.wr INT_SPARE_burin0Used d 0 else s)
      |> (fun s => if s.on INT_SPARE_burin1Used d ∧ s.rd INT_SPARE_burin1For d = code then s.wr INT_SPARE_burin1Used d 0 else s)
    if free INT_SPARE_burin0Used 1 then some (s'.wrs d [(INT_SPARE_burin0Used, 1), (INT_SPARE_burin0For, code)])
    else if free INT_SPARE_burin1Used 2 then some (s'.wrs d [(INT_SPARE_burin1Used, 1), (INT_SPARE_burin1For, code)])
    else none
  else if free INT_SPARE_pressUsed 0 then
    some (s.wrs d [(INT_SPARE_pressUsed, 1), (INT_SPARE_pressFor, 4 * (q % 4) + unit)])
  else none

/-- The words of INT_REPAIR_CMD for a substitution. -/
def subWord (q : Nat) (burin : Bool) (unit : Nat) : Nat := 4 + 16 * q + 2 ^ 12 * b2n burin + 2 ^ 13 * unit

/-- The code of R131 of a unit of a quarter. -/
def unitCode (q : Nat) (burin : Bool) (unit : Nat) : Nat := if burin then 0x80 + 8 * q + unit else 4 * q + unit

/-- SUBSTITUTE. -/
def State.substitute (s : State) (q : Nat) (burin : Bool) (unit : Nat) : State :=
  if ¬ burin ∧ 4 ≤ unit then s.repairEnd rARG
  else if (s.q q).svc ≠ .fenced then s.repairEnd rSTATE
  else match s.placeSpare q burin unit with
    | some s' => ((s'.logEvent 0x0D03 none false (.unit (unitCode q burin unit)) 0).listAppend 4 (subWord q burin unit) (s.rd INT_REPAIR_ARG_arg 0)).repairEnd 0
    | none => (s.logEvent 0x0D04 none false (.unit (unitCode q burin unit)) 0).repairEnd rNOSPARE

def execSubstitute (src : Src) (q : Fin 16) (burin : Bool) (unit : Fin 8) (s : State) : Result :=
  .next (s.repairBy src (subWord q burin unit) (fun s => s.substitute q burin unit))

/-! ### Retirement (R316 to R318) -/

/-- A retired page reads as unused from now on. -/
def State.retirePage (s : State) (half region : Nat) : State :=
  { s with regions := s.regions.upd (regionKey half region) (fun g => { g with retired := true }) }

/-- A retired bank: the regions of its group go with it. -/
def State.retireBank (s : State) (half bank : Nat) : State :=
  let s := { s with badBanks := if s.badBanks.contains (half * 512 + bank) then s.badBanks else s.badBanks ++ [half * 512 + bank] }
  s.each (upto 4096) (fun s pail => s.retirePage half (bankRegion bank pail))

/-- A retired half: its quarter is RETIRED and its data is lost; nothing reaches it any more (log 70). -/
def State.retireHalf (s : State) (h : Nat) : State :=
  { s.setQ h (fun x => { x with svc := .retired, power := .off }) with
    stk := s.stk.keep (fun a => stkHalf a != h)
    stkCode := s.stkCode.keep (fun w => w / 2 ^ 30 != h) }

/-- Log a retirement, record it, and end. -/
def State.retired (s : State) (cmd : Nat) (l : Loc) : State :=
  ((s.logEvent 0x0D05 none false l 0).listAppend 5 cmd (s.rd INT_REPAIR_ARG_arg 0)).repairEnd 0

/-- The words of INT_REPAIR_CMD for a retirement. -/
def retireWord (granule q half region bank : Nat) : Nat := 5 + 16 * q + 2 ^ 10 * granule + 2 ^ 16 * half + 2 ^ 20 * region + 2 ^ 34 * bank

/-- RETIRE. A row goes on as a copy; for a bank or a half the quarter field names it (log 70). -/
def State.retire (s : State) (granule q half region bank : Nat) : State :=
  let cmd := retireWord granule q half region bank
  match granule with
  | 0 =>
    if !s.halfUp half then s.repairEnd rSTATE
    else if 32 ≤ (s.rowMap.filter (fun e => e.1 == half && e.2.1 == bank)).length then
      (s.logEvent 0x010A none false (.stack (stkAddr half bank 0 0)) 0).repairEnd rNOSPARE
    else
      { s with rowCopy := some ⟨half, bank, bits (s.rd INT_REPAIR_ARG_arg 0) 0 15, s.frameNow⟩ }.repairStart ⟨5, cmd, half, s.frameNow, none⟩
  | 1 =>
    if (s.mapped half region).isSome then s.repairEnd rSTATE
    else (s.retirePage half region).retired cmd (.stack (half * 2 ^ 35 + region * 2 ^ 21))
  | 2 =>
    if (s.q q).svc ≠ .fenced then s.repairEnd rSTATE
    else (s.retireBank q bank).retired cmd (.stack (stkAddr q bank 0 0))
  | _ =>
    if (s.q q).svc ≠ .fenced then s.repairEnd rSTATE
    else (s.retireHalf q).retired cmd (.stack (q * 2 ^ 35))

def execRetire (src : Src) (granule : Fin 4) (q : Fin 16) (half : Fin 16) (region : Fin 16384) (bank : Fin 512) (s : State) :
    Result :=
  .next (s.repairBy src (retireWord granule q half region bank) (fun s => s.retire granule q half region bank))

/-- The stack addresses of the words of a DRAM row. -/
def dramRow (half bank row : Nat) : List Nat := (upto 64).map (fun i => stkAddr half bank (64 * row / 512) (64 * row % 512 + i))

/-- A word as it is copied into a spare row: corrected, or with poison set where it cannot be, in a sealed region; as
stored elsewhere. -/
def State.copyWord (s : State) (a : Nat) : State :=
  if sealedKind (s.kindAt a) then
    let r := s.stkEcc a
    (s.stkLog a false).stkRaw a r.data (eccCode r.data (r.poison || r.res == .uncorrectable))
  else s

/-- ROW_COPY_SWITCH: at a frame start, at least 128 frames on, every word copied. -/
def State.rowSwitch (s : State) : State :=
  match s.rowCopy, s.repair with
  | some c, some r =>
    if c.since + 128 ≤ s.frameNow then
      let s := (s.each (dramRow c.half c.bank c.row) State.copyWord).unwithhold c.half c.bank c.row
      { s with rowCopy := none, rowMap := s.rowMap ++ [(c.half, c.bank, c.row)] }.retired r.cmd
        (.stack ((dramRow c.half c.bank c.row).headD 0))
    else s
  | _, _ => s

def execRowCopySwitch (s : State) : Result := .next s.settle.rowSwitch

/-- ROW_COPY_TIMEOUT: the old row stays in use. -/
def State.rowTimeout (s : State) : State :=
  match s.rowCopy with
  | some c => if c.since + 2 ^ 20 ≤ s.frameNow then { s with rowCopy := none }.repairEnd rTIMEOUT else s
  | none => s

def execRowCopyTimeout (s : State) : Result := .next s.rowTimeout

/-! ### Region initialisation and refetch (R307, R320) -/

/-- REGION_INIT. -/
def State.regionInit (s : State) (half region : Nat) : State :=
  if (s.mapped half region).isSome ∨ !s.halfUp half then s.repairEnd rSTATE
  else s.repairStart ⟨8, 8 + 2 ^ 16 * half + 2 ^ 20 * region, regionKey half region, s.frameNow, none⟩

def execRegionInit (src : Src) (half : Fin 16) (region : Fin 16384) (s : State) : Result :=
  .next (s.repairBy src (8 + 2 ^ 16 * half + 2 ^ 20 * region) (fun s => s.regionInit half region))

/-- An address lies in the region of a key. -/
def inRegion (key a : Nat) : Bool := a / 2 ^ 21 == key

/-- Every word of a region zero with valid check bits; a region of kind 0 drops the writes (R148). -/
def State.zeroRegion (s : State) (key : Nat) : State :=
  if s.kindOf (key / 16384) (key % 16384) = 0 then s
  else
    { s with
      stk := s.stk.keep (fun a => !inRegion key a)
      stkCode := s.stkCode.keep (fun w => !inRegion key (32 * w))
      wcb := s.wcb.filter (fun e => !inRegion key e.word)
      held := s.held.filter (fun h => !(h.scrub && inRegion key h.word)) }

/-- REGION_INIT_DONE: at least 512 frames on. -/
def State.regionInitDone (s : State) : State :=
  match s.repair with
  | some r => if r.op = 8 ∧ r.since + 512 ≤ s.frameNow then (s.zeroRegion r.arg).repairEnd 0 else s
  | none => s

def execRegionInitDone (s : State) : Result := .next s.settle.regionInitDone

/-- REFETCH_HOST: host DMA engine 3 fetches the region; the words land in ascending offset until one is poisoned or a read
fails (R297; log 56, log 72). -/
def State.refetchHost (s : State) (half region : Nat) (host : HostData) : State :=
  let key := regionKey half region
  let r : Repair := ⟨9, 9 + 2 ^ 16 * half + 2 ^ 20 * region, key, s.frameNow, none⟩
  if s.rd INT_REPAIR_ARG_arg 0 % 4096 ≠ 0 then s.repairEnd rARG
  else if !s.halfUp half then s.repairEnd rSTATE
  else if bit (s.rd SVC_QUAR_quarantined 0) 11 then s.refetchEnd r rFETCH
  else
    let n := Nat.min 65536 (host.failAfter.getD 65536)
    let bad (i : Nat) : Bool := host.poisoned.contains i || host.hub.contains i
    let s := s.each host.hub (fun s _ => s.logEvent 0x0203 (s.mapped half region) false (.link (0x20 + half / 4)) 0)
    let k := match (upto n).find? bad with
      | some i => i + 1
      | none => n
    let s := s.each (upto k) (fun s i =>
      let d := BitVec.ofNat 256 (leAt host.bytes (32 * i) 32)
      s.svcLand (key * 2 ^ 21 + 32 * i) d (eccCode d (bad i)))
    if k = 65536 ∧ (upto 65536).all (fun i => !bad i) then s.repairStart r else s.refetchEnd r rFETCH

def execRefetchHost (src : Src) (half : Fin 16) (region : Fin 16384) (host : HostData) (s : State) : Result :=
  s.act (host.bytes.length == 2 ^ 21 || host.failAfter.isSome)
    (fun s => s.settle.repairBy src (9 + 2 ^ 16 * half + 2 ^ 20 * region) (fun s => s.refetchHost half region host))

/-- The descriptor of the window by which a region is refetched: rank 1, INT8, 2 MiB in stack memory (R230). -/
def refetchDesc (half region : Nat) : List W64 :=
  let a := half * 2 ^ 35 + region * 2 ^ 21
  [0xA01 + 2 ^ 12, BitVec.ofNat 64 a, 0, 0, BitVec.ofNat 64 (2 ^ 21), BitVec.ofNat 64 (2 ^ 21 + 2 ^ 26)]

/-- REFETCH_PEER: a software window on the half's die admits the peer of the named port (log 72). -/
def State.refetchPeer (s : State) (half region : Nat) : State :=
  let key := regionKey half region
  let j := bits (s.rd INT_REPAIR_ARG_arg 0) 0 4
  let cmd := 10 + 2 ^ 16 * half + 2 ^ 20 * region
  let r : Repair := ⟨10, cmd, key, s.frameNow, none⟩
  if j / 4 ≠ half / 4 then s.repairEnd rARG
  else if !s.halfUp half ∨ ¬ sealedKind (s.kindOf half region) then s.repairEnd rSTATE
  else match s.freeWins (half / 4) with
    | n :: _ =>
      if s.portState j = pUP then
        let k := winKey (half / 4) n
        (s.updWin k (fun w =>
          { state := 1, owner := (s.mapped half region).getD 0, mask := 2 ^ (j % 4), fp := s.reg (LRT_PORT_PEER_fingerprint.addr j),
            cmdErr := w.cmdErr, desc := refetchDesc half region })).repairStart { r with peer := some (j, k) }
      else s.refetchEnd r rFETCH
    | [] => s.refetchEnd r rFETCH

def execRefetchPeer (src : Src) (half : Fin 16) (region : Fin 16384) (s : State) : Result :=
  .next (s.repairBy src (10 + 2 ^ 16 * half + 2 ^ 20 * region) (fun s => s.refetchPeer half region))

/-- The words of a refetch have arrived. -/
def State.refetchArrived (s : State) (r : Repair) : Bool :=
  match r.peer with
  | some (_, k) => decide (2 ^ 21 ≤ (s.win k).bytes)
  | none => true

/-- REFETCH_VERIFY: the base die reads the whole region, in at least 512 frames; with no uncorrectable word the firmware
ends the hold on the mapping partition's requests. -/
def State.refetchVerify (s : State) : State :=
  match s.repair with
  | some r =>
    if (r.op = 9 ∨ r.op = 10) ∧ s.refetchArrived r ∧ r.since + 512 ≤ s.frameNow then
      let as := (upto 65536).map (fun i => r.arg * 2 ^ 21 + 32 * i)
      let bad := as.any (fun a => (s.stkEcc a).res == .uncorrectable)
      let s := s.each as (fun s a => s.stkLog a false)
      if bad then s.refetchEnd r rVERIFY
      else
        let s := s.refetchEnd r 0
        match s.mapped (r.arg / 16384) (r.arg % 16384) with
        | some p => s.repaired p (regionFault (r.arg / 16384) (r.arg % 16384))
        | none => s
    else s
  | none => s

def execRefetchVerify (s : State) : Result := .next s.settle.refetchVerify

/-- REPAIR_CMD_INVALID (R327). -/
def execRepairCmdInvalid (src : Src) (op : Fin 16) (s : State) : Result :=
  s.act (op.val == 0 || decide (11 ≤ op.val)) (fun s => s.repairBy src op (fun s => s.repairEnd rARG))

end Sys2Proof.Machine
end

