-- ==== Sys2Proof/Machine/Strobe.lean ====
section
/-! DEFINITION. The frame strobe: what the start of a frame settles and starts (R23, R86, R98, R135, R152, R232, R266,
R271). -/

namespace Sys2Proof.Machine

open Sys2Proof

/-- Settings that apply from the next frame's start: edge slots (R98) and region attributes (R152). -/
def State.applyPending (s : State) : State :=
  { s with
      slotCfg := (s.reg (VAT_SLOT_CFG_slots.addr 0)).toNat
      regions := s.regions.foldl (fun (m : NMap Region) e =>
        match e.2.pend with
        | some (k, l, r, o) => NMap.set m e.1 { e.2 with kind := k, rowLen := l, sumRegion := r, sumOffset := o, pend := none }
        | none => m) s.regions }

/-- Closes that take effect at a frame's start: CLOSING while an accepted cell's word is held, then CLOSED; a window
whose plate is gone keeps its counts only (R232). -/
def State.closeDue (s : State) : State :=
  { s with wins := s.wins.foldl (fun (m : NMap Win) e =>
      let w := e.2
      if w.closeReq ∨ w.state = 2 then
        if s.held.any (fun h => h.win.any (fun x => x.1 == e.1)) then NMap.set m e.1 { w with state := 2, closeReq := false }
        else NMap.set m e.1 (if w.plate ∧ s.pstate w.owner = sEMPTY then w.bare else { w with state := 0, closeReq := false })
      else m) s.wins }

/-- A plate whose load or resume has finished starts at pc 0 of a run frame, or stops there; a wait or a held post in which it
stopped is tested at this frame's start (R86, R87, R266, R271, R276). -/
def State.startPart (s : State) (p : Nat) : State :=
  let x := s.part p
  if x.starting ∧ ¬ x.waking ∧ x.closing.isNone then
    match (if x.wait.isSome ∨ ¬ x.heldPost.isEmpty then none else s.stopHere p x.seg x.bpOff) with
    | some k => (s.updPart p (fun x => { x with starting := false })).takeStop p x.bp x.bpOff k
    | none =>
      let w := x.wait.map (fun (w : Wait) => { w with frame := s.runFrame - 1 })
      let posts := x.heldPost.map (fun (n : Notice × Nat) => (n.1, s.runFrame - 1))
      let s := s.updPart p (fun x =>
        { x with starting := false, segStart := s.runFrame - x.bpOff, wait := w, heldPost := posts, saved := none })
      if s.pstate p = sLOADING ∨ s.pstate p = sRESUMING then s.setPState p sRUNNING else s
  else s

/-- Work of the past that no later access can meet is forgotten (log 31). -/
def State.prune (s : State) : State :=
  let r := s.runFrame
  { s with
    seqs := s.seqs.foldl (fun (m : NMap Seq) e => NMap.set m e.1 { e.2 with
      flight := e.2.flight.filter (fun f => decide (r * 29 ≤ f.t1) || decide (r * 29 ≤ f.tRead)) }) s.seqs,
    press := s.press.foldl (fun (m : NMap PressEng) e => NMap.set m e.1 { e.2 with
      passes := e.2.passes.filter (fun f => decide (r * 64 ≤ f.t0 + f.rows + 40)),
      fills := e.2.fills.filter (fun f => decide (r * 64 ≤ f.2)) }) s.press }

/-- The frame strobe: the plates' work of the frame that ends is done, and the next frame starts (R23). -/
def State.frameStart (s : State) : State :=
  if s.framesRun then
    let s := if s.grid.cur then s.runWork (64 * (s.runFrame + 1)) else s
    let s := s.measDue
    let s := s.gridAdvance
    let s := s.refreshFrame
    let s := s.applyPending
    let s := s.closeDue
    let s := if s.gridFrame % 2 ^ 20 = 0 then { s with lanes := [] } else s
    let s := if s.grid.cur then ((s.each (upto 16) State.startPart).each (upto 16) State.sampleWait).prune else s
    let s := s.each (upto 16) State.finishUnload
    s.countFrame.attestServe
  else s

end Sys2Proof.Machine
end

