-- ==== Sys2Proof/Machine/Ports.lean ====
section
/-! DEFINITION. Bring-up, loss and upkeep of the ports, the lasers, and the commands of software windows
(R215 to R217, R224 to R227, R231, R232, R234, R235, R337). -/

namespace Sys2Proof.Machine

open Sys2Proof

/-! ### Lasers (R216; log 66) -/

/-- The four bits of a module: present 1, lasing 2, fault 4, remove_ready 8. -/
def State.laserMod (s : State) (m : Nat) : Nat := bits (s.rd LRT_LASER_STATUS_mods 0) (4 * m) 4

def State.setLaser (s : State) (m v : Nat) : State := s.wr LRT_LASER_STATUS_mods 0 (setBits (s.rd LRT_LASER_STATUS_mods 0) (4 * m) 4 v)

/-- A module gives light: present, lasing, no fault. -/
def State.laserOk (s : State) (m : Nat) : Bool := s.laserMod m % 8 == 3

/-- The other module of an engine. -/
def otherModule (m : Nat) : Nat := if m % 2 = 0 then m + 1 else m - 1

/-- An engine has light. -/
def State.lit (s : State) (d : Nat) : Bool := s.laserOk (2 * d) || s.laserOk (2 * d + 1)

/-- LRT_LASER_CTRL: remove_ready of a module whose removal is requested, unless the other is absent or faulty. -/
def State.laserCtrl (s : State) (mask : Nat) : State :=
  (s.wr LRT_LASER_CTRL_removeReq 0 mask).each (upto 8) (fun s m =>
    s.setLaser m (s.laserMod m % 8 + (if bit mask m ∧ s.laserOk (otherModule m) then 8 else 0)))

/-- LASER_REMOVE_REQ. -/
def execLaserRemoveReq (src : Src) (mask : Byte) (s : State) : Result :=
  .next (s.access src (LRT_LASER_CTRL_removeReq.addr 0) 8 (BitVec.ofNat 64 mask.toNat) (fun s => s.laserCtrl mask.toNat))

/-- LASER_INSERT: the new module is present and lasing. -/
def execLaserInsert (m : Fin 8) (s : State) : Result := .next (if bit (s.laserMod m) 0 then s else s.setLaser m 3)

/-- A port loses its link, with a link-lost or other fault where one is logged. -/
def State.lose (s : State) (j : Nat) : State := if 2 ≤ s.portState j then s.portDown j pDOWN else s

/-- LASER_PULL: without remove_ready the engine's ports go DOWN and a laser fault is logged. -/
def State.laserPull (s : State) (m : Nat) : State :=
  let was := s.laserMod m
  if !bit was 0 then s
  else
    let s := s.setLaser m 0
    let s := s.setLaser (otherModule m) (s.laserMod (otherModule m) % 8)
    if bit was 3 then s
    else (s.each ((upto 4).map (4 * (m / 2) + ·)) State.lose).fault 0x0801 .none

def execLaserPull (m : Fin 8) (s : State) : Result := .next (s.laserPull m)

/-! ### Training (R224) -/

/-- A port may send light: it is enabled, not held DOWN, its engine has light and its die is on. -/
def State.mayTrain (s : State) (j : Nat) : Bool :=
  s.on LRT_PORT_CTRL_enable j && !(s.port j).heldDown && s.lit (j / 4) && !bit s.dieFence (j / 4)

/-- The lowest-numbered of the wavelengths that R217 has not retired. -/
def State.goodLambdas (s : State) (j : Nat) : List Nat := (upto 17).filter (fun i => !bit (s.rd LRT_PORT_LAMBDA_failed j) i)

/-- A list of wavelengths as a bit mask. -/
def lamMask (l : List Nat) : Nat := l.foldl (fun n i => n ||| 2 ^ i) 0

/-- A DOWN or newly enabled port starts training where it may. -/
def State.startTrain (s : State) (j : Nat) : State := s.setPortState j (if s.mayTrain j then pLOWTRAIN else pDOWN)

/-- The enable bit is set: a DISABLED port starts its bring-up, unless its die's end-to-end checker is bad (R309). -/
def State.enablePort (s : State) (j : Nat) : State :=
  let s := s.wr LRT_PORT_CTRL_enable j 1
  if s.portState j = pDISABLED ∧ ¬ bit s.boot.e2eBad (j / 4) then s.startTrain j else s

/-- PORT_ENABLE. -/
def execPortEnable (src : Src) (j : Fin 16) (s : State) : Result :=
  .next (s.access src (LRT_PORT_CTRL_enable.addr j) 8 (s.reg (LRT_PORT_CTRL_enable.addr j) ||| 1) (fun s => s.enablePort j))

/-- The enable bit is cleared: no light is sent. -/
def State.disablePort (s : State) (j : Nat) : State :=
  let s := s.wr LRT_PORT_CTRL_enable j 0
  if s.portState j = pDISABLED then s else s.portDown j pDISABLED

/-! ### LINK cells (R219, R224 to R226, R235; log 67) -/

/-- n bytes that the manual leaves open. -/
def State.freeBytes (s : State) (n : Nat) : List Byte := (upto n).map (fun i => BitVec.ofNat 8 (Config.freeNat (s.free + i)))

/-- LINK cells of a use that carry bytes, 64 to a cell. -/
def linkCells (use : Nat) (bytes : List Byte) : List LCell :=
  (upto ((bytes.length + 63) / 64)).map (fun i =>
    ctlCell 5 (Config.linkAux use % 65536) (leNat ((bytes.drop (64 * i)).take 32)) (leNat ((bytes.drop (64 * i + 32)).take 32)))

def State.sendLinkBytes (s : State) (j use : Nat) (bytes : List Byte) : State := s.each (linkCells use bytes) (fun s c => s.egress j c)

/-- A LINK cell of a use, whose contents the manual does not lay out: free values. -/
def State.sendLink (s : State) (j use : Nat) : State :=
  let b := s.freeBytes 64
  { s with free := s.free + 64 }.sendLinkBytes j use b

/-- AUTH begins: the part sends its certificate chain, a fresh nonce and its ML-KEM-1024 key in LINK cells (R225, R226). -/
def State.enterAuth (s : State) (j : Nat) : State :=
  let nonce := s.freeVal % 2 ^ 256
  let s := s.drawn
  let key := s.freeBytes 1568
  let s := { s with free := s.free + 1568 }
  let s := (s.setPortState j pAUTH).updPort j (fun x =>
    { x with nonce := nonce, hsTx := [], hsRx := [], egress := x.egress.filter (fun c => c.typ != 5) })
  s.sendLinkBytes j 0 (s.boot.chain ++ leBytes 32 nonce ++ key)

/-- PORT_TRAIN_RETRY: 10 ms after it went DOWN a port trains again; training that found the far end leads to AUTH at low
rate, training that did not leads back to DOWN. -/
def State.trainRetry (s : State) (j : Nat) (trained : Bool) : State :=
  if s.portState j = pDOWN then
    (if s.mayTrain j ∧ (s.port j).since + 1000000 ≤ s.dt then s.setPortState j pLOWTRAIN else s)
  else if s.portState j = pLOWTRAIN then
    (if trained then
      (s.enterAuth j).wrs j [(LRT_PORT_STATUS_rate, 1), (LRT_PORT_LAMBDA_active, lamMask ((s.goodLambdas j).take 1))]
     else s.portDown j pDOWN)
  else s

def execPortTrainRetry (j : Fin 16) (trained : Bool) (s : State) : Result := .next (s.trainRetry j trained)

/-- A port may go beyond LOW. -/
def State.mayFull (s : State) (j : Nat) : Bool := s.on LRT_PORT_CTRL_allowFull j && decide (s.rd PWR_STATUS_state 0 ≠ 0)

/-- FULL_TRAIN: a LOW port starts to train all wavelengths; the good ones of the training then carry data: sixteen, the spare in
place of a missing one, at full rate; else the eight lowest at half rate; with fewer the port goes DOWN (R215, R217, R224;
log 67). Training that is no longer allowed ends in LOW. -/
def State.fullTrain (s : State) (j : Nat) (found : List Nat) : State :=
  if s.portState j = pLOW then (if s.mayFull j then s.setPortState j pFULLTRAIN else s)
  else if s.portState j ≠ pFULLTRAIN then s
  else if s.mayFull j then
    let good := (s.goodLambdas j).filter found.contains
    let data := good.filter (fun i => decide (i < 16))
    let missing := (upto 16).filter (fun i => !good.contains i)
    if 16 ≤ data.length then
      (s.setPortState j pUP).wrs j [(LRT_PORT_STATUS_rate, 3), (LRT_PORT_LAMBDA_active, lamMask data), (LRT_PORT_LAMBDA_spareUsed, 0)]
    else if data.length = 15 ∧ good.contains 16 then
      (s.setPortState j pUP).wrs j [(LRT_PORT_STATUS_rate, 3), (LRT_PORT_LAMBDA_active, lamMask good), (LRT_PORT_LAMBDA_spareUsed, 1),
        (LRT_PORT_LAMBDA_spareFor, missing.headD 0)]
    else if 8 ≤ good.length then
      (s.setPortState j pUP).wrs j [(LRT_PORT_STATUS_rate, 2), (LRT_PORT_LAMBDA_active, lamMask (good.take 8)), (LRT_PORT_LAMBDA_spareUsed, 0)]
    else s.portDown j pDOWN
  else s.setPortState j pLOW

def execFullTrain (j : Fin 16) (good : List Nat) (s : State) : Result :=
  s.act (good.all (fun i => decide (i < 17))) (fun s => s.fullTrain j good)

/-! ### Authentication (R225 to R227) -/

/-- AUTH fails: AUTH_FAILED, a link-authentication fault, and the next wait is longer. -/
def State.authFail (s : State) (j : Nat) : State :=
  ((s.setPortState j pAUTHFAILED).updPort j (fun x => { x with authTries := x.authTries + 1 })).fault 0x0805 (.port j)

/-- The digest of the transcript: all handshake cells in both directions in sequence order, those of the side with the lower
(fingerprint, nonce) pair first (R225; log 67). -/
def Port.transcript (x : Port) (initiator : Bool) : List Byte :=
  let mine := x.hsTx.flatMap cellBytes
  let theirs := x.hsRx.flatMap cellBytes
  sha3Bytes (if initiator then mine ++ theirs else theirs ++ mine)

/-- New keys from an encapsulation, whose shared secret is a free value (log 21): the first 64 bytes of the SHA3-512 digest of
secret and transcript digest, bytes 0 to 31 for the direction from the initiator. The initiator's encapsulation goes in LINK
cells of a use (R226). -/
def State.newKeys (s : State) (j use : Nat) (initiator : Bool) : State :=
  let secret := s.freeBytes 32
  let s := { s with free := s.free + 32 }
  let k := sha3Bytes (secret ++ (s.port j).transcript initiator)
  let k1 := BitVec.ofNat 256 (leAt k 0 32)
  let k2 := BitVec.ofNat 256 (leAt k 32 32)
  let s := s.updPort j (fun x =>
    { x with keys := some (if initiator then (k1, k2) else (k2, k1)), initiator := initiator, cwCount := 0 })
  if initiator then
    let c := s.freeBytes 1568
    { s with free := s.free + 1568 }.sendLinkBytes j use c
  else s

/-- The handshake is good: the part's own signature over the transcript leaves, and fingerprint, encryption, a changed peer and
the measured round trip are noted; the port is in LOW. A signature of a handshake that fails stays unsent, as AUTH_FAILED
sends no cells. -/
def State.authDone (s : State) (j : Nat) (h : Handshake) : State :=
  let fp := BitVec.ofNat 64 ((sha3 h.pubkey).toNat % 2 ^ 64)
  let enc := h.encrypt || s.on LRT_PORT_CTRL_encrypt j
  let mine := s.rd BOOT_FINGERPRINT_fingerprint 0
  let initiator := decide (mine < fp.toNat) || (mine == fp.toNat && decide ((s.port j).nonce < h.nonce.toNat))
  let changed := (s.port j).prevPeer.any (fun f => f != fp)
  let s := s.wr LRT_PORT_PEER_fingerprint j fp.toNat
  let s := if changed then (s.wr LRT_PORT_STATUS_peerChanged j 1).fault 0x0805 (.port j) else s
  let s := (s.updPort j (fun x => { x with initiator := initiator })).sendLinkBytes j 5
    (Config.sign s.boot.fuses.identitySeed 0 (BitVec.ofNat 512 (leNat ((s.port j).transcript initiator))))
  let s := if enc then s.newKeys j 5 initiator else s
  let s := (s.setPortState j pLOW).updPort j (fun x => { x with authTries := 0 })
  let rtt := s.freeVal
  s.drawn.wrs j [(LRT_PORT_STATUS_encrypted, b2n enc), (LRT_PORT_RTT_rttPs, rtt)]

/-- AUTH_HANDSHAKE. Without an identity of its own the part fails AUTH (R362). -/
def State.handshake (s : State) (j : Nat) (h : Handshake) : State :=
  if s.portState j ≠ pAUTH then s
  else if !h.chainOk ∨ (s.on LRT_GLOBAL_CFG_requireOwner 0 ∧ ¬ h.endorsed) ∨ !h.sigOk ∨ !s.on BOOT_STATUS_identityOk 0 then s.authFail j
  else if (h.encrypt || s.on LRT_PORT_CTRL_encrypt j) ∧ ¬ h.encapOk then (s.portDown j pDOWN).fault 0x0805 (.port j)
  else s.authDone j h

def execAuthHandshake (j : Fin 16) (h : Handshake) (s : State) : Result := .next (s.handshake j h)

/-- AUTH_TIMEOUT: 50 ms after AUTH began. -/
def State.authTimeout (s : State) (j : Nat) : State :=
  if s.portState j = pAUTH ∧ (s.port j).since + 5000000 ≤ s.dt then (s.portDown j pDOWN).fault 0x0805 (.port j) else s

def execAuthTimeout (j : Fin 16) (s : State) : Result := .next (s.authTimeout j)

/-- The wait before an attempt, by failures so far: 1 s, 10 s, then 60 s. -/
def authWait (tries : Nat) : Nat := if tries ≤ 1 then 100000000 else if tries = 2 then 1000000000 else 6000000000

/-- AUTH_RETRY. -/
def State.authRetry (s : State) (j : Nat) : State :=
  if s.portState j = pAUTHFAILED ∧ (s.port j).since + authWait (s.port j).authTries ≤ s.dt then s.enterAuth j else s

def execAuthRetry (j : Fin 16) (s : State) : Result := .next (s.authRetry j)

/-- REKEY: a fresh encapsulation over LINK cells and new keys at an agreed codeword, or DOWN. -/
def State.rekey (s : State) (j : Nat) (ok : Bool) : State :=
  if s.on LRT_PORT_STATUS_encrypted j ∧ 4 ≤ s.portState j ∧ s.portState j ≤ 7 then
    (if ok then (s.newKeys j 3 (s.port j).initiator).sendLink j 4 else (s.portDown j pDOWN).fault 0x0805 (.port j))
  else s

def execRekey (j : Fin 16) (ok : Bool) (s : State) : Result := .next (s.rekey j ok)

/-! ### Loss and upkeep (R217, R235) -/

/-- LINK_LOST: an authenticated port goes DOWN and logs link-lost; any other that has lock goes DOWN. -/
def State.linkLost (s : State) (j : Nat) : State :=
  let st := s.portState j
  if 4 ≤ st ∧ st ≤ 7 then (s.portDown j pDOWN).fault 0x0807 (.port j) else s.lose j

def execLinkLost (j : Fin 16) (s : State) : Result := .next (s.linkLost j)

/-- KEEPALIVE: after 100 µs with no cell for the far end. -/
def State.keepalive (s : State) (j : Nat) : State :=
  if codewords (s.portState j) ∧ (s.port j).lastSent + 10000 ≤ s.dt then
    (s.sendLink j 1).updPort j (fun x => { x with lastSent := s.dt })
  else s

def execKeepalive (j : Fin 16) (s : State) : Result := .next (s.keepalive j)

/-- LINK_WAKE: from an authenticated peer, a wake event where it is enabled (R235, R337). -/
def State.linkWake (s : State) (j : Nat) : State :=
  if 4 ≤ s.portState j ∧ s.portState j ≤ 7 ∧ bit (s.rd PWR_WAKE_CFG_src 0) 2 then s.startWake else s

def execLinkWake (j : Fin 16) (s : State) : Result := .next (s.linkWake j)

/-- Corrected symbols of a wavelength in the rolling span of its port. -/
def Port.symbols (x : Port) (lam : Nat) : Nat := (x.sym.filter (fun e => e.1 % 32 == lam)).foldl (fun n e => n + e.2) 0

/-- A wavelength has passed its threshold: by the count of this receiver, or as the far end reports of the transmit side. -/
def State.lambdaBad (s : State) (j lam : Nat) (reported : Bool) : Bool :=
  reported || decide (s.rd LRT_PORT_CTRL_lambdaThreshold j < (s.port j).symbols lam)

/-- A wavelength is retired: the spare takes its share, or the port goes on at half rate, or goes DOWN. -/
def State.lambdaSwitch (s : State) (j lam : Nat) (reported : Bool) : State :=
  if s.lambdaBad j lam reported ∧ 4 ≤ s.portState j ∧ s.portState j ≤ 7 ∧ !bit (s.rd LRT_PORT_LAMBDA_failed j) lam then
    let s := s.wr LRT_PORT_LAMBDA_failed j (s.rd LRT_PORT_LAMBDA_failed j ||| 2 ^ lam)
    let good := s.goodLambdas j
    let rate := s.rd LRT_PORT_STATUS_rate j
    if good.length < 8 then s.portDown j pDOWN
    else if rate = 1 then s.wr LRT_PORT_LAMBDA_active j (lamMask (good.take 1))
    else if rate = 3 ∧ ¬ bit (s.rd LRT_PORT_LAMBDA_active j) lam then s
    else if rate = 3 ∧ ¬ s.on LRT_PORT_LAMBDA_spareUsed j ∧ good.contains 16 then
      (s.sendLink j 2).wrs j [(LRT_PORT_LAMBDA_spareUsed, 1), (LRT_PORT_LAMBDA_spareFor, lam), (LRT_PORT_LAMBDA_active, lamMask good)]
    else if rate = 3 then
      ((s.sendLink j 2).wrs j [(LRT_PORT_STATUS_rate, 2), (LRT_PORT_STATUS_degraded, 1), (LRT_PORT_LAMBDA_spareUsed, 0),
        (LRT_PORT_LAMBDA_active, lamMask (good.take 8))]).fault 0x0802 (.port j)
    else (s.sendLink j 2).wr LRT_PORT_LAMBDA_active j (lamMask (good.take 8))
  else s

/-- LAMBDA_SPARE_SWITCH. -/
def execLambdaSpareSwitch (j : Fin 16) (x : LambdaFault) (s : State) : Result := .next (s.lambdaSwitch j x.lam x.reported)

/-! ### Quarantine and windows by register -/

/-- QUARANTINE_CLEAR (R234). -/
def execQuarantineClear (src : Src) (j : Fin 16) (s : State) : Result :=
  .next (s.access src (LRT_PORT_CTRL_enable.addr j) 8 (s.reg (LRT_PORT_CTRL_enable.addr j) ||| 8) (fun s => s.quarantineClear j))

/-- WIN_OPEN (R231). -/
def execWinOpen (src : Src) (d : Fin 4) (s : State) : Result :=
  .next (s.access src (LRT_WIN_CMD_open.addr d) 8 1 (fun s => s.winOpen d))

/-- WIN_CLOSE (R232). -/
def execWinClose (src : Src) (d : Fin 4) (s : State) : Result :=
  .next (s.access src (LRT_WIN_CMD_open.addr d) 8 2 (fun s => s.winClose d))

end Sys2Proof.Machine
end

