-- ==== Sys2Proof/Machine/Time.lean ====
section
/-! DEFINITION. IEEE 1588 messages received, and the servo of device time (R236, R237; log 68). -/

namespace Sys2Proof.Machine

open Sys2Proof

/-- Messages of a port are acted on: IEEE 1588 is enabled there, the link is authenticated, its crossbar input takes
cells. -/
def State.timeOn (s : State) (j : Nat) : Bool :=
  bit (s.rd LRT_TIME_CFG_timePorts 0) j && decide (4 ≤ s.portState j) && decide (s.portState j ≤ 7) &&
    !bit (s.rd SVC_QUAR_quarantined 0) (12 + j)

/-- The TIME cell that carried a message leaves its port's buffer. -/
def State.takeTime (s : State) (j : Nat) : State :=
  match (s.port j).ingress.find? (fun c => c.typ == 4) with
  | some c => s.takeCell j c
  | none => s

/-- A message of a port acts where it is of the part's domain (R236). -/
def State.onTime (s : State) (j domain : Nat) (f : State → State) : State :=
  if s.timeOn j then (if domain = s.rd LRT_TIME_CFG_domain 0 then f (s.takeTime j) else s.takeTime j) else s

def State.updPtp (s : State) (j : Nat) (f : Ptp → Ptp) : State := { s with ptp := s.ptp.upd j f }

/-- SYNC: the receive timestamp waits for its Follow_Up. -/
def execSync (j : Fin 16) (h : TimeHead) (rxNs : Nat) (s : State) : Result :=
  .next (s.onTime j h.domain (fun s => s.updPtp j (fun x => { x with syncSeq := some h.seq, syncRx := rxNs })))

/-- The one forward step, before the first plate is loaded. -/
def State.stepTime (s : State) (target : Nat) : State :=
  { s with aon := { s.aon with dt := target, slewPpm := 0 } }.wr LRT_TIME_STATUS_stepped 0 1

/-- The count rate that corrects an offset: against it, by at most 500 ppm; how much is a free value. -/
def State.slew (s : State) (off : Int) : State :=
  let r : Int := (s.freeVal % 501 : Nat)
  let s := s.drawn
  { s with aon := { s.aon with slewPpm := if off = 0 then 0 else if 0 < off then -r else r } }

/-- The offset from the master is measured and the servo acts on it. -/
def State.servo (s : State) (off : Int) : State :=
  let target := ((10 * (s.dt : Int) - off) / 10).toNat
  let s := s.wr LRT_TIME_OFFSET_offset 0 (BitVec.ofInt 64 off).toNat
  let s := if s.aon.lockedOnce ∧ 1000000 < off.natAbs then s.fault 0x0808 .none else s
  let s := { s with aon := { s.aon with lockedOnce := true } }.wr LRT_TIME_STATUS_locked 0 1
  if ¬ s.on LRT_TIME_STATUS_stepped 0 ∧ ¬ s.aon.plateLoaded ∧ s.dt < target then s.stepTime target else s.slew off

/-- FOLLOW_UP: with the origin time of the Sync, on the port toward the master. -/
def State.followUp (s : State) (j seq origin : Nat) : State :=
  let x := s.ptp.get j
  if x.syncSeq = some seq then
    let s := s.updPtp j (fun y => { y with syncSeq := none })
    if ¬ s.on LRT_TIME_STATUS_grandmaster 0 ∧ s.rd LRT_TIME_STATUS_masterPort 0 = j then
      s.servo ((x.syncRx : Int) - origin - x.delay)
    else s
  else s

def execFollowUp (j : Fin 16) (h : TimeHead) (originNs : Nat) (s : State) : Result :=
  .next (s.onTime j h.domain (fun s => s.followUp j h.seq originNs))

/-- A TIME cell, whose layout the manual leaves to IEEE 1588: free values. -/
def State.sendTime (s : State) (j : Nat) : State :=
  let a := s.freeVal
  let s := s.drawn
  let b := s.freeVal
  let s := s.drawn
  let c := s.freeVal
  s.drawn.egress j (ctlCell 4 (c % 65536) a b)

/-- PDELAY_REQ: answered by Pdelay_Resp and Pdelay_Resp_Follow_Up. -/
def execPdelayReq (j : Fin 16) (h : TimeHead) (rxNs : Nat) (s : State) : Result :=
  .next (s.onTime j h.domain (fun s => ((s.sendTime j).sendTime j).updPtp j (fun x => { x with reqSeq := h.seq, reqRx := rxNs })))

/-- PDELAY_RESP: the responder's receive time t2 and the time t4 here; when the part's own request left is a free value. -/
def execPdelayResp (j : Fin 16) (h : TimeHead) (t2 t4 : Nat) (s : State) : Result :=
  .next (s.onTime j h.domain (fun s => s.drawn.updPtp j (fun x => { x with respSeq := some h.seq, t1 := t4 - s.freeVal, t2 := t2, t4 := t4 })))

/-- PDELAY_RESP_FOLLOW_UP: half of the round trip less the responder's turn-around. -/
def execPdelayRespFollowUp (j : Fin 16) (h : TimeHead) (t3 : Nat) (s : State) : Result :=
  .next (s.onTime j h.domain (fun s => s.updPtp j (fun x =>
    if x.respSeq = some h.seq then { x with respSeq := none, delay := (((x.t4 : Int) - x.t1) - ((t3 : Int) - x.t2)) / 2 } else x)))

/-! ### The best master clock (R236; log 68) -/

/-- The fields of a clock in the order in which the algorithm compares them. -/
def ClockSet.order (c : ClockSet) : List Nat := [c.p1, c.cls, c.acc, c.var, c.p2, c.id.toNat, c.steps]

/-- The first list comes before the second. -/
def listLess : List Nat → List Nat → Bool
  | a :: as, b :: bs => decide (a < b) || (a == b && listLess as bs)
  | _, _ => false

/-- A clock is better than another: priority1, class, accuracy, variance, priority2, identity, the lower first; of one clock the
nearer announcement. -/
def clockLess (a b : ClockSet) : Bool := listLess a.order b.order

/-- An announcement counts for three of its intervals. -/
def State.heard (s : State) (j : Nat) : Option ClockSet :=
  let x := s.ptp.get j
  if s.timeOn j ∧ s.dt ≤ x.heardAt + 3 * Config.ptpInterval then x.best else none

/-- The best clock heard on the ports that are up, and its port. -/
def State.bestClock (s : State) : Option (Nat × ClockSet) :=
  (upto 16).foldl (fun (acc : Option (Nat × ClockSet)) j =>
    match s.heard j with
    | some c => if acc.all (fun a => clockLess c a.2) then some (j, c) else acc
    | none => acc) none

/-- The part's own clock: the priorities of LRT_TIME_CFG, IEEE 1588's default class, accuracy and variance, and the fingerprint
as identity. -/
def State.ownClock (s : State) : ClockSet :=
  ⟨s.rd LRT_TIME_CFG_priority1 0, 248, 0xFE, 0xFFFF, s.rd LRT_TIME_CFG_priority2 0, BitVec.ofNat 64 (s.rd BOOT_FINGERPRINT_fingerprint 0), 0⟩

/-- The master is chosen: grandmaster where no clock heard is better than the part's own; a new master port loses the
lock. -/
def State.chooseMaster (s : State) : State :=
  match s.bestClock with
  | some (j, c) =>
    if clockLess c s.ownClock then
      let s' := if s.rd LRT_TIME_STATUS_masterPort 0 = j ∧ ¬ s.on LRT_TIME_STATUS_grandmaster 0 then s
        else s.wr LRT_TIME_STATUS_locked 0 0
      s'.wrs 0 [(LRT_TIME_STATUS_grandmaster, 0), (LRT_TIME_STATUS_masterPort, j)]
    else s.wrs 0 [(LRT_TIME_STATUS_grandmaster, 1), (LRT_TIME_STATUS_locked, 0)]
  | none => s.wrs 0 [(LRT_TIME_STATUS_grandmaster, 1), (LRT_TIME_STATUS_locked, 0)]

/-- ANNOUNCE. -/
def State.announce (s : State) (j : Nat) (c : ClockSet) : State :=
  (s.updPtp j (fun x => { x with best := some c, heardAt := s.dt })).chooseMaster

def execAnnounce (j : Fin 16) (domain priority1 : Nat) (q : MasterQuality) (m : MasterPlace) (s : State) : Result :=
  s.act (decide (priority1 < 256) && decide (q.cls < 256) && decide (q.accuracy < 256) && decide (q.variance < 65536) && decide (q.priority2 < 256))
    (fun s => s.onTime j domain (fun s => s.announce j ⟨priority1, q.cls, q.accuracy, q.variance, q.priority2, m.identity, m.steps⟩))

/-! ### Messages of the part's own (R236; log 68) -/

/-- A port gives the time to its far end: as grandmaster, or as a boundary clock on every port but the one toward the master and
those that hear the same master. -/
def State.givesTime (s : State) (j : Nat) : Bool :=
  s.on LRT_TIME_STATUS_grandmaster 0 ||
    (decide (s.rd LRT_TIME_STATUS_masterPort 0 ≠ j) &&
      (s.heard j).all (fun c => (s.heard (s.rd LRT_TIME_STATUS_masterPort 0)).all (fun m => m.id != c.id)))

/-- A port's messages of an interval: Pdelay_Req, and Sync, Follow_Up and Announce where it gives the time. -/
def State.timeMessages (s : State) (j : Nat) : State :=
  let s := (s.sendTime j).updPtp j (fun x => { x with sentAt := s.dt })
  if s.givesTime j then ((s.sendTime j).sendTime j).sendTime j else s

/-- The messages that are due at a frame's start, by the master chosen then. -/
def State.timeTick (s : State) : State :=
  let due := (upto 16).filter (fun j => s.timeOn j && decide ((s.ptp.get j).sentAt + Config.ptpInterval ≤ s.dt))
  if due.isEmpty then s else s.chooseMaster.each due State.timeMessages

end Sys2Proof.Machine
end

