-- ==== Sys2Proof/Machine/Power.lean ====
section
/-! DEFINITION. Supply, power cap, temperature, throttling, shutdown, trips, Dormant and wake (R26, R94, R328 to R346,
R388, R390, R392). -/

namespace Sys2Proof.Machine

open Sys2Proof

/-! ### The skip level and SLOW (R330, R331, R342) -/

/-- The SLOW factor of a skip level, in sixteenths. -/
def slowFactor (k : Nat) : Nat :=
  match k with
  | 0 => 16
  | 1 => 19
  | 2 => 22
  | 3 => 32
  | _ => 64

/-- A SLOW notice on every link of every FORMING or OPEN group; it counts among the group's factors as the member's own
(R256). -/
def State.broadcastSlow (s : State) : State :=
  let f := slowFactor s.skipLevel
  let until_ := s.dt + 1000000
  let s := s.each ((s.groups.filter (fun e => e.2.live)).map (·.1)) (fun s k =>
    (s.originate (k / 16) (k % 16) 4 (f + until_ * 2 ^ 64) 0 (fun _ => true)).setSlow k (s.groups.get k).member f until_)
  { s with pwr := { s.pwr with lastSlow := s.dt } }

/-- The level in force follows L_t and L_p; a change is told to the host and to the peers. -/
def State.newLevel (s : State) : State :=
  let k := Nat.max (s.rd PWR_STATUS_levelT 0) (s.rd PWR_STATUS_levelP 0)
  if k = s.skipLevel then s else ((s.wr PWR_STATUS_level 0 k).partEvent 3).broadcastSlow

/-- SLOW_REPEAT. -/
def State.slowRepeat (s : State) : State :=
  if s.skipLevel ≠ 0 ∧ s.pwr.lastSlow + 500000 ≤ s.dt then s.broadcastSlow else s

def execSlowRepeat (s : State) : Result := .next s.slowRepeat

/-! ### Power going off -/

/-- A quarter goes OFF and its Vat is lost; the buffer of its half drains first (R94, R154). -/
def State.quarterOff (s : State) (q : Nat) : State := ((s.wcbDrain q).vatClear q).setQ q (fun x => { x with power := .off })

/-- Every quarter goes OFF. -/
def State.quartersOff (s : State) : State := s.each (upto 16) State.quarterOff

/-- UP ports drop to LOW, at a codeword agreed by LINK cells, and stay authenticated (R224). -/
def State.portsLow (s : State) : State :=
  s.each (upto 16) (fun s j =>
    if 5 ≤ s.portState j ∧ s.portState j ≤ 7 then
      ((s.sendLink j 4).setPortState j pLOW).wrs j [(LRT_PORT_STATUS_rate, 1), (LRT_PORT_LAMBDA_active, lamMask ((s.goodLambdas j).take 1)),
        (LRT_PORT_LAMBDA_spareUsed, 0)]
    else s)

/-- The write-combining buffers of every half drain (R154). -/
def State.drainAll (s : State) : State := s.each (upto 16) State.wcbDrain

/-- Every live request is retired without a record, and arriving ones are discarded. -/
def State.retireAll (s : State) : State :=
  s.each slots (fun s i => if (s.req i).st = .free then s else s.retireReq (s.req i).part i)

/-- An operation that a loss of power cuts off is abandoned: a quarter under BIST is FENCED again, a row copy keeps the old
row, a refetch must be repeated; it is reported as failed (R326; log 74). -/
def State.abandonRepair (s : State) : State :=
  match s.repair with
  | none => s
  | some r =>
    if r.op = 3 then (s.setQ r.arg (fun x => { x with svc := .fenced })).repairEnd rSTATE
    else if r.op = 5 then { s with rowCopy := none }.repairEnd rSTATE
    else if r.op = 8 then s.repairEnd rSTATE
    else if r.op = 9 ∨ r.op = 10 then s.refetchEnd r rSTATE
    else s

/-! ### Orderly shutdown (R343) -/

/-- A partition becomes EMPTY and withdraws with SHUTDOWN. -/
def State.emptyPart (s : State) (p : Nat) : State :=
  if s.pstate p = sEMPTY then s else (s.withdrawAll p wSHUTDOWN).unloadPart p

/-- The partitions that a command in progress concerns: its own, and those a PREEMPT stops or has stopped; one whose stop is
still pending goes on with the shutdown stop in its place (R276, R343, R346; log 54). -/
def State.concerned (s : State) (c : PartCmd) : List Nat :=
  (if c.op = 5 ∧ c.phase = .stops then
    (upto 16).filter (fun v => v == c.p || s.rd PART_STATUS_held v &&& s.rd PART_CFG_quarters c.p != 0 ||
      (s.pstate v == sSTOPPED && s.rd PART_CFG_quarters v &&& s.rd PART_CFG_quarters c.p != 0))
  else [c.p]).filter (fun v => (s.part v).stop.isNone)

/-- The command in progress is abandoned. -/
def State.abandonCmd (s : State) : State :=
  match s.pcmd with
  | none => s
  | some c => (s.pcmdEnd causeState).each (s.concerned c) State.emptyPart

/-- A shutdown stop is pending on every partition that runs, loads, resumes or waits for a stop or an unload. -/
def State.shutdownStop (s : State) (p : Nat) : State :=
  let st := s.pstate p
  if st = sRUNNING ∨ st = sLOADING ∨ st = sRESUMING ∨ st = sSTOPPING ∨ (s.part p).stop.isSome then s.askStop p .shutdown else s

/-- An orderly shutdown starts, once (R343, R346). -/
def State.startShutdown (s : State) : State :=
  if s.rd PWR_STATUS_state 0 = 1 ∨ s.rd PWR_STATUS_state 0 = 2 then
    let s := (s.wr PWR_STATUS_state 0 3).wr PWR_STATUS_shutdown 0 1
    let s := (s.fault 0x0B03 .none).partEvent 4
    let s := { s with pwr := { s.pwr with shutAt := some s.dt } }
    (s.abandonCmd.abandonRepair).each (upto 16) State.shutdownStop
  else s

/-- The end of the grace: a STOPPED partition is unloaded; one still running halts; one that is already closing its
windows goes on (R343 step 4). -/
def State.graceHalt (s : State) (p : Nat) : State :=
  let st := s.pstate p
  if st = sEMPTY ∨ (s.part p).closing.isSome then s
  else if st = sSTOPPED then s.emptyPart p
  else s.haltPart p wSHUTDOWN

/-- The firmware writes the pending records of a function that fit; the others are discarded (R343 step 5). -/
def State.lastRecords (s : State) (f : Nat) : State :=
  let s := s.cqFlush f
  (s.updCq f (fun q => { q with waiting := [] })).cqTail f

/-- The package is TRIPPED (R343 step 6, R344). -/
def State.trip (s : State) (pin : Bool) : State :=
  { s.quartersOff with pwr := { s.pwr with shutAt := none, tripPin := pin } }.wr PWR_STATUS_state 0 4

/-- The shutdown ends, after its grace, once every partition is EMPTY and no WITHDRAW is left to send, at most 100 µs
after the grace (R343 steps 5 and 6). -/
def State.pollTrip (s : State) : State :=
  match s.pwr.shutAt with
  | none => s
  | some t =>
    let quiet := (upto 16).all (fun p => s.pstate p == sEMPTY) &&
      (upto 16).all (fun j => s.portState j < pUP || (s.port j).egress.all (fun c => c.typ != 2 || c.aux != 5))
    if s.rd PWR_STATUS_state 0 = 3 ∧ t + 200000 ≤ s.dt ∧ (quiet ∨ t + 210000 ≤ s.dt) then
      let s := s.each (upto 16) (fun s p => if s.pstate p = sEMPTY then s else s.unloadPart p)
      let s := s.each (upto 64) State.lastRecords
      ((s.retireAll.drainAll).trip false).portsLow
    else s

/-- SHUTDOWN_GRACE_END: 2 ms after the shutdown began. -/
def State.graceEnd (s : State) : State :=
  match s.pwr.shutAt with
  | none => s
  | some t =>
    if s.rd PWR_STATUS_state 0 = 3 ∧ t + 200000 ≤ s.dt then ((s.each (upto 16) State.graceHalt).abandonRepair).pollTrip
    else s

def execShutdownGraceEnd (s : State) : Result := .next s.graceEnd

/-- FRAME_START (R23): the strobe, and the IEEE 1588 messages that are due; a shutdown whose grace is over ends with its last
partition. -/
def execFrameStart (s : State) : Result := .next s.frameStart.timeTick.pollTrip

/-! ### Hard trips (R344, R388) -/

/-- Nothing withdraws: partitions are EMPTY, requests and pending records are lost, and the ports on their full-rate paths
lose lock. -/
def State.hardTrip (s : State) (detail : Nat) : State :=
  if !s.aon.powered ∨ s.rd PWR_STATUS_state 0 = 4 then s
  else
    let s := (s.logEvent 0x0B04 none false .none detail).wr PWR_STATUS_hardTrip 0 1
    let s := match s.pcmd with
      | some _ => s.pcmdEnd causeState
      | none => s
    let s := s.each (upto 16) (fun s p => if s.pstate p = sEMPTY then s else s.unloadPart p)
    let s := s.retireAll.abandonRepair
    let s := s.each (upto 64) (fun s f => s.updCq f (fun q => { q with waiting := [] }))
    let s := s.each (upto 16) (fun s j => if 5 ≤ s.portState j ∧ s.portState j ≤ 7 then s.portDown j pDOWN else s)
    s.trip true

/-- HARD_TRIP. -/
def execHardTrip (s : State) : Result := .next (s.hardTrip 0)

/-- REFCLK_LOSS: dt goes on from the internal oscillator, whose error within 5 % is a free value; the rest is a hard trip
with detail 1. During boot the part waits in reset (R388, R392). -/
def State.refLoss (s : State) : State :=
  if !s.aon.powered ∨ s.aon.refLost then s
  else
    let e : Int := (s.freeVal % 100001 : Nat)
    let s := { s.drawn with aon := { s.aon with refLost := true, slewPpm := e - 50000 } }
    match s.boot.phase with
    | .held => { s with boot := { s.boot with phase := .refHeld } }
    | _ => s.hardTrip 1

def execRefclkLoss (s : State) : Result := .next s.refLoss

/-! ### Supply and the limiter (R328, R329, R390) -/

/-- The row of the supply table, by 10 mV: 0 normal, 1 above 57 V, 2 below 40.5 V, 3 below 36 V, 4 above 60 V. -/
def supplyRowOf (v : Nat) : Nat :=
  if 6000 < v then 4 else if 5700 < v then 1 else if 4050 ≤ v then 0 else if 3600 ≤ v then 2 else 3

/-- SUPPLY is logged. -/
def State.supplyLog (s : State) : State := (s.fault 0x0B05 .none).partEvent 5

/-- The effective cap in hundredths of a watt. -/
def State.effCap (s : State) : Nat :=
  let c := 100 * s.rd PWR_CFG_capW 0
  let v := s.rd PWR_INPUT_volts 0
  if v < 4050 then Nat.min c (119 * v) else c

/-- The limiter at one reading: above the cap L_p rises, or at level 4 CAP is logged once in 1 ms (R329, R346). -/
def State.limit (s : State) (w : Nat) : State :=
  let c := s.effCap
  let s := { s with pwr := { s.pwr with allUnder := s.pwr.allUnder && decide (1000 * w ≤ 9 * c) } }
  if c < 100 * w then
    let s := (s.wr PWR_STATUS_cap 0 1).partEvent 6
    if s.rd PWR_STATUS_levelP 0 < 4 then (s.inc PWR_STATUS_levelP 0 1).newLevel
    else if s.pwr.capLogged then s
    else { s with pwr := { s.pwr with capLogged := true } }.fault 0x0B06 .none
  else s

/-- A reading of 30 V or more. -/
def State.supplyReading (s : State) (v a w : Nat) : State :=
  if !s.aon.powered then s
  else
    let s := s.wrs 0 [(PWR_INPUT_volts, v), (PWR_INPUT_amps, a), (PWR_INPUT_watts, w)]
    let row := supplyRowOf v
    let was := s.pwr.supplyRow
    let s := { s with pwr := { s.pwr with
        supplyRow := row
        allLow := s.pwr.allLow && row == 3
        allHigh := s.pwr.allHigh && row == 4
        anyHigh := s.pwr.anyHigh || row == 4
        anySupply := true
        overVolt := s.pwr.overVolt || (row == 4 && s.rd PWR_STATUS_state 0 == 0) } }
    let s := if row ≠ was ∧ row ≠ 0 then s.wr PWR_STATUS_supply 0 1 else s
    (if row ≠ was then s.supplyLog else s).limit w

/-- SUPPLY_WINDOW_END. An over-voltage window that starts the shutdown logs SUPPLY (R390). A Dormant part stays Dormant, and takes wake events again after a full window at or below 60 V
(R392). -/
def State.supplyWindow (s : State) : State :=
  let p := s.pwr
  let s := { s with pwr := { s.pwr with
      allLow := true
      allHigh := true
      anyHigh := false
      anySupply := false
      overVolt := p.overVolt && (p.anyHigh || !p.anySupply) } }
  if !p.anySupply ∨ s.rd PWR_STATUS_state 0 = 0 then s
  else if p.allHigh ∧ (s.rd PWR_STATUS_state 0 = 1 ∨ s.rd PWR_STATUS_state 0 = 2) then (s.wr PWR_STATUS_supply 0 1).supplyLog.startShutdown
  else if p.allLow then s.startShutdown
  else s

def execSupplyWindowEnd (s : State) : Result := .next s.supplyWindow

/-- LIMITER_WINDOW_END. -/
def State.limiterWindow (s : State) : State :=
  let low := s.pwr.allUnder && s.rd PWR_STATUS_levelP 0 != 0
  let s := { s with pwr := { s.pwr with allUnder := true, capLogged := false } }
  if low then (s.wr PWR_STATUS_levelP 0 (s.rd PWR_STATUS_levelP 0 - 1)).newLevel else s

def execLimiterWindowEnd (s : State) : Result := .next s.limiterWindow

/-! ### Temperature (R338 to R341, R345) -/

/-- Class of a zone: 0 compute, 1 DRAM, 2 optical. -/
def zoneClass (z : Nat) : Nat := if z < 4 then 0 else if z < 12 then 1 else if z < 16 then 2 else 0

/-- Thresholds in 1/16 °C: warning, throttle, shutdown; an optical zone has no throttle. -/
def zoneWarn (c : Nat) : Int := if c = 0 then 1520 else 1360
def zoneThrottle (c : Nat) : Option Int := if c = 0 then some 1648 else if c = 1 then some 1520 else none
def zoneShut (c : Nat) : Int := if c = 0 then 1760 else if c = 1 then 1680 else 1520
/-- 3 °C. -/
def zoneHyst : Int := 48

/-- A reading reaches a state's threshold less h. -/
def zoneReaches (c : Nat) (r h : Int) : Nat → Bool
  | 1 => decide (zoneWarn c - h ≤ r)
  | 2 => (zoneThrottle c).any (fun t => decide (t - h ≤ r))
  | 3 => decide (zoneShut c - h ≤ r)
  | _ => true

/-- The state of a zone after a reading: the highest it reaches, or one it has not left. -/
def zoneNext (c was : Nat) (r : Int) : Nat :=
  ((upto 4).filter (fun k => zoneReaches c r 0 k || (decide (k ≤ was) && zoneReaches c r zoneHyst k))).foldl Nat.max 0

/-- The period code that a reading asks for: 0 1 ms, 1 100 µs, 2 20 µs; 1 ms while TRIPPED. -/
def State.zonePeriod (s : State) (c : Nat) (r : Int) : Nat :=
  if s.rd PWR_STATUS_state 0 = 4 then 0
  else if zoneShut c - 32 ≤ r then 2
  else if (zoneThrottle c).any (fun t => decide (t - 80 ≤ r)) then 1
  else 0

/-- Length of a period in dt. -/
def periodLen (k : Nat) : Nat := if k = 0 then 100000 else if k = 1 then 10000 else 2000

/-- A temperature register's value as a signed number. -/
def signed16 (n : Nat) : Int := if n < 32768 then n else (n : Int) - 65536

/-- The temperature a zone last read. -/
def State.zoneTemp (s : State) (z : Nat) : Int := signed16 (s.rd PWR_ZONE_temp z)

/-- The package reading: the highest zone reading, of the lowest zone on a tie. -/
def State.pkgTemp (s : State) : State :=
  let best := (upto 17).foldl (fun (b : Nat × Int) z => if b.2 < s.zoneTemp z then (z, s.zoneTemp z) else b) (0, s.zoneTemp 0)
  s.wrs 0 [(PWR_PKG_TEMP_temp, (BitVec.ofInt 16 best.2).toNat), (PWR_PKG_TEMP_zone, best.1)]

/-- A TRIPPED package becomes DORMANT when every zone is below warning less the hysteresis, the supply is normal and the
reference is there (R345, R388). -/
def State.leaveTripped (s : State) : State :=
  let v := s.rd PWR_INPUT_volts 0
  if s.rd PWR_STATUS_state 0 = 4 ∧ ¬ s.aon.refLost ∧ 4050 ≤ v ∧ v ≤ 5700 ∧
      (upto 17).all (fun z => decide (s.zoneTemp z < zoneWarn (zoneClass z) - zoneHyst)) then
    { s with pwr := { s.pwr with tripPin := false } }.wr PWR_STATUS_state 0 0
  else s

/-- An optical zone's shutdown takes its engine's ports DOWN and holds them (R340). -/
def State.opticalZone (s : State) (z st : Nat) : State :=
  s.each ((upto 4).map (4 * (z - 12) + ·)) (fun s j =>
    if st = 3 then (s.lose j).updPort j (fun x => { x with heldDown := true })
    else s.updPort j (fun x => { x with heldDown := false }))

/-- A compute or DRAM zone throttles and shuts down (R341, R343). -/
def State.hotZone (s : State) (c : Nat) (r : Int) (prev : Option Int) : State :=
  let hot := zoneReaches c r 0 2
  let s := { s with pwr := { s.pwr with allCool := s.pwr.allCool && !zoneReaches c r zoneHyst 2 } }
  let s := if hot ∧ prev.all (fun x => decide (x ≤ r)) ∧ s.rd PWR_STATUS_levelT 0 < 4 then
      let s := (s.inc PWR_STATUS_levelT 0 1).wr PWR_STATUS_throttle 0 1
      (s.logEvent 0x0B02 none false .none (s.rd PWR_STATUS_levelT 0)).newLevel
    else s
  if zoneReaches c r 0 3 then s.startShutdown else s

/-- ZONE_READING. -/
def State.zoneReading (s : State) (z : Nat) (r : Int) : State :=
  if !s.aon.powered then s
  else
    let c := zoneClass z
    let was := s.rd PWR_ZONE_state z
    let st := zoneNext c was r
    let prev := (s.zones.get z).prev
    let want := s.zonePeriod c r
    let p := if s.rd PWR_ZONE_period z < want ∨ s.dt % periodLen want = 0 then want else s.rd PWR_ZONE_period z
    let s := s.wrs z [(PWR_ZONE_temp, (BitVec.ofInt 16 r).toNat), (PWR_ZONE_state, st), (PWR_ZONE_period, p), (PWR_ZONE_stamp, s.dt % 2 ^ 32)]
    let s := { s with zones := s.zones.set z { prev := some r } }.pkgTemp
    let s := if was = 0 ∧ st ≠ 0 then ((s.fault 0x0B01 .none).wr PWR_STATUS_warning 0 1).partEvent 2 else s
    (if c = 2 then s.opticalZone z st else s.hotZone c r prev).leaveTripped

def execZoneReading (z : Fin 17) (temp : Int) (s : State) : Result :=
  s.act (decide (-32768 ≤ temp) && decide (temp < 32768)) (fun s => s.zoneReading z temp)

/-- THERMAL_WINDOW_END. -/
def State.thermalWindow (s : State) : State :=
  let cool := s.pwr.allCool && s.rd PWR_STATUS_levelT 0 != 0
  let s := { s with pwr := { s.pwr with allCool := true } }
  if cool then (s.wr PWR_STATUS_levelT 0 (s.rd PWR_STATUS_levelT 0 - 1)).newLevel else s

def execThermalWindowEnd (s : State) : Result := .next s.thermalWindow

/-! ### Dormant and wake (R334 to R337) -/

/-- Every partition is EMPTY or STOPPED. -/
def State.quiet (s : State) : Bool := (upto 16).all (fun p => s.pstate p == sEMPTY || s.pstate p == sSTOPPED)

/-- Entry to Dormant, in the order of R336, or its refusal. -/
def State.enterDormant (s : State) : State :=
  if s.rd PWR_STATUS_state 0 = 0 then s
  else if s.rd PWR_STATUS_state 0 ≠ 2 ∨ ¬ s.quiet ∨ s.on INT_REPAIR_STATUS_busy 0 then s.wr PWR_STATUS_dormantRefused 0 1
  else
    let s := s.each (upto 64) (fun s f => (s.cqFlush f).cqTail f)
    ((s.drainAll.portsLow).quartersOff).wr PWR_STATUS_state 0 0

/-- DORMANT. -/
def execDormant (src : Src) (s : State) : Result :=
  .next (s.access src (PWR_CMD_op.addr 0) 8 1 State.enterDormant)

/-- AUTO_DORMANT: the package has idled for auto_dormant_ms. -/
def State.autoDormant (s : State) : State :=
  let ms := s.rd PWR_CFG_autoDormantMs 0
  if ms ≠ 0 ∧ s.rd PWR_STATUS_state 0 = 2 ∧ s.quiet ∧ s.aon.idleSince + 100000 * ms ≤ s.dt then s.enterDormant else s

def execAutoDormant (s : State) : Result := .next s.autoDormant

/-- WAKE. -/
def execWake (src : Src) (s : State) : Result := .next (s.access src (PWR_CMD_op.addr 0) 8 2 State.startWake)

/-- WAKE_EVENT: enabled by its bit of PWR_WAKE_CFG.src; bit 3 is dt reaching PWR_WAKE_AT. -/
def State.wakeEvent (s : State) (k : Nat) : State :=
  let at_ := s.rd PWR_WAKE_AT_dt 0
  if bit (s.rd PWR_WAKE_CFG_src 0) k ∧ (k ≠ 3 ∨ (at_ ≠ 0 ∧ at_ ≤ s.dt)) then s.startWake else s

def execWakeEvent (kind : Fin 4) (s : State) : Result := .next (s.wakeEvent kind)

/-- QUARTER_WAKE_DONE: the Vat, the Press buffers and the churns are zeroed, the quarter is IDLE, and what waited for it goes on. -/
def State.quarterAwake (s : State) (q : Nat) : State :=
  if (s.q q).power = .waking then
    let s := (s.quarterClear q).setQ q (fun x => { x with power := .on })
    let s := match s.repair with
      | some r => if r.op = 2 ∧ r.arg = q then s.repairEnd 0 else s
      | none => s
    s.pollWaking
  else s

def execQuarterWakeDone (q : Fin 16) (s : State) : Result := .next (s.quarterAwake q)

/-- QUARTER_IDLE_OFF: a quarter that is IDLE or STOPPED and has been unheld for idle_off_us goes OFF. -/
def State.idleOff (s : State) (q : Nat) : State :=
  let us := s.rd PWR_CFG_idleOffUs 0
  if us ≠ 0 ∧ (s.holder q).isNone ∧ (s.q q).svc = .none ∧ (s.q q).power = .on ∧ (s.q q).unheldSince + 100 * us ≤ s.dt then
    s.quarterOff q
  else s

def execQuarterIdleOff (q : Fin 16) (s : State) : Result := .next (s.idleOff q)

/-- A Press or stack link that does not train (R12): the die at the far end of a Press link, taken as the higher-numbered
of the two (log 75), is fenced; the quarters of a stack link are FENCED and their half cannot be reached. -/
def pressFar (l : Nat) : Nat :=
  match l with
  | 0 => 1
  | 1 => 2
  | 2 => 3
  | 3 => 2
  | _ => 3

def State.pressLinkBad (s : State) (l : Nat) : State :=
  let d := pressFar l
  let s := s.fault 0x0201 (.link l)
  if bit s.dieFence d then s
  else
    let qs := (upto 4).map (4 * d + ·)
    let s := s.each qs State.clearFor
    ((s.each qs (fun s q => s.fenceNow q none)).dieOff d).logEvent 0x0D06 none false .none 0

def State.stackLinkBad (s : State) (k : Nat) : State :=
  ((s.wr STK_LINK_STATUS_trained k 0).fault 0x0201 (.link (0x10 + k))).each [2 * k, 2 * k + 1] (fun s q =>
    ((s.clearFor q).fenceNow q none).setQ q (fun x => { x with linkBad := true }))

/-- A partition named in PWR_WAKE_CFG.resume resumes at a wake (R337). -/
def State.wakeResume (s : State) (p : Nat) : State :=
  if bit (s.rd PWR_WAKE_CFG_resume 0) p ∧ s.pstate p = sSTOPPED ∧ (s.maskOf p).all s.takeable then
    ((s.takeQuarters p sRESUMING).updPart p (fun x => { x with waking := true })).pollWaking
  else s

/-- A FENCED quarter of a powered die is on when the part is AWAKE: its power ramps up again (R334). -/
def State.wakeFenced (s : State) (q : Nat) : State :=
  if (s.q q).svc = .fenced ∧ (s.q q).power = .off ∧ ¬ bit s.dieFence (q / 4) then s.setQ q (fun x => { x with power := .waking }) else s

/-- The package is AWAKE: FENCED quarters get their power back, links that did not re-lock leave service, and the partitions
to resume do. -/
def State.awake (s : State) (badPress badStack : List Nat) : State :=
  let s := s.wr PWR_STATUS_state 0 2
  let s := { s with aon := { s.aon with idleSince := s.dt } }
  let s := s.each (upto 16) State.wakeFenced
  let s := s.each badPress State.pressLinkBad
  let s := s.each badStack State.stackLinkBad
  s.each (upto 16) State.wakeResume

end Sys2Proof.Machine
end

