-- ==== Sys2Proof/Machine/Update.lean ====
section
/-! DEFINITION. The checks of an image copy, the update of the image, and the fuse commands (R351 to R364, R371, R372). -/

namespace Sys2Proof.Machine

open Sys2Proof

/-! ### The checks of a copy (R357) -/

/-- The magic "BOLOLD01" as a little-endian number. -/
abbrev boloMagic : W64 := 0x3130444C4F4C4F42

/-- The hash of an unrevoked vendor slot. -/
def Fuses.vendorOk (f : Fuses) (h : W512) : Bool :=
  (!bit f.revoke 0 && h == f.vendor0) || (!bit f.revoke 1 && h == f.vendor1)

/-- The owner's signature of a copy is valid. -/
def Fuses.ownerOk (f : Fuses) (c : ImageCopy) : Bool :=
  c.ownerSigned && f.ownerFused && c.ownerKeySha == f.ownerHash && c.ownerSigOk

/-- Checks 1 to 7: the detail of the first that fails, 0 for none. -/
def Fuses.headCause (f : Fuses) (c : ImageCopy) : Nat :=
  if c.magic ≠ boloMagic ∨ c.headerVersion ≠ 1 then 1
  else if c.target ≠ 0x48 then 2
  else if 0x03FFC000 < c.bodyLength then 3
  else if !f.vendorOk c.vendorKeySha then 4
  else if !c.vendorSigOk then 5
  else if (c.ownerSigned ∧ ¬ f.ownerOk c) ∨ (f.ownerRequired ∧ ¬ c.ownerSigned) then 6
  else if c.svn < f.svn then 7
  else 0

/-- Checks 8 and 9; a slot left half written fails check 8 (R363). -/
def bodyCause (c : ImageCopy) : Nat :=
  if c.torn ∨ sha3 (c.body.take c.bodyLength) ≠ c.bodyDigest then 8 else if !c.sectionsOk then 9 else 0

/-- All the checks. -/
def Fuses.copyCause (f : Fuses) (c : ImageCopy) : Nat :=
  if f.headCause c ≠ 0 then f.headCause c else bodyCause c

/-! ### The commands (R363, R364, R372) -/

/-- A change of the fuses. -/
def State.fuse (s : State) (f : Fuses → Fuses) : State := { s with boot := { s.boot with fuses := f s.boot.fuses } }

/-- BOOT_STATUS shows the fuses. -/
def State.fuseStatus (s : State) : State :=
  let f := s.boot.fuses
  s.wrs 0 [(BOOT_STATUS_ownerFused, b2n f.ownerFused), (BOOT_STATUS_ownerRequired, b2n f.ownerRequired),
    (BOOT_STATUS_debugEnabled, b2n (!f.debugDisable)), (BOOT_STATUS_svnMin, f.svn)]

/-- An update command: ignored with lost set while one runs (R371); in RECOVERY only ops 1 and 8 act (R362). -/
def State.updateOp (s : State) (op : Nat) (f : State → State) : State :=
  if s.boot.phase = .recovery ∧ op ≠ 1 ∧ op ≠ 8 then s
  else if s.on BOOT_UPDATE_STATUS_busy 0 then s.wr BOOT_UPDATE_STATUS_lost 0 1
  else f s

/-- A BOOT_UPDATE_CMD write of a source. -/
def State.updateBy (s : State) (src : Src) (op : Nat) (f : State → State) : State :=
  s.access src (BOOT_UPDATE_CMD_op.addr 0) 8 (BitVec.ofNat 64 op) (fun s => s.updateOp op f)

/-- Causes of BOOT_UPDATE_STATUS. -/
abbrev uSTATE : Nat := 1
abbrev uARG : Nat := 2
abbrev uFETCH : Nat := 3
abbrev uCHECK : Nat := 4
abbrev uSEQUENCE : Nat := 5
abbrev uNVM : Nat := 6

/-- A copy slot's contents, 0 A and 1 B. -/
def State.setCopy (s : State) (slot : Nat) (c : ImageCopy) : State :=
  if slot = 0 then { s with boot := { s.boot with copyA := some c } } else { s with boot := { s.boot with copyB := some c } }

/-- The slot that an update programs (R363): the one that does not run; in RECOVERY copy A unless it passed checks 1
to 7. -/
def State.updateSlot (s : State) : Nat :=
  if s.boot.phase = .recovery then (if s.boot.copyA.any (fun c => s.boot.fuses.headCause c == 0) then 1 else 0)
  else if s.on BOOT_STATUS_copy 0 then 0 else 1

/-- The fetch by host DMA engine 3 works: an aligned address, an input that is not quarantined. -/
def State.fetchOpen (s : State) : Bool := !bit (s.rd SVC_QUAR_quarantined 0) 11

/-- UPDATE_IMAGE: the checks write nothing; while the slot is erased and programmed it holds a copy that fails check 8. -/
def State.updateImage (s : State) (img : Option ImageCopy) : State :=
  if s.rd BOOT_UPDATE_ADDR_addr 0 % 4096 ≠ 0 then s.updateEnd uARG 0
  else if !s.fetchOpen then s.updateEnd uFETCH 0
  else match img with
  | none => s.updateEnd uFETCH 0
  | some img =>
    let c := img.cut (s.rd BOOT_UPDATE_LEN_len 0)
    let bad := s.boot.fuses.copyCause c
    if bad ≠ 0 then s.updateEnd uCHECK bad
    else if s.runningCopy.any (fun r => decide (c.sequence ≤ r.sequence)) then s.updateEnd uSEQUENCE 0
    else
      let slot := s.updateSlot
      let s := s.setCopy slot { c with torn := true }
      { s with boot := { s.boot with update := some (slot, c) } }.wr BOOT_UPDATE_STATUS_busy 0 1

def execUpdateImage (src : Src) (img : Option ImageCopy) (s : State) : Result := .next (s.updateBy src 1 (fun s => s.updateImage img))

/-- IMAGE_UPDATE_DONE: the slot reads back right, or the NVM failed and the slot fails check 8. -/
def State.imageDone (s : State) (ok : Bool) : State :=
  match s.boot.update with
  | none => s
  | some (slot, c) =>
    let s := { s with boot := { s.boot with update := none } }
    if ok then (s.setCopy slot c).updateEnd 0 0 else s.updateEnd uNVM 0

def execImageUpdateDone (ok : Bool) (s : State) : Result := .next (s.imageDone ok)

/-- COMMIT_SVN. -/
def State.commitSvn (s : State) : State :=
  match s.runningCopy with
  | some c =>
    if c.svn ≤ s.boot.fuses.svn then s.updateEnd uSTATE 0
    else ((s.fuse (fun f => { f with svn := Nat.min 64 c.svn })).fuseStatus).updateEnd 0 0
  | none => s.updateEnd uSTATE 0

def execCommitSvn (src : Src) (s : State) : Result := .next (s.updateBy src 3 State.commitSvn)

/-- FUSE_OWNER_KEY. -/
def State.fuseOwner (s : State) (hash : Option W512) : State :=
  if s.boot.fuses.ownerFused then s.updateEnd uSTATE 0
  else if s.rd BOOT_UPDATE_ADDR_addr 0 % 4096 ≠ 0 then s.updateEnd uARG 0
  else if !s.fetchOpen then s.updateEnd uFETCH 0
  else match hash with
    | none => s.updateEnd uFETCH 0
    | some h => ((s.fuse (fun f => { f with ownerHash := h, ownerFused := true })).fuseStatus).updateEnd 0 0

def execFuseOwnerKey (src : Src) (hash : Option W512) (s : State) : Result := .next (s.updateBy src 4 (fun s => s.fuseOwner hash))

/-- REQUIRE_OWNER. -/
def State.requireOwner (s : State) : State :=
  if s.boot.fuses.ownerFused ∧ s.runningCopy.any s.boot.fuses.ownerOk then
    ((s.fuse (fun f => { f with ownerRequired := true })).fuseStatus).updateEnd 0 0
  else s.updateEnd uSTATE 0

def execRequireOwner (src : Src) (s : State) : Result := .next (s.updateBy src 5 State.requireOwner)

/-- REVOKE_VENDOR_SLOT. -/
def State.revokeVendor (s : State) : State :=
  let k := s.rd BOOT_UPDATE_LEN_len 0 % 2
  let h := if k = 0 then s.boot.fuses.vendor0 else s.boot.fuses.vendor1
  if s.runningCopy.any (fun c => c.vendorKeySha == h) then s.updateEnd uSTATE 0
  else (s.fuse (fun f => { f with revoke := f.revoke ||| 2 ^ k })).updateEnd 0 0

def execRevokeVendorSlot (src : Src) (s : State) : Result := .next (s.updateBy src 6 State.revokeVendor)

/-- DISABLE_DEBUG. -/
def State.disableDebug (s : State) : State := ((s.fuse (fun f => { f with debugDisable := true })).fuseStatus).updateEnd 0 0

def execDisableDebug (src : Src) (s : State) : Result := .next (s.updateBy src 7 State.disableDebug)

/-- The records in the bytes of a retirement list (R356): 64 bytes each, up to one of all ones. What the first 60 bytes
hold stands in no stated order, so it is free values (log 76). -/
def parseRecords (free : Nat) (bs : List Byte) : Nat → List RetRecord
  | 0 => []
  | k + 1 =>
    let r := bs.take 64
    if r.length < 64 ∨ r.all (fun b => b == 0xFF) then []
    else
      ⟨Config.freeNat free % 16, Config.freeNat (free + 1) % 2 ^ 43, Config.freeNat (free + 2) % 2 ^ 64, Config.freeNat (free + 3) % 2 ^ 64,
        crc32c (r.take 60) == leAt r 60 4⟩ :: parseRecords (free + 4) (bs.drop 64) k

/-- The bytes of a slot of the record area. -/
def recordSlot (item : Nat) : Nat := if item = 2 then 2 ^ 20 else 65536

/-- WRITE_RECORD_AREA. -/
def State.recordArea (s : State) (bytes : Option (List Byte)) : State :=
  let len := s.rd BOOT_UPDATE_LEN_len 0
  let item := bits len 40 2
  let size := bits len 0 40
  if item = 3 then s.updateEnd uARG 0
  else if recordSlot item < size then s.updateEnd uSTATE 0
  else if s.rd BOOT_UPDATE_ADDR_addr 0 % 4096 ≠ 0 then s.updateEnd uARG 0
  else if !s.fetchOpen then s.updateEnd uFETCH 0
  else match bytes with
  | none => s.updateEnd uFETCH 0
  | some b =>
    if b.length < size then s.updateEnd uFETCH 0
    else
      let b := b.take size
      match item with
      | 0 => { s with boot := { s.boot with chain := b } }.updateEnd 0 0
      | 1 => { s with boot := { s.boot with endorsement := b } }.updateEnd 0 0
      | _ =>
        let l := parseRecords s.free b 16384
        ({ s with boot := { s.boot with list := l }, free := s.free + 4 * l.length }.wr BOOT_STATUS_listFull 0 0).updateEnd 0 0

def execWriteRecordArea (src : Src) (bytes : Option (List Byte)) (s : State) : Result :=
  .next (s.updateBy src 8 (fun s => s.recordArea bytes))

/-- UPDATE_CMD_INVALID. -/
def execUpdateCmdInvalid (src : Src) (op : Fin 16) (s : State) : Result :=
  s.act (op.val == 0 || op.val == 2 || decide (9 ≤ op.val)) (fun s => s.updateBy src op (fun s => s.updateEnd uARG 0))

end Sys2Proof.Machine
end

