-- ==== Sys2Proof/Machine/Registers.lean ====
section
/-! DEFINITION. Register accesses: what a register reads, what a write does to it by the access codes of its fields, and
where a write is a command of its own (R5 to R7, R375 to R382). -/

namespace Sys2Proof.Machine

open Sys2Proof

/-! ### Reads -/

/-- DEV_FN_INFO_f (R380). -/
def State.fnInfo (s : State) (f : Nat) : Nat :=
  let p := s.bound.get f
  let named := bits (s.reg (PART_BIND_f.addr (f / 16))).toNat (4 * (f % 16)) 4
  let fields : List (Fld × Nat) :=
    [(DEV_FN_INFO_function, f), (DEV_FN_INFO_enabled, b2n (s.fnEnabled f)), (DEV_FN_INFO_partition, p),
     (DEV_FN_INFO_rebindPending, b2n (named != p)), (DEV_FN_INFO_held, s.rd PART_STATUS_held p), (DEV_FN_INFO_partState, s.pstate p)]
  fields.foldl (fun n e => setBits n e.1.lo e.1.wid e.2) 0

/-- Word w of a log entry (R314). -/
def LogEntry.word (e : LogEntry) (w : Nat) : Nat :=
  match w with
  | 0 => e.code + 2 ^ 16 * e.count + 2 ^ 24 * (e.part.getD 0) + 2 ^ 28 * b2n e.part.isSome + 2 ^ 29 * b2n e.scrub
  | 1 => e.dt
  | 2 => e.kind + 2 ^ 8 * e.loc
  | _ => e.detail

/-- The group that COL_SEL selects. -/
def State.selGroup (s : State) : Nat := groupKey (s.rd COL_SEL_partition 0) (s.rd COL_SEL_group 0)

/-- COL_GROUP_STATUS of a group (R261). -/
def State.groupStatus (s : State) (x : Group) : Nat :=
  x.state + 2 ^ 4 * x.member + 2 ^ 16 * (x.members - 1) + 2 ^ 28 * x.cause + 2 ^ 36 * x.origin + 2 ^ 48 * s.slowF x

/-- COL_GROUP_EVENT of a group. -/
def groupEvents (x : Group) : Nat := b2n x.withdrawn + 2 * b2n x.timeout + 4 * b2n x.mismatch + 8 * b2n x.slowSeen

/-- LRT_WIN_CFG of a window. -/
def winCfgWord (w : Win) : Nat :=
  w.state + 4 * b2n w.plate + 2 ^ 4 * w.owner + 2 ^ 8 * w.mask + 2 ^ 12 * b2n w.enc + 2 ^ 16 * b2n w.cmdErr + 2 ^ 24 * w.cause

/-- The registers that show live values or the state of what they select; none for a register of stored bits. -/
def State.liveReg (s : State) (base i : Nat) : Option Nat :=
  match base with
  | 0x18 => some s.dt
  | 0x20 => some s.devStatus
  | 0x400 => some (s.fnInfo i)
  | 0x10010 => some s.quarterNibbles
  | 0x40008 => some s.regionAttrRead
  | 0x52008 => some (winCfgWord (s.win (s.selWin i)))
  | 0x52010 => some (s.win (s.selWin i)).fp.toNat
  | 0x52020 => some (s.win (s.selWin i)).bytes
  | 0x52028 => some (s.win (s.selWin i)).cells
  | 0x52030 => some (s.win (s.selWin i)).drops
  | 0x52080 => some (wordOf (s.win (s.selWin (i / 16))).desc (i % 16))
  | 0x60008 => let x := s.groups.get s.selGroup; some (x.tag + 2 ^ 32 * x.epoch)
  | 0x60010 => some (s.groupStatus (s.groups.get s.selGroup))
  | 0x60018 => some (groupEvents (s.groups.get s.selGroup))
  | 0x60020 => some (s.groups.get s.selGroup).dt
  | 0x90110 => some (setBits (s.reg (HIF_FWD_port.addr i)).toNat 5 2 (s.fwdState (i + 1)))
  | 0xA8000 => some ((s.log.get (i / 4)).word (i % 4))
  | _ => none

/-- The bits of a family of registers with an access code. -/
def RegSpec.mask (r : RegSpec) (p : Acc → Bool) : W64 :=
  BitVec.ofNat 64 (r.fields.foldl (fun n e => if p e.2.2 then n + (2 ^ e.2.1 - 1) * 2 ^ e.1 else n) 0)

/-- Fields that a write sets. -/
def Acc.sets : Acc → Bool
  | .rw => true
  | .rws => true
  | _ => false

/-- What a 64-bit read at a BAR0 offset of the PF view returns: 0 where no register is, in reserved fields and in WO
fields (R6, R7). -/
def State.readReg (s : State) (a : Nat) : W64 :=
  match regFind a with
  | none => 0
  | some (r, i) =>
    (match s.liveReg r.off i with
      | some v => BitVec.ofNat 64 v
      | none => s.reg a) &&& r.mask (fun c => c != .wo)

/-- What an access of a size reads at a PF offset: the register, or the half of it that a 32-bit access addresses; all ones where
the part takes no access of that size and alignment (R5). -/
def State.readAt (s : State) (a size : Nat) : W64 :=
  if !regAccessOk a size then 0xFFFFFFFFFFFFFFFF
  else if size = 8 then s.readReg a
  else BitVec.ofNat 64 (bits (s.readReg (a / 8 * 8)).toNat (32 * (a / 4 % 2)) 32)

/-- The PF offset that a read of a source at an offset of its view reads, none where no register of the view is (R375). -/
def State.readOff (s : State) (src : Src) (off : Nat) : Option Nat :=
  match src with
  | .fn f =>
    if f = 0 then some off else (regFindVf f (s.bound.get f) (off / 8 * 8)).map (fun e => e.1.addr e.2 + off % 8)
  | _ => some off

/-- What a read of a source returns, none while it is held for a wake (R374, R375). -/
def State.readBy (s : State) (src : Src) (off size : Nat) : Option W64 :=
  if !regAccessOk off size then some (s.readAt off size)
  else match s.readOff src off with
    | none => some 0
    | some a =>
      match s.serve src a with
      | .now => some (s.readAt a size)
      | .held => none
      | .nothing => some 0

/-! ### Writes of stored bits (R5, R6) -/

/-- The bits of a register that a write reaches: all, or the half that a 32-bit access addresses. -/
def laneMask (off size : Nat) : W64 :=
  if size = 8 then 0xFFFFFFFFFFFFFFFF else if off % 8 = 4 then 0xFFFFFFFF00000000 else 0xFFFFFFFF

/-- The value written, in its place in the register. -/
def laneValue (off size : Nat) (v : W64) : W64 := (if size = 4 ∧ off % 8 = 4 then v <<< 32 else v) &&& laneMask off size

/-- The bits of a register after a write of `v` to the bits `m`: RW and RWS fields are set, ones clear W1C bits, zeros
clear W0CS bits. -/
def RegSpec.apply (r : RegSpec) (old v m : W64) : W64 :=
  let set := r.mask Acc.sets &&& m
  let one := r.mask (fun c => c == .w1c) &&& m
  let zero := r.mask (fun c => c == .w0cs) &&& m
  ((old &&& ~~~set) ||| (v &&& set)) &&& ~~~(v &&& one) &&& ~~~(~~~v &&& zero)

/-- The registers whose command reaches over both halves, with the bit of it that starts the command: STK_REFILL and
INT_REPAIR_CMD. They hold their WO bits, which read as zero, so that a 32-bit write acts on the combination (R5; log 95). -/
def splitCommand (base : Nat) : Option Nat :=
  match base with
  | 0x40010 => some 32
  | 0xA0028 => some 0
  | _ => none

/-- The value on which a register acts as a whole: what was written, with the other half of a 32-bit write as its RW
fields read and as the WO bits of a split command stand; other WO bits and W1C bits there count as 0. -/
def State.actValue (s : State) (r : RegSpec) (a : Nat) (v m : W64) : W64 :=
  let wo := if (splitCommand r.off).isSome then s.reg a &&& r.mask (fun c => c == .wo) else 0
  ((v &&& m) ||| (((s.readReg a &&& r.mask Acc.sets) ||| wo) &&& ~~~m)) &&& r.mask (fun c => c != .ro)

/-! ### Registers that act when written -/

/-- LRT_PORT_CTRL_j (R224, R226, R234, R238). An authenticated link in clear leaves when its port comes to require encryption, so
that the port never runs in clear (log 21). -/
def State.portCtrl (s : State) (j : Nat) (v : W64) : State :=
  let was := s.on LRT_PORT_CTRL_enable j
  let s := s.wrs j [(LRT_PORT_CTRL_allowFull, bits v.toNat 1 1), (LRT_PORT_CTRL_encrypt, bits v.toNat 2 1),
    (LRT_PORT_CTRL_dropLimit, bits v.toNat 16 16), (LRT_PORT_CTRL_lambdaThreshold, bits v.toNat 32 16)]
  let s := if bit v.toNat 0 then (if was then s else s.enablePort j) else (if was then s.disablePort j else s)
  let s := if bit v.toNat 2 ∧ 4 ≤ s.portState j ∧ s.portState j ≤ 7 ∧ ¬ s.on LRT_PORT_STATUS_encrypted j then s.portDown j pDOWN else s
  if bit v.toNat 3 then s.quarantineClear j else s

/-- LRT_WIN_CFG_d: a write to a plate's window is ignored and sets cmd_err, but for one that clears cmd_err and leaves the settings
as they are; the owner is writable only while CLOSED (R232, R238; log 78). -/
def State.winCfg (s : State) (d : Nat) (v : W64) : State :=
  let x := v.toNat
  let clear := bit x 16
  if s.rd LRT_WIN_SEL_window d < 128 then
    s.updWin (s.selWin d) (fun w =>
      { w with cmdErr := !clear || bits x 4 4 != w.owner || bits x 8 4 != w.mask || bit x 12 != w.enc })
  else
    s.updWin (s.selWin d) (fun w =>
      { w with
        owner := if w.state = 0 then bits x 4 4 else w.owner
        mask := bits x 8 4
        enc := bit x 12
        cmdErr := w.cmdErr && !clear })

/-- LRT_WIN_PEER_d. -/
def State.winPeer (s : State) (d : Nat) (v : W64) : State :=
  s.updWin (s.selWin d) (fun w => if s.rd LRT_WIN_SEL_window d < 128 then { w with cmdErr := true } else { w with fp := v })

/-- LRT_WIN_DESC_d_n, writable only while CLOSED. -/
def State.winDesc (s : State) (d n : Nat) (v : W64) : State :=
  s.updWin (s.selWin d) (fun w =>
    if s.rd LRT_WIN_SEL_window d < 128 then { w with cmdErr := true }
    else if w.state = 0 then { w with desc := (upto 16).map (fun i => if i = n then v else w.desc.getD i 0) }
    else w)

/-- LRT_WIN_CMD_d. A command to a plate's window sets cmd_err. -/
def State.winCmd (s : State) (d : Nat) (v : W64) : State :=
  if s.rd LRT_WIN_SEL_window d < 128 then s.updWin (s.selWin d) (fun w => { w with cmdErr := true })
  else
    let s := if bit v.toNat 0 then s.winOpen d else s
    if bit v.toNat 1 then s.winClose d else s

/-- COL_GROUP_CFG, writable only while CLOSED or WITHDRAWN (R261). -/
def State.groupCfg (s : State) (v : W64) : State :=
  { s with groups := s.groups.upd s.selGroup (fun x =>
      if x.state = 0 ∨ x.state = 3 then { x with tag := bits v.toNat 0 32, epoch := bits v.toNat 32 16 } else x) }

/-- COL_GROUP_EVENT: ones clear. -/
def State.groupEvent (s : State) (v : W64) : State :=
  { s with groups := s.groups.upd s.selGroup (fun x =>
      { x with
        withdrawn := x.withdrawn && !bit v.toNat 0
        timeout := x.timeout && !bit v.toNat 1
        mismatch := x.mismatch && !bit v.toNat 2
        slowSeen := x.slowSeen && !bit v.toNat 3 }) }

/-- PART_CMD by op; LOAD and PREEMPT, whose plate a register write does not carry, are commands of their own. -/
def State.partCmdWord (s : State) (v : W64) : State :=
  let p := bits v.toNat 0 4
  s.partCmd (fun s =>
    match bits v.toNat 4 4 with
    | 2 => s.cmdStop p
    | 3 => s.resumePart p
    | 4 => s.cmdUnload p
    | _ => s.pcmdEnd causeState)

/-- INT_REPAIR_CMD by op; UNFENCE_DIE and REFETCH_HOST are commands of their own. -/
def State.repairWord (s : State) (v : W64) : State :=
  let x := v.toNat
  let q := bits x 4 4
  s.repairOp x (fun s =>
    match bits x 0 4 with
    | 1 => s.fenceQuarter q
    | 2 => s.unfenceQuarter q
    | 3 => s.bistStart q
    | 4 => s.substitute q (bit x 12) (bits x 13 3)
    | 5 => s.retire (bits x 10 2) q (bits x 16 4) (bits x 20 14) (bits x 34 9)
    | 6 => s.fenceDieCmd (bits x 8 2)
    | 8 => s.regionInit (bits x 16 4) (bits x 20 14)
    | 10 => s.refetchPeer (bits x 16 4) (bits x 20 14)
    | _ => s.repairEnd rARG)

/-- BOOT_UPDATE_CMD by op; ops 1, 4 and 8 are commands of their own. -/
def State.updateWord (s : State) (v : W64) : State :=
  let op := bits v.toNat 0 4
  s.updateOp op (fun s =>
    match op with
    | 3 => s.commitSvn
    | 5 => s.requireOwner
    | 6 => s.revokeVendor
    | 7 => s.disableDebug
    | _ => s.updateEnd uARG 0)

/-- PWR_CFG: the cap lies within 2,000 to 4,800 W (R329). -/
def State.pwrCfg (s : State) (v : W64) : State :=
  s.wrs 0 [(PWR_CFG_capW, Nat.max 2000 (Nat.min 4800 (bits v.toNat 0 13))), (PWR_CFG_autoDormantMs, bits v.toNat 16 16),
    (PWR_CFG_idleOffUs, bits v.toNat 32 16)]

/-- PWR_CMD by op. -/
def State.pwrCmd (s : State) (v : W64) : State :=
  match bits v.toNat 0 2 with
  | 1 => s.enterDormant
  | 2 => s.startWake
  | _ => s

/-- HIF_TICK: 1 to 100 µs; other values are ignored (R302). -/
def State.tickCfg (s : State) (v : W64) : State :=
  let n := bits v.toNat 0 7
  if 1 ≤ n ∧ n ≤ 100 then s.wr HIF_TICK_tickUs 0 n else s

/-- HIF_RMT_CMD; with both bits written the access is a read (log 63). -/
def State.rmtCmd (s : State) (v : W64) : State :=
  if bit v.toNat 0 then s.rmtStart false else if bit v.toNat 1 then s.rmtStart true else s

/-- What a write does to the register of index i of the family at `base` that acts as a whole; none for a register of
plain fields. -/
def State.regActs (s : State) (base i : Nat) (v : W64) : Option State :=
  match base with
  | 0x20000 => some (s.slotCfgWrite v.toNat)
  | 0x40008 => some (s.regionAttr v.toNat)
  | 0x40010 => some (s.refillStart v.toNat)
  | 0x50008 => some (s.laserCtrl (bits v.toNat 0 8))
  | 0x51000 => some (s.portCtrl i v)
  | 0x52008 => some (s.winCfg i v)
  | 0x52010 => some (s.winPeer i v)
  | 0x52018 => some (s.winCmd i v)
  | 0x52080 => some (s.winDesc (i / 16) (i % 16) v)
  | 0x60008 => some (s.groupCfg v)
  | 0x60018 => some (s.groupEvent v)
  | 0x70000 => some (s.partCfg i v)
  | 0x70100 => some (s.partCmdWord v)
  | 0x70200 => some (s.measCfg v.toNat)
  | 0x90008 => some (s.tickCfg v)
  | 0x90028 => some (s.rmtCmd v)
  | 0x91000 => some (s.rqCfg i v)
  | 0x91040 => some (s.cqCfg i v)
  | 0x91060 => some (s.win4Base i v)
  | 0xA0008 => some (s.logHead v.toNat)
  | 0xA0028 => some (s.repairWord v)
  | 0xB0000 => some (s.pwrCfg v)
  | 0xB0008 => some (s.pwrCmd v)
  | 0xC0020 => some (s.updateWord v)
  | _ => none

/-- A write of the bits `m` of the register of index i of family r at offset a. -/
def State.regPut (s : State) (r : RegSpec) (i a : Nat) (v m : W64) : State :=
  let x := s.actValue r a v m
  match splitCommand r.off, s.regActs r.off i x with
  | some k, some s' => if bit m.toNat k then s' else s.setReg a x
  | _, some s' => s'
  | _, none =>
    let s' := s.setReg a (r.apply (s.reg a) v m)
    if r.off = 0x90110 then s'.pollRmt else s'

/-- A write at a PF offset: nothing where no register is, or where only reserved bits are addressed (R7). -/
def State.regWrite (s : State) (a size : Nat) (v : W64) : State :=
  match regFind (a / 8 * 8) with
  | none => s
  | some (r, i) =>
    let m := laneMask a size
    if r.mask (fun _ => true) &&& m = 0 then s else s.regPut r i (a / 8 * 8) (laneValue a size v) m

/-- The commands with a row of their own that need more than a register write carries: LOAD, PREEMPT, UNFENCE_DIE,
REFETCH_HOST, the resets, the fetching updates and a report. -/
def ownCommand (base : Nat) (v : Nat) : Bool :=
  match base with
  | 0x70100 => [1, 5].contains (bits v 4 4)
  | 0xA0028 => [7, 9].contains (bits v 0 4)
  | 0xC0008 => [1, 2].contains (bits v 0 2)
  | 0xC0020 => [1, 4, 8].contains (bits v 0 4)
  | 0xC1008 => bit v 0
  | _ => false

/-- A write at a PF offset that is such a command. -/
def needsRow (a size : Nat) (v : W64) : Bool :=
  match regFind (a / 8 * 8) with
  | some (r, _) => ownCommand r.off (laneValue a size v).toNat
  | none => false

/-- REGISTER_WRITE: a write that is not one of the commands of `ownCommand`. -/
def execRegisterWrite (src : Src) (off : Nat) (size : Nat) (val : W64) (s : State) : Result :=
  match s.writeOff src off with
  | none => s.act (regAccessOk off size) (fun s => s.access src off size val (fun s => s))
  | some a => s.act (regAccessOk off size && !needsRow a size val) (fun s => s.access src off size val (fun s => s.regWrite a size val))

/-- UNSUPPORTED_ACCESS: an Unsupported Request to the function that made it; nothing changes (R5, R382). -/
def execUnsupportedAccess (src : Src) (off size : Nat) (write : Bool) (s : State) : Result :=
  s.act (!regAccessOk off size) (fun s =>
    match src, write with
    | .fn f, _ => if s.reaches (.fn f) then s.emit (.unsupported f) else s
    | _, _ => s)

/-- MEAS_CFG_WRITE (R277). -/
def execMeasCfgWrite (src : Src) (val : W64) (s : State) : Result :=
  .next (s.access src (PART_MEAS_CFG_window.addr 0) 8 val (fun s => s.measCfg val.toNat))

end Sys2Proof.Machine
end

