-- ==== Sys2Proof/Machine/Forward.lean ====
section
/-! DEFINITION. The end of a wake, with the accesses held for it, and the management cells of forwarding
(R301, R337, R374). -/

namespace Sys2Proof.Machine

open Sys2Proof

/-! ### The end of a wake (R337, R374) -/

/-- The answer to an access of the attached device: the value read or written, none for an access that a register does not
take (R5, R301). -/
def State.answerMgmt (s : State) (h : HeldAccess) : State :=
  match h.port with
  | none => s
  | some j => s.sendMgmt j (.answer (if regAccessOk h.off 8 then (match h.write with
      | some w => some w.2
      | none => s.readBy h.src h.off 8) else none))

/-- What a served access does: a write acts, with a command that has a row of its own left to that row, and the attached
device has its answer. -/
def State.serveHeld (s : State) (h : HeldAccess) : State :=
  (match h.write, s.writeOff h.src h.off with
    | some (size, v), some a => if needsRow a size v then s else s.access h.src h.off size v (fun s => s.regWrite a size v)
    | _, _ => s).answerMgmt h

/-- WAKE_COMPLETE: the package is AWAKE, and the held accesses are served in the order they came. -/
def State.wakeComplete (s : State) (badPress badStack : List Nat) : State :=
  if s.rd PWR_STATUS_state 0 = 1 ∧ s.boot.phase = .running then
    let s := s.awake badPress badStack
    let waiting := s.heldAccess
    { s with heldAccess := [] }.each waiting State.serveHeld
  else s

def execWakeComplete (badPress badStack : List Nat) (s : State) : Result :=
  s.act (badPress.all (fun l => decide (l < 6)) && badStack.all (fun k => decide (k < 8))) (fun s => s.wakeComplete badPress badStack)

/-! ### MGMT cells (R219, R301, R302; log 63) -/

/-- The answer to the remote access in progress: the data of a read, or an Unsupported Request. -/
def State.rmtAnswer (s : State) (r : Rmt) (v : Option W64) : State :=
  match v with
  | some x => (if r.write then s else s.wr HIF_RMT_DATA_data 0 x.toNat).rmtEnd 0
  | none => s.rmtEnd 3

/-- An access of the attached device to a register of this part, as of the PF: served and answered, or held for the wake
(R301, R374). -/
def State.mgmtAccess (s : State) (j : Nat) (a : Nat) (w : Option (Nat × W64)) : State :=
  let h : HeldAccess := { src := .core, off := a, write := w, port := some j }
  if !s.reaches .core then s
  else if regAccessOk a 8 ∧ s.serve .core a = .held then { s with heldAccess := s.heldAccess ++ [h] }
  else if regAccessOk a 8 then s.serveHeld h else s.answerMgmt h

/-- Cells for another device go one hop on, unchanged, over a port that may send them; which one is the path's. -/
def State.mgmtRelay (s : State) (j : Nat) (cs : List LCell) : State :=
  let js := (upto 16).filter (fun i => i != j && decide (4 ≤ s.portState i) && decide (s.portState i ≤ 7))
  match js[s.freeVal % js.length]? with
  | some i => s.drawn.each cs (fun s c => s.egress i c)
  | none => s

/-- What a message does: an access to a register is served and answered, an entry of a ring of this part is stamped and handled as
one it has read, and the attached device writes the records and statuses of a remote one to the host (R301). -/
def State.mgmtMsg (s : State) (j : Nat) (m : MgmtMsg) : State :=
  match m with
  | .more => s
  | .other => s
  | .read off => s.mgmtAccess j off none
  | .write off v => s.mgmtAccess j off (some (8, v))
  | .answer v =>
    (match s.rmt with
      | some r => if s.fwdPort r.dev = j then s.rmtAnswer r v else s
      | none => s)
  | .entry fn ring bytes prompt => s.manage (s.bound.get fn) (fun s => s.entry fn ring ⟨fn, ring, bytes, prompt, 0⟩)
  | .record k addr bytes => (s.emit (.hostWrite addr bytes [])).fire 0 (64 + k % 64)
  | .status addr bytes => s.emit (.hostWrite addr bytes [])

/-- MGMT_CELL: it joins the cells of its port, which are relayed or acted on once they say all of their message (R301). -/
def State.mgmtCell (s : State) (j : Nat) (c : LCell) : State :=
  let q := s.accept j c 3
  let s := q.1
  if q.2 then
    let cs := (s.port j).mgmt ++ [c]
    match Config.mgmtMsg cs with
    | .more => s.updPort j (fun p => { p with mgmt := cs })
    | .other => (s.updPort j (fun p => { p with mgmt := [] })).mgmtRelay j cs
    | m => (s.updPort j (fun p => { p with mgmt := [] })).mgmtMsg j m
  else s

def execMgmtCell (j : Fin 16) (c : LCell) (s : State) : Result := .next (s.mgmtCell j c)

end Sys2Proof.Machine
end

