-- ==== Sys2Proof/Machine/Boot.lean ====
section
/-! DEFINITION. The resets and the boot sequence (R308, R309, R318, R328, R348 to R362, R388). -/

namespace Sys2Proof.Machine

open Sys2Proof

/-! ### What a reset keeps (R348 to R350) -/

/-- Before a reset with the AON powered takes hold, every FORMING or OPEN group withdraws with cause RESET, and what the
ports can still send leaves (R349). -/
def State.farewell (s : State) : State :=
  if s.boot.phase = .running ∨ s.boot.phase = .recovery then
    let s := s.each (upto 16) (fun s p => s.withdrawAll p wRESET)
    s.each (upto 16) (fun s j => s.each (upto ((s.port j).egress.length / 7 + 1)) (fun s _ =>
      if (s.port j).egress.isEmpty then s else s.transmit j))
  else s

/-- A cold reset: all but the queue, what has left the part, and the flash and fuses is as in `State.reset`. A lost
reference stays lost. -/
def State.coldClear (s : State) : State :=
  { State.reset with
    pending := s.pending
    out := s.out
    free := s.free
    aon := { refLost := s.aon.refLost, slewPpm := if s.aon.refLost then s.aon.slewPpm else 0 }
    boot := { fuses := s.boot.fuses, copyA := s.boot.copyA, copyB := s.boot.copyB, chain := s.boot.chain,
              endorsement := s.boot.endorsement, list := s.boot.list } }

/-- The registers that a warm reset keeps whole: frame counters, the fault log's, RWS fields, counters that only a cold
reset clears, spares. -/
def keptReg (a : Nat) : Bool :=
  let range (lo n : Nat) : Bool := decide (lo ≤ a) && decide (a < lo + 8 * n)
  range 0x10000 2 || range 0x120 4 || range 0x20008 4 || range 0x30100 1 || range 0x40100 8 || range 0x50000 1 ||
    range 0xA0000 3 || range 0xA0180 4 || range 0xB0030 2 || (familyIndex 0x51040 16 256 8 a).isSome

/-- The fields that a warm reset keeps in registers it clears: what is retained of time, power, stack links and boot. -/
def keptFields : List (Fld × Nat) :=
  [(LRT_TIME_STATUS_stepped, 0), (PWR_STATUS_hardTrip, 0), (BOOT_STATUS_badA, 0), (BOOT_STATUS_badB, 0)] ++
    (upto 8).map (fun k => (STK_LINK_STATUS_corrected, k))

/-- A quarter after a warm reset: only a retirement stays. -/
def Quarter.warm (x : Quarter) : Quarter := if x.svc = .retired then { svc := .retired } else {}

/-- A warm reset: the stacks with their region table, row remaps and spares, and the AON's retained state stay; buffered
and held stack writes land first. The measurement starts anew with the first whole window (log 79). -/
def State.warmClear (s : State) : State :=
  let s := s.drainAll
  let s := s.each s.held State.landHeld
  let r := State.reset
  let w := (s.dt + 99999) / 100000
  let t : State :=
    { r with
      pending := s.pending
      out := s.out
      free := s.free
      regs := s.regs.keep keptReg
      aon :=
        { s.aon with
          slewPpm := if s.aon.refLost then s.aon.slewPpm else 0
          idleSince := s.dt }
      quarters := (s.quarters.map (fun (e : Nat × Quarter) => (e.1, e.2.warm))).filter (fun (e : Nat × Quarter) => decide (e.2 ≠ {}))
      dieFence := s.dieFence
      stk := s.stk
      stkCode := s.stkCode
      regions := s.regions
      rowMap := s.rowMap
      badBanks := s.badBanks
      badSpares := s.badSpares
      log := s.log
      measStart := w * 100000
      measEnd := (w + 1) * 100000
      boot :=
        { fuses := s.boot.fuses
          copyA := s.boot.copyA
          copyB := s.boot.copyB
          chain := s.boot.chain
          endorsement := s.boot.endorsement
          list := s.boot.list } }
  let t := t.each keptFields (fun t e => t.wr e.1 e.2 (s.rd e.1 e.2))
  t.wr BOOT_STATUS_warmResets 0 (Nat.min (2 ^ 32 - 1) (s.rd BOOT_STATUS_warmResets 0 + 1))

/-! ### Choosing a copy (R357, R358) -/

/-- A copy slot as read. -/
def State.copyAt (s : State) (slot : Nat) : Option ImageCopy := if slot = 0 then s.boot.copyA else s.boot.copyB

/-- IMAGE_A or IMAGE_B with a detail. -/
def State.imageFault (s : State) (slot detail : Nat) : State := s.logEvent (0x0C01 + slot) none false .none detail

/-- The detail of checks 1 to 7 of a slot; an unreadable one has no magic. -/
def State.headAt (s : State) (slot : Nat) : Nat := ((s.copyAt slot).map s.boot.fuses.headCause).getD 1

/-- A slot may be chosen: its header passes and it is not marked bad. -/
def State.slotOk (s : State) (slot : Nat) : Bool :=
  s.headAt slot == 0 && !(if slot = 0 then s.on BOOT_STATUS_badA 0 else s.on BOOT_STATUS_badB 0)

/-- The slots to try in order: the higher sequence first, A on a tie. -/
def State.slotOrder (s : State) : List Nat :=
  let seq (k : Nat) : Nat := ((s.copyAt k).map ImageCopy.sequence).getD 0
  (if seq 0 < seq 1 then [1, 0] else [0, 1]).filter s.slotOk

/-- The first of the slots whose body passes, with the faults of those that do not. -/
def State.pickSlot (s : State) : List Nat → State × Option Nat
  | [] => (s, none)
  | k :: t =>
    let bad := ((s.copyAt k).map bodyCause).getD 8
    if bad = 0 then (s, some k) else (s.imageFault k bad).pickSlot t

/-! ### Self-test and links (R12, R308, R309) -/

/-- A quarter with a bad checker is FENCED. -/
def State.testFence (s : State) (q : Nat) (l : Loc) : State := (s.logEvent 0x0C03 none false l 0).fenceNow q none

/-- A unit with a bad checker, by its code of R131: the die's spare takes its place, or its quarter is FENCED. -/
def State.testUnit (s : State) (u : Nat) : State :=
  let burin := decide (0x80 ≤ u)
  let q := if burin then (u - 0x80) / 8 else u / 4
  let k := if burin then (u - 0x80) % 8 else u % 4
  match s.placeSpare q burin k with
  | some s' => (s'.logEvent 0x0C03 none false (.unit u) 0).logEvent 0x0D03 none false (.unit u) 0
  | none => s.testFence q (.unit u)

/-- The Leruth end-to-end checker of a die. -/
def State.testE2e (s : State) (d : Nat) : State :=
  { s with boot := { s.boot with e2eBad := s.boot.e2eBad ||| 2 ^ d } }.logEvent 0x0C03 none false (.port (4 * d)) 0

/-- What the self-test and the training of the compute-plane links lead to; a stack's link that trained says so. -/
def State.selfTest (s : State) (f : BootFindings) : State :=
  let s := s.each f.badUnits State.testUnit
  let s := s.each f.badVatQuarters (fun s q => s.testFence q (.vat (q * 2 ^ 26)))
  let s := s.each f.badHalves (fun s h => s.testFence h (.stack (h * 2 ^ 35)))
  let s := s.each f.badE2eDies State.testE2e
  let s := s.each f.badPressLinks State.pressLinkBad
  s.each (upto 8) (fun s k =>
    let t := s.trainLanes f.badLanes k
    let ok := t.2 && !f.badStackLinks.contains k
    (if ok then t.1 else t.1.stackLinkBad k).wr STK_LINK_STATUS_trained k (b2n ok))

/-! ### The retirement list and the configuration records (R318, R355, R356) -/

/-- A die fenced by FENCE_DIE: off, its quarters FENCED. -/
def State.dieFenced (s : State) (d : Nat) : State :=
  (s.dieOff d).each ((upto 4).map (4 * d + ·)) (fun s q => s.setQ q (fun x => if x.svc = .none then { x with svc := .fenced } else x))

/-- A unit already stands on a spare of its die. -/
def State.onSpare (s : State) (q : Nat) (burin : Bool) (unit : Nat) : Bool :=
  let d := q / 4
  if burin then
    (s.on INT_SPARE_burin0Used d && s.rd INT_SPARE_burin0For d == 8 * (q % 4) + unit) ||
      (s.on INT_SPARE_burin1Used d && s.rd INT_SPARE_burin1For d == 8 * (q % 4) + unit)
  else s.on INT_SPARE_pressUsed d && s.rd INT_SPARE_pressFor d == 4 * (q % 4) + unit

/-- A record of the list is reapplied; one whose CRC fails is skipped. -/
def State.reapply (s : State) (r : RetRecord) : State :=
  let q := bits r.cmd 4 4
  let half := bits r.cmd 16 4
  let bank := bits r.cmd 34 9
  if !r.good then s
  else match r.op with
    | 4 =>
      let burin := bit r.cmd 12
      let unit := bits r.cmd 13 3
      if s.onSpare q burin unit then s else (s.placeSpare q burin unit).getD s
    | 5 =>
      (match bits r.cmd 10 2 with
        | 0 =>
          let e := (half, bank, bits r.arg 0 15)
          if s.rowMap.contains e then s else { s with rowMap := s.rowMap ++ [e] }
        | 1 => s.retirePage half (bits r.cmd 20 14)
        | 2 => s.retireBank q bank
        | _ => s.retireHalf q)
    | 6 => s.dieFenced (bits r.cmd 8 2)
    | _ => s

/-- The registers that a configuration record may name. -/
def recordNames (a : Nat) : Bool :=
  match regFind a with
  | some (r, _) =>
    [0x70000, 0x70180, 0x70200, 0xB0000, 0xB0020, 0x50000, 0x51000, 0x50020, 0x20000, 0x40020, 0xA0018, 0x90008, 0x90110, 0x90118,
      0x90010, 0x60008].contains r.off
  | none => false

/-- The records of a copy, in order, as PF writes; others are skipped and the copy's fault is logged once. -/
def State.records (s : State) (slot : Nat) (rs : List (Nat × W64)) : State :=
  let s := s.each rs (fun s e => if recordNames e.1 ∧ ¬ s.regFenced e.1 then s.regWrite e.1 8 e.2 else s)
  if rs.all (fun e => recordNames e.1) then s else s.imageFault slot 10

/-! ### The boot (R360 to R362) -/

/-- Boot stops: no host sees the part. -/
def State.bootFailed (s : State) (code detail : Nat) : State :=
  { s with boot := { s.boot with phase := .failed } }.logEvent code none false .none detail

/-- The running copy is named. -/
def State.showCopy (s : State) (slot : Nat) (c : ImageCopy) : State :=
  let s := s.wrs 0 [(BOOT_STATUS_copy, slot), (DEV_FW_sequence, c.sequence), (DEV_FW_securityVersion, c.svn), (DEV_FW_copy, slot)]
  s.each (upto 8) (fun s n => s.wr BOOT_IMAGE_DIGEST_digest n (bits c.imageDigest.toNat (64 * n) 64))

/-- What the host link has trained to: free values within the manual's codes (log 77). -/
def State.linkUp (s : State) : State :=
  let v := s.freeVal
  s.drawn.wrs 0 [(HIF_LINK_STATUS_speed, 1 + v % 7), (HIF_LINK_STATUS_width, 2 ^ (v / 7 % 5)), (HIF_LINK_STATUS_flit, v / 35 % 2)]

/-- The identity: its fingerprint, and FUSE with detail 2 where the seed or the certificate is bad. -/
def State.identity (s : State) (bad : Bool) : State :=
  let s := s.wr BOOT_FINGERPRINT_fingerprint 0 ((sha3 (Config.identityKey s.boot.fuses.identitySeed)).toNat % 2 ^ 64)
  let s := s.wr BOOT_STATUS_identityOk 0 (b2n (!bad))
  if bad then s.logEvent 0x0C04 none false .none 2 else s

/-- Every function is bound to the partition that PART_BIND names (R264). -/
def State.bindAll (s : State) : State :=
  { s with bound := (upto 64).foldl (fun (m : NMap Nat) f => m.set f (bits (s.reg (PART_BIND_f.addr (f / 16))).toNat (4 * (f % 16)) 4)) [] }

/-- A compute or DRAM zone read at its shutdown threshold stops the boot once the firmware runs; the package is TRIPPED
(R371; log 79). -/
def State.bootTrip (s : State) (z : Nat) (r : Int) : State :=
  ({ s with boot := { s.boot with phase := .running } }.zoneReading z r).trip false

/-- The boot goes on with a copy: firmware, identity, self-test, links, lasers, the list, the records; then the part is
READY and AWAKE. -/
def State.bootWith (s : State) (slot : Nat) (c : ImageCopy) (f : BootFindings) : State :=
  let s := (s.showCopy slot c).identity f.identityBad
  match f.hot with
  | some e => s.bootTrip e.1 e.2
  | none =>
  if f.hubBad then s.bootFailed 0x0C03 0
  else
    let s := s.selfTest f
    let s := s.wr LRT_LASER_STATUS_mods 0 0x33333333
    let s := s.each (upto 4) (fun s d => if bit s.dieFence d then s.dieFenced d else s)
    let s := s.each s.boot.list State.reapply
    let s := ((s.records slot c.records).bindAll).linkUp
    let s := (s.wr BOOT_STATUS_state 0 1).wr PWR_STATUS_state 0 2
    { s with boot := { s.boot with phase := .running }, aon := { s.aon with idleSince := s.dt } }

/-- RECOVERY: the PF alone. -/
def State.recover (s : State) : State := { s.linkUp with boot := { s.boot with phase := .recovery } }.wr BOOT_STATUS_state 0 2

/-- The boot sequence from the release of reset. -/
def State.bootRun (s : State) (f : BootFindings) : State :=
  match f.fuseBad with
  | some w => s.bootFailed 0x0C04 (256 * (w % 256) + 1)
  | none =>
    let s := s.fuseStatus
    if s.boot.fuses.revoke % 4 = 3 then s.bootFailed 0x0C04 3
    else
      let s := s.each [0, 1] (fun s k => if s.headAt k = 0 then s else s.imageFault k (s.headAt k))
      let q := s.pickSlot s.slotOrder
      match q.2 with
      | none => q.1.recover
      | some k => (match q.1.copyAt k with
        | some c => q.1.bootWith k c f
        | none => q.1.recover)

/-- A boot starts once the reference is there; without it the part waits in reset (R388). -/
def State.bootNow (s : State) (f : BootFindings) : State :=
  if s.aon.refLost then { s with boot := { s.boot with phase := .refHeld } } else s.bootRun f

/-- Findings name what the part has. -/
def findingsOk (f : BootFindings) : Bool :=
  let all (l : List Nat) (n : Nat) : Bool := l.all (fun x => decide (x < n))
  lanesOk f.badLanes && all f.badPressLinks 6 && all f.badStackLinks 8 && all f.badVatQuarters 16 && all f.badHalves 16 && all f.badE2eDies 4 &&
    f.hot.all (fun e => decide (e.1 < 17) && zoneClass e.1 != 2 && decide (zoneShut (zoneClass e.1) ≤ e.2) && decide (e.2 < 32768)) &&
    f.badUnits.all (fun u => decide (u < 0x40) || (decide (0x80 ≤ u) && decide (u < 0x100)))

/-! ### The commands -/

/-- COLD_RESET: a rising rail, por_n, or BOOT_RESET_CMD op 2; groups withdraw where the AON was powered. -/
def State.coldReset (s : State) (f : BootFindings) : State :=
  ((if s.aon.powered then s.farewell else s).coldClear).bootNow f

def execColdReset (f : BootFindings) (s : State) : Result := s.act (findingsOk f) (fun s => s.coldReset f)

/-- WARM_RESET: rst_n, perst_n, BOOT_RESET_CMD op 1 or the start watchdog; without effect while the part is held in reset
or FAILED. -/
def State.warmReset (s : State) (f : BootFindings) : State :=
  if s.aon.powered ∧ (s.boot.phase = .running ∨ s.boot.phase = .recovery) then ((s.farewell).warmClear).bootNow f else s

def execWarmReset (f : BootFindings) (s : State) : Result := s.act (findingsOk f) (fun s => s.warmReset f)

/-- RESET_WARM_CMD. -/
def execResetWarmCmd (src : Src) (f : BootFindings) (s : State) : Result :=
  s.act (findingsOk f) (fun s => s.access src (BOOT_RESET_CMD_op.addr 0) 8 1 (fun s => s.warmReset f))

/-- RESET_COLD_CMD. -/
def execResetColdCmd (src : Src) (f : BootFindings) (s : State) : Result :=
  s.act (findingsOk f) (fun s => s.access src (BOOT_RESET_CMD_op.addr 0) 8 2 (fun s => s.coldReset f))

/-- START_WATCHDOG: the copy whose firmware did not report itself alive is marked bad, and a warm reset follows (R359;
log 79). -/
def State.startWatchdog (s : State) (f : BootFindings) : State :=
  if s.boot.phase = .running then
    let k := s.rd BOOT_STATUS_copy 0
    let s := if k = 0 then s.wr BOOT_STATUS_badA 0 1 else s.wr BOOT_STATUS_badB 0 1
    (s.imageFault k 11).warmReset f
  else s

def execStartWatchdog (f : BootFindings) (s : State) : Result := s.act (findingsOk f) (fun s => s.startWatchdog f)

/-- RESET_RELEASE: a part held in reset boots (R360). -/
def execResetRelease (f : BootFindings) (s : State) : Result :=
  s.act (findingsOk f) (fun s =>
    if s.aon.powered ∧ s.boot.phase = .held ∧ ¬ s.aon.refLost then s.bootRun f else s)

/-- REFCLK_RESTORED: a part that waits in reset boots under a cold reset; one in service may leave TRIPPED (R345,
R388). -/
def State.refRestored (s : State) (f : BootFindings) : State :=
  if s.aon.refLost then
    let s := { s with aon := { s.aon with refLost := false, slewPpm := 0 } }
    if s.boot.phase = .refHeld ∧ s.aon.powered then s.coldClear.bootRun f else s.leaveTripped
  else s

def execRefclkRestored (f : BootFindings) (s : State) : Result := s.act (findingsOk f) (fun s => s.refRestored f)

/-- The AON loses power; the next power-up is a cold reset (R328). -/
def State.powerLoss (s : State) : State :=
  let s := s.coldClear
  { s with aon := { s.aon with powered := false } }

/-- POWER_LOSS. -/
def execPowerLoss (s : State) : Result := .next s.powerLoss

/-- SUPPLY_READING, in units of 10 mV: below 30 V the AON loses power (R328). -/
def execSupplyReading (volts amps watts : Nat) (s : State) : Result :=
  s.act (decide (volts < 65536) && decide (amps < 65536) && decide (watts < 65536)) (fun s =>
    if s.aon.powered ∧ volts < 3000 then s.powerLoss else s.supplyReading volts amps watts)

end Sys2Proof.Machine
end

