-- ==== Sys2Proof/Machine/HostDma.lean ====
section
/-! DEFINITION. The host DMA engines: transfers between a host image and a local tensor, and their status
(R296, R297, R312). -/

namespace Sys2Proof.Machine

open Sys2Proof

/-! ### The body (R296) -/

def dmaDesc (b : List Byte) : List W64 := (upto 16).map (fun i => BitVec.ofNat 64 (leAt b (8 * i) 8))
def dmaHostAddr (b : List Byte) : Nat := leAt b 0x80 8
def dmaStatusAddr (b : List Byte) : Nat := leAt b 0x88 8
def dmaFlags (b : List Byte) : Nat := leAt b 0x90 4
def dmaDir (b : List Byte) : Nat := bits (dmaFlags b) 0 2
def dmaPhysical (b : List Byte) : Bool := bit (dmaFlags b) 2
def dmaReady (b : List Byte) : Bool := bit (dmaFlags b) 3
def dmaIrq (b : List Byte) : Bool := bit (dmaFlags b) 4
def dmaReserved (b : List Byte) : Nat := leAt b 0x94 4
def dmaLength (b : List Byte) : Nat := leAt b 0x98 8

/-! ### The image (R33, R105, R296) -/

/-- A piece of the image: offset of its local word in the unit, first byte in the image, bytes. -/
structure DmaPiece where
  off : Nat
  img : Nat
  n : Nat
  deriving DecidableEq, Repr, Inhabited

/-- Bytes of a row of the host image, and of its scales. -/
def imgRow (t : TDesc) : Nat := ceilDiv (t.ext 0 * t.width) 8
def imgScales (t : TDesc) : Nat := ceilDiv (t.ext 0) 32

/-- Bytes of the host image. -/
def imgSize (t : TDesc) : Nat := t.nRows * imgRow t + (if t.mx then t.nRows * imgScales t else 0)

/-- A run of bytes as pieces. -/
def pieceRun (off img n : Nat) : List DmaPiece :=
  (upto (ceilDiv n 32)).map (fun i => ⟨off + 32 * i, img + 32 * i, Nat.min 32 (n - 32 * i)⟩)

/-- The pieces of a tensor, in image order. -/
def imgPieces (t : TDesc) : List DmaPiece :=
  (upto t.nRows).flatMap (fun r => pieceRun (t.rowByte (rowIdx t r)) (r * imgRow t) (imgRow t)) ++
    (if t.mx then (upto t.nRows).flatMap (fun r =>
      pieceRun (t.scaleOff + r * t.scaleRow) (t.nRows * imgRow t + r * imgScales t) (imgScales t)) else [])

/-- Where a tensor lies: its physical quarter or half. -/
def dmaAddr (t : TDesc) (q : Nat) (d : DmaPiece) : Nat :=
  if t.space = 0 then vatPlace q d.off t.shift t.mask else q * 2 ^ 35 + d.off

/-- The host words that a piece takes part in. -/
def pieceHostWords (d : DmaPiece) : List Nat := (upto ((d.img + d.n - 1) / 32 + 1)).filter (fun w => decide (d.img / 32 ≤ w))

/-- A piece's data and poison as the host sent them and the hub link delivered them. -/
def pieceData (h : HostData) (d : DmaPiece) : W256 × Bool :=
  (BitVec.ofNat 256 (leAt h.bytes d.img d.n), (pieceHostWords d).any (fun w => h.poisoned.contains w || h.hub.contains w))

/-- The host reads of a piece came back. -/
def pieceRead (h : HostData) (d : DmaPiece) : Bool :=
  match h.failAfter with
  | some n => decide (d.img + d.n ≤ 32 * n)
  | none => true

/-- Write one piece: whole, or its bytes merged into the word (R100, R148, R154). A poisoned piece poisons its word. -/
def State.dmaPut (s : State) (t : TDesc) (q : Nat) (d : DmaPiece) (x : W256 × Bool) : State :=
  let a := dmaAddr t q d
  let mask := 2 ^ d.n - 1
  if t.space = 0 then s.vatMerge ⟨a, mask, x.1⟩ x.2
  else if x.2 then s.svcWrite a (mergeBytes (s.svcRead a).1 x.1 mask) true fullMask
  else s.svcWrite a x.1 false mask

/-! ### Open fill (R149, R296, R312) -/

/-- The check row a stack word lies in, as bank, pail and row, where its region is open. -/
def State.checkRow (s : State) (half a : Nat) : Option (Nat × Nat × Nat) :=
  let g := s.region half (stkRegion a)
  if s.kindOf half (stkRegion a) = 2 ∧ g.rowOk ∧ stkWordNo a / g.rowLen < 512 / g.rowLen then
    some (stkBank a, stkPail a, stkWordNo a / g.rowLen)
  else none

/-- The words of an open fill are whole words that make up whole check rows. -/
def State.fillOk (s : State) (t : TDesc) (half : Nat) (ps : List DmaPiece) : Bool :=
  let as := ps.map (dmaAddr t half)
  t.space == 1 && ps.all (fun d => d.n == 32) &&
    as.all (fun a => match s.checkRow half a with
      | some (b, p, r) => (rowWords half b p r (s.region half (stkRegion a)).rowLen).all as.contains
      | none => false)

/-- Write the check rows whose every word has come, with their sums. -/
def State.fillRows (s : State) (t : TDesc) (half : Nat) (ps : List DmaPiece) (h : HostData) : State :=
  let rows := ((ps.filterMap (fun d => (s.checkRow half (dmaAddr t half d)).map (fun r => (r, stkRegion (dmaAddr t half d)))))).dedup
  s.each rows (fun s e =>
    let g := s.region half e.2
    let ws := (rowWords half e.1.1 e.1.2.1 e.1.2.2 g.rowLen).map (fun a => ps.find? (fun d => dmaAddr t half d == a))
    if ws.all (fun d => d.any (pieceRead h)) then
      s.putRow half e.1.1 e.1.2.1 e.1.2.2 g (ws.map (fun d => (d.map (pieceData h)).getD (0, false)))
    else s)

/-! ### Transfers (R297) -/

/-- The physical quarter or half of a transfer's tensor. -/
def State.dmaUnit (s : State) (p : Nat) (physical : Bool) (t : TDesc) : Nat :=
  if physical then t.unit else (s.phys p t.unit).getD 16

/-- The units that a transfer may name: those its partition holds, or of the PF any physical one; a quarter that is OFF has
no Vat, and an unreachable half no memory (log 61). -/
def State.dmaWithin (s : State) (p : Nat) (physical : Bool) (space u : Nat) : Bool :=
  match (if physical then some u else s.phys p u) with
  | none => false
  | some q => decide (q < 16) && (physical || bit (s.rd PART_STATUS_held p) q) &&
      (if space = 0 then (s.q q).power == .on else s.halfUp q)

/-- The fault code and the descriptor cause with which a transfer ends before it moves anything, 0 where it may run. DESIGN CHOICE
(log 96): a transfer into a tensor through a read-only descriptor, by which no unit writes (R101), is a host DMA fault. -/
def State.dmaCause (s : State) (d : DmaReq) (h : HostData) : Nat × Nat :=
  let b := d.body
  let t := TDesc.ofWords (dmaDesc b)
  let p := s.bound.get d.fn
  let c := descCause (dmaDesc b) (s.dmaWithin p (dmaPhysical b) t.space)
  if (dmaPhysical b ∧ d.fn ≠ 0) ∨ dmaDir b = 3 ∨ dmaFlags b / 32 ≠ 0 ∨ dmaReserved b ≠ 0 then (0x0A04, 0)
  else if c ≠ 0 then (0x0400 + c, c)
  else if dmaLength b ≠ imgSize t ∨ (dmaDir b ≠ 1 ∧ t.ro) then (0x0A04, 0)
  else if dmaDir b = 2 ∧ ¬ s.fillOk t (s.dmaUnit p (dmaPhysical b) t) (imgPieces t) then (0x0A04, 0)
  else if dmaDir b ≠ 1 ∧ h.bytes.length < dmaLength b ∧ h.failAfter = none then (0x0A04, 0)
  else (0, 0)

/-- The 16 bytes of a status. -/
def statusBytes (tag code cause : Nat) : List Byte := leBytes 8 tag ++ leBytes 2 code ++ leBytes 1 cause ++ [1] ++ leBytes 4 0

/-- The status is written and vector 2 fires where asked. -/
def State.dmaStatus (s : State) (d : DmaReq) (code cause : Nat) : State :=
  if dmaStatusAddr d.body = 0 then s
  else
    let s := s.emit (.hostWrite (dmaStatusAddr d.body) (statusBytes d.tag code cause) [])
    if dmaIrq d.body then s.fire d.fn 2 else s

/-- Host to device: the pieces whose reads came back, in image order. -/
def State.dmaIn (s : State) (t : TDesc) (q : Nat) (h : HostData) (open_ : Bool) : State :=
  let ps := imgPieces t
  if open_ then s.fillRows t q ps h
  else
    let s := s.each (ps.filter (pieceRead h)) (fun s d => s.dmaPut t q d (pieceData h d))
    s.edgeUse 2 (if t.space = 0 then ((ps.filter (pieceRead h)).map (fun d => if d.n = 32 then 1 else 2)).sum else 0)

/-- Device to host: the image, its host words that carry a poisoned source word marked. -/
def State.dmaOut (s : State) (d : DmaReq) (t : TDesc) (q : Nat) (h : HostData) : State :=
  let ps := imgPieces t
  let late (x : DmaPiece) : Bool := (pieceHostWords x).any h.hub.contains
  let look (x : DmaPiece) : W256 × Bool :=
    if t.space = 0 then ((s.vatEcc (dmaAddr t q x)).data, (s.vatEcc (dmaAddr t q x)).poison) else s.svcRead (dmaAddr t q x)
  let rs := ps.map (fun x => (x, (look x).1, (look x).2 || late x))
  let s := s.each ps (fun s x => if t.space = 0 then s.vatLog (dmaAddr t q x) false else s.stkReadLog (dmaAddr t q x))
  let s := s.edgeUse 2 (if t.space = 0 then ps.length else 0)
  s.emit (.hostWrite (dmaHostAddr d.body) (rs.flatMap (fun e => (leBytes 32 e.2.1.toNat).take e.1.n))
    ((rs.flatMap (fun e => if e.2.2 then pieceHostWords e.1 else [])).dedup))

/-- The transfer of an entry. -/
def State.dmaRun (s : State) (d : DmaReq) (h : HostData) : State :=
  let b := d.body
  let p := s.bound.get d.fn
  let t := TDesc.ofWords (dmaDesc b)
  let q := s.dmaUnit p (dmaPhysical b) t
  let c := s.dmaCause d h
  if c.1 ≠ 0 then (s.logEvent c.1 (some p) false (.fn d.fn) 0).dmaStatus d c.1 c.2
  else
  let s := s.hubLog (some p) (h.hub.map (fun _ => q / 4))
  if dmaDir b = 1 then (s.dmaOut d t q h).dmaStatus d 0 0
  else
    let s := s.dmaIn t q h (dmaDir b == 2)
    let s := if h.poisoned.isEmpty then s else s.logEvent 0x0A05 (some p) false (.fn d.fn) 0
    match h.failAfter with
    | some _ => (s.logEvent 0x0A04 (some p) false (.fn d.fn) 0).dmaStatus d 0x0A04 0
    | none =>
      let s := s.dmaStatus d 0 0
      if dmaReady b then s.updPart p (fun x => { x with hostData := x.hostData + 1 }) else s

/-- HOST_DMA_TRANSFER: the oldest entry queued to an engine runs. A quarantined engine is refused by the crossbar and runs
nothing (R282; log 56), and a transfer with the Vat waits while no edge slot can carry it (R98; log 57). -/
def State.hostDma (s : State) (e : Nat) (h : HostData) : State :=
  if !s.scans ∨ bit (s.rd SVC_QUAR_quarantined 0) (8 + e) then s
  else match s.dmaQ.get e with
    | [] => s
    | d :: t =>
      if (TDesc.ofWords (dmaDesc d.body)).space = 0 ∧ ¬ s.edgeOpen 2 then s else { s with dmaQ := s.dmaQ.set e t }.dmaRun d h

def execHostDmaTransfer (engine : Fin 4) (host : HostData) (s : State) : Result := .next (s.settle.hostDma engine host)

end Sys2Proof.Machine
end

