-- ==== Sys2Proof/Machine/Mgmt.lean ====
section
/-! DEFINITION. Configuration requests, and management over MCTP: control, platform monitoring, SPDM
(R286, R298, R300, R361, R362, R370). -/

namespace Sys2Proof.Machine

open Sys2Proof

/-! ### Configuration requests (R286, R361; log 23) -/

/-- MSI-X messages held back by a mask leave when the function is unmasked (R298). -/
def State.unmask (s : State) (fn : Nat) : State :=
  let due := s.msixPend.filter (fun v => v / 128 == fn)
  let s := { s with masked := s.masked.filter (· != fn), msixPend := s.msixPend.filter (fun v => v / 128 != fn) }
  s.each due (fun s v => s.emit (.msix fn (v % 128)))

/-- A write of a configuration register: stored, with the controls that the part acts on: VF Enable and NumVFs of SR-IOV,
and the function mask of MSI-X. -/
def State.configWrite (s : State) (fn reg : Nat) (v : W32) : State :=
  let s := { s with cfgSpace := mset (Config.configDefault fn reg) s.cfgSpace (fn * 1024 + reg) v }
  let s := if fn = 0 ∧ reg = Config.sriovControl then { s with vfEnable := bit v.toNat 0 } else s
  let s := if fn = 0 ∧ reg = Config.sriovNumVfs then { s with numVfs := Nat.min 63 (bits v.toNat 0 16) } else s
  if reg = Config.msixControl then
    (if bit v.toNat 30 then { s with masked := s.masked.filter (· != fn) ++ [fn] } else s.unmask fn)
  else s

/-- A configuration request: no answer in FAILED, retry status until the part is ready and, asleep, until it is awake
(R337); Unsupported Request for a function that does not exist. -/
def State.config (s : State) (fn : Nat) (write : Bool) (reg : Nat) (v : W32) : State :=
  match s.boot.phase with
  | .failed => s
  | .held | .refHeld => s.emit (.config fn true 0)
  | .running | .recovery =>
    if s.boot.phase = .running ∧ s.rd PWR_STATUS_state 0 ≤ 1 then s.emit (.config fn true 0)
    else if !s.fnEnabled fn then s.emit (.unsupported fn)
    else if write then (s.configWrite fn reg v).emit (.config fn false 0)
    else s.emit (.config fn false (mget (Config.configDefault fn reg) s.cfgSpace (fn * 1024 + reg)))

/-- CONFIG_REQUEST. -/
def execConfigRequest (fn : Fin 64) (write : Bool) (reg : Nat) (val : W32) (s : State) : Result :=
  s.act (decide (reg < 1024)) (fun s => (s.config fn write reg val).pcieWake)

/-! ### MCTP (R300, R360, R362; log 65) -/

/-- The management firmware runs and its crossbar input takes requests. -/
def State.mgmtRuns (s : State) : Bool := s.aon.powered && s.boot.phase == .running && !bit (s.rd SVC_QUAR_quarantined 0) 2

/-- A control message is answered on I3C from the reading of the fuses on, in RECOVERY and FAILED too; on PCIe VDM when the
link is up. -/
def State.controlServed (s : State) (i3c : Bool) : Bool :=
  s.aon.powered && (s.mgmtRuns || s.boot.phase == .recovery || (i3c && s.boot.phase == .failed))

/-- A message on I3C is a wake event where it is enabled (R337). -/
def State.mctpWake (s : State) (i3c : Bool) : State := if i3c ∧ bit (s.rd PWR_WAKE_CFG_src 0) 1 then s.startWake else s

/-- MCTP_CONTROL. -/
def execMctpControl (i3c : Bool) (msg : List Byte) (s : State) : Result :=
  s.act (decide (msg.length ≤ 64)) (fun s =>
    if s.controlServed i3c then
      (s.emit (.mctp i3c (Config.mctpEncode (leBytes 8 (s.reg (BOOT_STATUS_state.addr 0)).toNat ++ msg)))).mctpWake i3c
    else s)

/-- What a sensor reads: a zone's temperature by its number, the package's at 17, the package power at 18. -/
def State.sensor (s : State) (n : Nat) : Nat :=
  if n < 17 then s.rd PWR_ZONE_temp n else if n = 17 then s.rd PWR_PKG_TEMP_temp 0 else s.rd PWR_INPUT_watts 0

/-- PLDM_REQUEST. -/
def execPldmRequest (i3c : Bool) (sensor : Nat) (s : State) : Result :=
  s.act (decide (sensor < 19)) (fun s =>
    if s.mgmtRuns then (s.emit (.mctp i3c (Config.mctpEncode (leBytes 2 sensor ++ leBytes 2 (s.sensor sensor))))).mctpWake i3c else s)

/-! ### SPDM (R366, R367, R370) -/

/-- An SPDM request is answered by the management firmware. -/
def State.spdm (s : State) (i3c : Bool) (code : Nat) (content : List Byte) : State :=
  if s.mgmtRuns then (s.emit (.mctp i3c (Config.spdmEncode code content))).mctpWake i3c else s

/-- GET_VERSION: version 1.3. -/
def execGetVersion (i3c : Bool) (s : State) : Result := .next (s.spdm i3c 0x84 [0x13])

/-- GET_CAPABILITIES. -/
def execGetCapabilities (i3c : Bool) (s : State) : Result := .next (s.spdm i3c 0xE1 [])

/-- NEGOTIATE_ALGORITHMS: of what is offered, ML-DSA-87 and SHA3-512 only; numbered 1 and 2 in an operand (log 65). -/
def execNegotiateAlgorithms (i3c : Bool) (offered : List Nat) (s : State) : Result :=
  .next (s.spdm i3c 0xE3 ((offered.filter (fun a => a == 1 || a == 2)).flatMap (leBytes 1)))

/-- The digest of the certificate chain. -/
def State.chainDigest (s : State) : W512 := sha3 s.boot.chain

/-- GET_DIGESTS. -/
def execGetDigests (i3c : Bool) (s : State) : Result := .next (s.spdm i3c 0x81 (leBytes 64 s.chainDigest.toNat))

/-- GET_CERTIFICATE. -/
def execGetCertificate (i3c : Bool) (offset length : Nat) (s : State) : Result :=
  .next (s.spdm i3c 0x82 ((s.boot.chain.drop offset).take length))

/-- An SPDM answer that the identity key signs; an error answer without an identity (R362). -/
def State.spdmSigned (s : State) (i3c : Bool) (code : Nat) (content : List Byte) : State :=
  if s.on BOOT_STATUS_identityOk 0 then s.spdm i3c code content else s.spdm i3c 0x7F []

/-- CHALLENGE: signed by the identity key in its SPDM context. -/
def State.challenge (s : State) (i3c : Bool) (nonce : W256) : State :=
  let m := leBytes 64 s.chainDigest.toNat ++ leBytes 32 nonce.toNat
  s.spdmSigned i3c 0x83 (m ++ Config.sign s.boot.fuses.identitySeed 2 (sha3 (Config.spdmEncode 0x83 m)))

def execChallenge (i3c : Bool) (nonce : W256) (s : State) : Result := .next (s.challenge i3c nonce)

/-- GET_MEASUREMENTS: a report of function 0xFF over the requester's nonce. -/
def execGetMeasurements (i3c : Bool) (nonce : W256) (s : State) : Result := .next (s.spdmSigned i3c 0xE0 (s.report 0xFF nonce))

end Sys2Proof.Machine
end

