-- ==== Sys2Proof/Machine/Proof.lean ====
section
/-! DEFINITION. Proofs in GF(2^64) (R88 to R90), and the post of a notice, which a proof precedes. -/

namespace Sys2Proof.Machine

open Sys2Proof

/-- Product in GF(2^64) modulo x^64 + x^4 + x^3 + x + 1 (R88), over the n low bits of b. -/
def gfMul : Nat → Nat → Nat → Nat
  | 0, _, _ => 0
  | n + 1, a, b =>
    let rest := gfMul n (if 2 ^ 63 ≤ a then (2 * a % 2 ^ 64) ^^^ 0x1B else 2 * a) (b / 2)
    if b % 2 = 1 then a ^^^ rest else rest

/-- Power in GF(2^64), over the n low bits of the exponent. -/
def gfPow : Nat → Nat → Nat → Nat
  | 0, _, _ => 1
  | n + 1, a, e =>
    let rest := gfPow n (gfMul 64 a a) (e / 2)
    if e % 2 = 1 then gfMul 64 a rest else rest

abbrev proofAlpha : Nat := 0x9E3779B97F4A7C15
abbrev proofBeta : Nat := 0xC2B2AE3D27D4EB4F

/-- The term words of an element (R88). -/
def proofTerm (t : TDesc) (code scale : Nat) : Nat × Nat :=
  if t.fmt = 0xD then (2 ^ 63 + code % 2 ^ 63, 2 ^ 63 + code / 2)
  else
    let u := 2 ^ 63 + code + (if t.mx then scale * 2 ^ 32 else 0)
    (u, u)

/-- The row-major index of an element over the global shape (R88, R103). -/
def globalIndex (t : TDesc) (l0 : Nat) (hi : List Nat) : Nat :=
  (List.zip t.dims (l0 :: hi)).reverse.foldl (fun n e => n * e.1.gext + e.1.sharding.global e.1.gext e.1.coord e.2) 0

/-- A Vat word as a proof reads it, stores that a core still buffers included. -/
def State.seen (s : State) (p : Nat) (t : TDesc) (o : Nat) : W256 × Bool :=
  match s.buffered (s.tAddr p t o) with
  | some x => (x.data, x.poison)
  | none => s.look p t o

/-- Two partial proofs combined (R89). -/
def proofXor (a b : Nat × Nat × Bool) : Nat × Nat × Bool := (a.1 ^^^ b.1, a.2.1 ^^^ b.2.1, a.2.2 || b.2.2)

/-- The partial proof over the elements of a shard: A, B and poison (R88, R89). -/
def State.proofOf (s : State) (p : Nat) (t : TDesc) : Nat × Nat × Bool :=
  let look := s.seen p t
  (upto t.nRows).foldl (fun acc r =>
    let hi := rowIdx t r
    (upto (t.ext 0)).foldl (fun (acc : Nat × Nat × Bool) l =>
      let e := elemAt look t hi l
      let c := if t.mx then scaleAt look t hi l else (0, false)
      let i := globalIndex t l hi
      let u := proofTerm t e.1 c.1
      proofXor acc (gfMul 64 u.1 (gfPow 49 proofAlpha (i + 1)), gfMul 64 u.2 (gfPow 49 proofBeta (i + 1)), e.2 || c.2)) acc) (0, 0, false)

/-- The proof that a proof-table entry's device holds, over every shard it owns. -/
def State.proofEntry (s : State) (p : Nat) (e : ProofSpec) : Nat × Nat × Bool :=
  e.shards.foldl (fun acc d => proofXor acc (s.proofOf p (TDesc.ofWords d))) (0, 0, false)

/-- n bytes written to the Vat from a byte address on, in one word or two; a word that holds none of them, or no word, stays. -/
def State.vatBytes (s : State) (a n v : Nat) : State :=
  s.each [0, 1] (fun s k =>
    let w := a / 32 * 32 + 32 * k
    let mask := (upto 32).foldl (fun m i => if a ≤ w + i ∧ w + i < a + n then m + 2 ^ i else m) 0
    let old := s.vatEcc w
    if mask = 0 ∨ ¬ vatPopulated w then s
    else s.vatPut w (mergeBytes old.data (BitVec.ofNat 256 (v * 2 ^ (8 * (a % 32)) / 2 ^ (256 * k))) mask) old.poison)

/-- The proof and its status byte are written to the slot of a proof-table entry (R90; log 46). -/
def State.writeProof (s : State) (p i : Nat) : State :=
  match ((s.part p).plate).bind (fun pl => pl.body.proofs[i]?) with
  | none => s
  | some e =>
    match s.phys p (e.addr / 2 ^ 26) with
    | none => s
    | some q =>
      let r := s.proofEntry p e
      s.vatBytes (q * 2 ^ 26 + e.addr % 2 ^ 26) 17 (r.1 + r.2.1 * 2 ^ 64 + (b2n r.2.2 + 2 * b2n e.isPartial) * 2 ^ 128)

/-- POST_NOTICE (R19, R90): the notice of a proof is posted once the proof is written, after the plate's work of the frame
(log 46). -/
def execPostNotice (p : Fin 16) (kind : Byte) (value : W64) (s : State) : Result :=
  let t := if kind = 0x24 then s.settle else s
  .next (if t.running p then (if kind = 0x24 then t.writeProof p (bits value.toNat 0 16) else t).postNotice p ⟨kind.toNat, value.toNat, 0⟩
    else t)

end Sys2Proof.Machine
end

