-- ==== Sys2Proof/Machine/Dispatch.lean ====
section
/-! DEFINITION. What each command does: one arm per constructor of Instr. -/

namespace Sys2Proof.Machine

def exec (i : Instr) (s : State) : Host.Outcome State Fault Refusal :=
  match i with
  | .registerWrite src off size val => Sys2Proof.Machine.execRegisterWrite src off size val s
  | .unsupportedAccess src off size write => Sys2Proof.Machine.execUnsupportedAccess src off size write s
  | .frameStart => Sys2Proof.Machine.execFrameStart s
  | .waitRelease p => Sys2Proof.Machine.execWaitRelease p s
  | .peerTimeout p => Sys2Proof.Machine.execPeerTimeout p s
  | .waitCount p on cells target limit => Sys2Proof.Machine.execWaitCount p on cells target limit s
  | .waitTime p t => Sys2Proof.Machine.execWaitTime p t s
  | .waitRing p => Sys2Proof.Machine.execWaitRing p s
  | .postNotice p kind value => Sys2Proof.Machine.execPostNotice p kind value s
  | .noticePostResume p => Sys2Proof.Machine.execNoticePostResume p s
  | .stepCommit p => Sys2Proof.Machine.execStepCommit p s
  | .breakPoint p num => Sys2Proof.Machine.execBreakPoint p num s
  | .statLoad p d takes => Sys2Proof.Machine.execStatLoad p d takes s
  | .streamLoad p d takes => Sys2Proof.Machine.execStreamLoad p d takes s
  | .pass p d => Sys2Proof.Machine.execPass p d s
  | .drain p d takes => Sys2Proof.Machine.execDrain p d takes s
  | .fill p d takes => Sys2Proof.Machine.execFill p d takes s
  | .kernelCall p lq core offset descs time patch slots => Sys2Proof.Machine.execKernelCall p lq core offset descs time patch slots s
  | .burinOverrun p lq core pc => Sys2Proof.Machine.execBurinOverrun p lq core pc s
  | .burinStoreDrain p lq core cycle => Sys2Proof.Machine.execBurinStoreDrain p lq core cycle s
  | .xload p d => Sys2Proof.Machine.execXload p d s
  | .dot p d => Sys2Proof.Machine.execDot p d s
  | .accOut p d => Sys2Proof.Machine.execAccOut p d s
  | .sumOut p d => Sys2Proof.Machine.execSumOut p d s
  | .score p d => Sys2Proof.Machine.execScore p d s
  | .pmax p d => Sys2Proof.Machine.execPmax p d s
  | .pexp p d => Sys2Proof.Machine.execPexp p d s
  | .psum p d => Sys2Proof.Machine.execPsum p d s
  | .wacc p d => Sys2Proof.Machine.execWacc p d s
  | .read p d => Sys2Proof.Machine.execRead p d s
  | .write p d => Sys2Proof.Machine.execWrite p d s
  | .fillOpen p lq base moves x => Sys2Proof.Machine.execFillOpen p lq base moves x s
  | .feed p lq words x => Sys2Proof.Machine.execFeed p lq words x s
  | .queue p pool take entry => Sys2Proof.Machine.execQueue p pool take entry s
  | .collect p lq words vat x => Sys2Proof.Machine.execCollect p lq words vat x s
  | .rscheck p lq sums nSums result cycles => Sys2Proof.Machine.execRscheck p lq sums nSums result cycles s
  | .appendStep p x => Sys2Proof.Machine.execAppendStep p x s
  | .pageFlush p => Sys2Proof.Machine.execPageFlush p s
  | .send p => Sys2Proof.Machine.execSend p s
  | .grant p => Sys2Proof.Machine.execGrant p s
  | .proof p => Sys2Proof.Machine.execProof p s
  | .reservedNotice p => Sys2Proof.Machine.execReservedNotice p s
  | .commit p => Sys2Proof.Machine.execCommit p s
  | .kvVerify p => Sys2Proof.Machine.execKvVerify p s
  | .fork p slot newSlot => Sys2Proof.Machine.execFork p slot newSlot s
  | .partCfgWrite src p val => Sys2Proof.Machine.execPartCfgWrite src p val s
  | .load src p img => Sys2Proof.Machine.execLoad src p img s
  | .plateFetchDone => Sys2Proof.Machine.execPlateFetchDone s
  | .stop src p => Sys2Proof.Machine.execStop src p s
  | .saveDone p => Sys2Proof.Machine.execSaveDone p s
  | .resume src p => Sys2Proof.Machine.execResume src p s
  | .unload src p => Sys2Proof.Machine.execUnload src p s
  | .preempt src p img => Sys2Proof.Machine.execPreempt src p img s
  | .partCmdInvalid src p op => Sys2Proof.Machine.execPartCmdInvalid src p op s
  | .measCfgWrite src val => Sys2Proof.Machine.execMeasCfgWrite src val s
  | .measWindowEnd => Sys2Proof.Machine.execMeasWindowEnd s
  | .svcWatchdog input target locked => Sys2Proof.Machine.execSvcWatchdog input target locked s
  | .wcbMerge half word => Sys2Proof.Machine.execWcbMerge half word s
  | .heldWriteLand half word => Sys2Proof.Machine.execHeldWriteLand half word s
  | .stkRefill src val => Sys2Proof.Machine.execStkRefill src val s
  | .refillDone => Sys2Proof.Machine.execRefillDone s
  | .regionAttrWrite src val => Sys2Proof.Machine.execRegionAttrWrite src val s
  | .laneSpareSwitch k group lane => Sys2Proof.Machine.execLaneSpareSwitch k group lane s
  | .vatSlotCfgWrite src val => Sys2Proof.Machine.execVatSlotCfgWrite src val s
  | .bar2Access fn x => Sys2Proof.Machine.execBar2Access fn x s
  | .bar4Access fn x => Sys2Proof.Machine.execBar4Access fn x s
  | .win4BaseWrite src fn val => Sys2Proof.Machine.execWin4BaseWrite src fn val s
  | .ringTick reads consumed => Sys2Proof.Machine.execRingTick reads consumed s
  | .submit r => Sys2Proof.Machine.execSubmit r s
  | .cancel r => Sys2Proof.Machine.execCancel r s
  | .dma r => Sys2Proof.Machine.execDma r s
  | .nop r => Sys2Proof.Machine.execNop r s
  | .hostDmaTransfer engine host => Sys2Proof.Machine.execHostDmaTransfer engine host s
  | .ringCfgWrite src off val => Sys2Proof.Machine.execRingCfgWrite src off val s
  | .functionLevelReset fn => Sys2Proof.Machine.execFunctionLevelReset fn s
  | .rmtRead src => Sys2Proof.Machine.execRmtRead src s
  | .rmtWrite src => Sys2Proof.Machine.execRmtWrite src s
  | .rmtTimeout => Sys2Proof.Machine.execRmtTimeout s
  | .mgmtCell j c => Sys2Proof.Machine.execMgmtCell j c s
  | .configRequest fn write reg val => Sys2Proof.Machine.execConfigRequest fn write reg val s
  | .mctpControl i3c msg => Sys2Proof.Machine.execMctpControl i3c msg s
  | .pldmRequest i3c sensor => Sys2Proof.Machine.execPldmRequest i3c sensor s
  | .getVersion i3c => Sys2Proof.Machine.execGetVersion i3c s
  | .getCapabilities i3c => Sys2Proof.Machine.execGetCapabilities i3c s
  | .negotiateAlgorithms i3c offered => Sys2Proof.Machine.execNegotiateAlgorithms i3c offered s
  | .getDigests i3c => Sys2Proof.Machine.execGetDigests i3c s
  | .getCertificate i3c offset length => Sys2Proof.Machine.execGetCertificate i3c offset length s
  | .challenge i3c nonce => Sys2Proof.Machine.execChallenge i3c nonce s
  | .getMeasurements i3c nonce => Sys2Proof.Machine.execGetMeasurements i3c nonce s
  | .codewordTransmit j => Sys2Proof.Machine.execCodewordTransmit j s
  | .codewordReceive j w => Sys2Proof.Machine.execCodewordReceive j w s
  | .writeCell j c => Sys2Proof.Machine.execWriteCell j c s
  | .quarantineClear src j => Sys2Proof.Machine.execQuarantineClear src j s
  | .form j c => Sys2Proof.Machine.execForm j c s
  | .formAck j c => Sys2Proof.Machine.execFormAck j c s
  | .grantCell j c => Sys2Proof.Machine.execGrantCell j c s
  | .slow j c => Sys2Proof.Machine.execSlow j c s
  | .withdraw j c => Sys2Proof.Machine.execWithdraw j c s
  | .withdrawCloseTimeout p => Sys2Proof.Machine.execWithdrawCloseTimeout p s
  | .shipReq j c => Sys2Proof.Machine.execShipReq j c s
  | .shipGrant j c => Sys2Proof.Machine.execShipGrant j c s
  | .shipReqRetry p slot => Sys2Proof.Machine.execShipReqRetry p slot s
  | .shipmentAccept p slot win => Sys2Proof.Machine.execShipmentAccept p slot win s
  | .slowRepeat => Sys2Proof.Machine.execSlowRepeat s
  | .portEnable src j => Sys2Proof.Machine.execPortEnable src j s
  | .portTrainRetry j trained => Sys2Proof.Machine.execPortTrainRetry j trained s
  | .authHandshake j h => Sys2Proof.Machine.execAuthHandshake j h s
  | .authTimeout j => Sys2Proof.Machine.execAuthTimeout j s
  | .authRetry j => Sys2Proof.Machine.execAuthRetry j s
  | .fullTrain j good => Sys2Proof.Machine.execFullTrain j good s
  | .linkLost j => Sys2Proof.Machine.execLinkLost j s
  | .keepalive j => Sys2Proof.Machine.execKeepalive j s
  | .linkWake j => Sys2Proof.Machine.execLinkWake j s
  | .lambdaSpareSwitch j x => Sys2Proof.Machine.execLambdaSpareSwitch j x s
  | .rekey j ok => Sys2Proof.Machine.execRekey j ok s
  | .laserRemoveReq src mask => Sys2Proof.Machine.execLaserRemoveReq src mask s
  | .laserInsert m => Sys2Proof.Machine.execLaserInsert m s
  | .laserPull m => Sys2Proof.Machine.execLaserPull m s
  | .winOpen src d => Sys2Proof.Machine.execWinOpen src d s
  | .winClose src d => Sys2Proof.Machine.execWinClose src d s
  | .sync j h rxNs => Sys2Proof.Machine.execSync j h rxNs s
  | .followUp j h originNs => Sys2Proof.Machine.execFollowUp j h originNs s
  | .pdelayReq j h rxNs => Sys2Proof.Machine.execPdelayReq j h rxNs s
  | .pdelayResp j h t2 t4 => Sys2Proof.Machine.execPdelayResp j h t2 t4 s
  | .pdelayRespFollowUp j h t3 => Sys2Proof.Machine.execPdelayRespFollowUp j h t3 s
  | .announce j domain priority1 q m => Sys2Proof.Machine.execAnnounce j domain priority1 q m s
  | .scrubStackWord half bank => Sys2Proof.Machine.execScrubStackWord half bank s
  | .scrubVatWord bank => Sys2Proof.Machine.execScrubVatWord bank s
  | .logHeadWrite src val => Sys2Proof.Machine.execLogHeadWrite src val s
  | .fenceQuarter src q => Sys2Proof.Machine.execFenceQuarter src q s
  | .unfenceQuarter src q => Sys2Proof.Machine.execUnfenceQuarter src q s
  | .bist src q => Sys2Proof.Machine.execBist src q s
  | .bistComplete q r => Sys2Proof.Machine.execBistComplete q r s
  | .substitute src q burin unit => Sys2Proof.Machine.execSubstitute src q burin unit s
  | .retire src granule q half region bank => Sys2Proof.Machine.execRetire src granule q half region bank s
  | .rowCopySwitch => Sys2Proof.Machine.execRowCopySwitch s
  | .rowCopyTimeout => Sys2Proof.Machine.execRowCopyTimeout s
  | .fenceDie src d => Sys2Proof.Machine.execFenceDie src d s
  | .unfenceDie src d x => Sys2Proof.Machine.execUnfenceDie src d x s
  | .regionInit src half region => Sys2Proof.Machine.execRegionInit src half region s
  | .refetchHost src half region host => Sys2Proof.Machine.execRefetchHost src half region host s
  | .refetchPeer src half region => Sys2Proof.Machine.execRefetchPeer src half region s
  | .refetchVerify => Sys2Proof.Machine.execRefetchVerify s
  | .repairCmdInvalid src op => Sys2Proof.Machine.execRepairCmdInvalid src op s
  | .supplyReading volts amps watts => Sys2Proof.Machine.execSupplyReading volts amps watts s
  | .supplyWindowEnd => Sys2Proof.Machine.execSupplyWindowEnd s
  | .limiterWindowEnd => Sys2Proof.Machine.execLimiterWindowEnd s
  | .zoneReading z temp => Sys2Proof.Machine.execZoneReading z temp s
  | .thermalWindowEnd => Sys2Proof.Machine.execThermalWindowEnd s
  | .shutdownGraceEnd => Sys2Proof.Machine.execShutdownGraceEnd s
  | .hardTrip => Sys2Proof.Machine.execHardTrip s
  | .refclkLoss => Sys2Proof.Machine.execRefclkLoss s
  | .powerLoss => Sys2Proof.Machine.execPowerLoss s
  | .dormant src => Sys2Proof.Machine.execDormant src s
  | .autoDormant => Sys2Proof.Machine.execAutoDormant s
  | .wake src => Sys2Proof.Machine.execWake src s
  | .wakeEvent kind => Sys2Proof.Machine.execWakeEvent kind s
  | .wakeComplete badPress badStack => Sys2Proof.Machine.execWakeComplete badPress badStack s
  | .quarterWakeDone q => Sys2Proof.Machine.execQuarterWakeDone q s
  | .quarterIdleOff q => Sys2Proof.Machine.execQuarterIdleOff q s
  | .coldReset f => Sys2Proof.Machine.execColdReset f s
  | .warmReset f => Sys2Proof.Machine.execWarmReset f s
  | .resetWarmCmd src f => Sys2Proof.Machine.execResetWarmCmd src f s
  | .resetColdCmd src f => Sys2Proof.Machine.execResetColdCmd src f s
  | .startWatchdog f => Sys2Proof.Machine.execStartWatchdog f s
  | .updateImage src img => Sys2Proof.Machine.execUpdateImage src img s
  | .commitSvn src => Sys2Proof.Machine.execCommitSvn src s
  | .fuseOwnerKey src hash => Sys2Proof.Machine.execFuseOwnerKey src hash s
  | .requireOwner src => Sys2Proof.Machine.execRequireOwner src s
  | .revokeVendorSlot src => Sys2Proof.Machine.execRevokeVendorSlot src s
  | .disableDebug src => Sys2Proof.Machine.execDisableDebug src s
  | .writeRecordArea src bytes => Sys2Proof.Machine.execWriteRecordArea src bytes s
  | .updateCmdInvalid src op => Sys2Proof.Machine.execUpdateCmdInvalid src op s
  | .attestRequest src fn nonce => Sys2Proof.Machine.execAttestRequest src fn nonce s
  | .refclkRestored f => Sys2Proof.Machine.execRefclkRestored f s
  | .resetRelease f => Sys2Proof.Machine.execResetRelease f s
  | .regionInitDone => Sys2Proof.Machine.execRegionInitDone s
  | .imageUpdateDone ok => Sys2Proof.Machine.execImageUpdateDone ok s

end Sys2Proof.Machine
end

