-- ==== Sys2Proof/Machine/Tick.lean ====
section
/-! DEFINITION. The clock of an idle block: device time. -/

namespace Sys2Proof.Machine

/-- One AON cycle with nothing commanded: dt is advanced once per cycle of 10 ns at the rate the servo sets, counted in
millionths of a unit (R4, R237, R332; log 3, log 4). -/
def State.tick (s : State) : State :=
  if s.aon.powered then
    let f := ((s.aon.frac : Int) + 1000000 + s.aon.slewPpm).toNat
    { s with aon := { s.aon with dt := s.aon.dt + f / 1000000, frac := f % 1000000 } }
  else s

end Sys2Proof.Machine
end

