-- ==== Sys2Proof/Safety.lean ====
section
/-! DEFINITION. What counts as a safe step, and the forms that statements about states use. -/

namespace Sys2Proof.Machine

/-- Vat and stack memory and their code bits are in canonical form. -/
abbrev State.memWf (s : State) : Prop :=
  mwf 0 s.vat = true ∧ mwf 0 s.vatCode = true ∧ mwf 0 s.stk = true ∧ mwf 0 s.stkCode = true

/-- A step is safe when it neither faults nor refuses. -/
def safeStep (s : State) : Prop := ∃ t, step s = .next t

/-- A register write of a source at an offset of its view acts now: the source reaches the part, the register is its to
write, its block is served, and its die is not fenced (R374, R375, R376, R382). -/
def State.serves (s : State) (src : Src) (off : Nat) : Bool :=
  s.reaches src && (match s.writeOff src off with
    | none => false
    | some a => decide (s.serve src a = .now) && !s.regFenced a)

/-! ### What changes -/

/-- The pieces of the state; device time apart from the rest of the always-on domain, the fuses apart from the rest of
the boot. -/
inductive Piece where
  | pending | regs | dt | aon | grid | quarters | dieFence | vat | vatCode | work | plateT | slotCfg | stk | stkCode
  | regions | maps | wcb | held | cellSeq | refill | rowMap | rowCopy | badBanks | lanes | press | burin |
  churn | seqs | parts | bound | pcmd | measStart | measEnd | measOn | measNext | reqs | pools | rings | cqs |
  dmaQ | cfgSpace | masked | vfEnable | numVfs | msixPend | rmt | heldAccess | ports | wins | groups |
  sendings | ptp | log | repair | scrubStk | scrubVat | stkLaps | vatLaps | badSpares | zones | pwr | fuses |
  boot | out | free
  deriving DecidableEq, Repr

/-- A piece is the same in two states. -/
def Piece.same (s t : State) : Piece → Prop
  | .pending => s.pending = t.pending
  | .regs => s.regs = t.regs
  | .dt => s.aon.dt = t.aon.dt
  | .aon => { s.aon with dt := 0 } = { t.aon with dt := 0 }
  | .grid => s.grid = t.grid
  | .quarters => s.quarters = t.quarters
  | .dieFence => s.dieFence = t.dieFence
  | .vat => s.vat = t.vat
  | .vatCode => s.vatCode = t.vatCode
  | .work => s.work = t.work
  | .plateT => s.plateT = t.plateT
  | .slotCfg => s.slotCfg = t.slotCfg
  | .stk => s.stk = t.stk
  | .stkCode => s.stkCode = t.stkCode
  | .regions => s.regions = t.regions
  | .maps => s.maps = t.maps
  | .wcb => s.wcb = t.wcb
  | .held => s.held = t.held
  | .cellSeq => s.cellSeq = t.cellSeq
  | .refill => s.refill = t.refill
  | .rowMap => s.rowMap = t.rowMap
  | .rowCopy => s.rowCopy = t.rowCopy
  | .badBanks => s.badBanks = t.badBanks
  | .lanes => s.lanes = t.lanes
  | .press => s.press = t.press
  | .burin => s.burin = t.burin
  | .churn => s.churn = t.churn
  | .seqs => s.seqs = t.seqs
  | .parts => s.parts = t.parts
  | .bound => s.bound = t.bound
  | .pcmd => s.pcmd = t.pcmd
  | .measStart => s.measStart = t.measStart
  | .measEnd => s.measEnd = t.measEnd
  | .measOn => s.measOn = t.measOn
  | .measNext => s.measNext = t.measNext
  | .reqs => s.reqs = t.reqs
  | .pools => s.pools = t.pools
  | .rings => s.rings = t.rings
  | .cqs => s.cqs = t.cqs
  | .dmaQ => s.dmaQ = t.dmaQ
  | .cfgSpace => s.cfgSpace = t.cfgSpace
  | .masked => s.masked = t.masked
  | .vfEnable => s.vfEnable = t.vfEnable
  | .numVfs => s.numVfs = t.numVfs
  | .msixPend => s.msixPend = t.msixPend
  | .rmt => s.rmt = t.rmt
  | .heldAccess => s.heldAccess = t.heldAccess
  | .ports => s.ports = t.ports
  | .wins => s.wins = t.wins
  | .groups => s.groups = t.groups
  | .sendings => s.sendings = t.sendings
  | .ptp => s.ptp = t.ptp
  | .log => s.log = t.log
  | .repair => s.repair = t.repair
  | .scrubStk => s.scrubStk = t.scrubStk
  | .scrubVat => s.scrubVat = t.scrubVat
  | .stkLaps => s.stkLaps = t.stkLaps
  | .vatLaps => s.vatLaps = t.vatLaps
  | .badSpares => s.badSpares = t.badSpares
  | .zones => s.zones = t.zones
  | .pwr => s.pwr = t.pwr
  | .fuses => s.boot.fuses = t.boot.fuses
  | .boot => { s.boot with fuses := {} } = { t.boot with fuses := {} }
  | .out => s.out = t.out
  | .free => s.free = t.free

/-- Of the state's pieces only those listed may differ. -/
def Changes (l : List Piece) (s t : State) : Prop := ∀ x, x ∉ l → x.same s t

/-- Of the registers only those at the offsets listed may differ. -/
def RegsKept (as : List Nat) (s t : State) : Prop := ∀ a, a ∉ as → t.reg a = s.reg a

/-- What a fault event touches: the log, its registers, and what an interrupt sends. -/
abbrev logPieces : List Piece := [.regs, .log, .out, .msixPend]

/-- The registers of a fault event: class, log status, interrupt cause (R313, R379). -/
abbrev logRegs : List Nat := [INT_CLASS_SEEN_class.addr 0, INT_LOG_STATUS_tail.addr 0, DEV_IRQ_CAUSE_cause.addr 0]

/-- Registers as before but for those that a fault event sets. -/
abbrev OnlyLogRegs (s t : State) : Prop := RegsKept logRegs s t

/-- Of the plates' work one activity of partition p waits for plate cycle T. -/
def State.alone (s : State) (p T : Nat) (a : Act) : Prop := s.work.filter (fun e => e.t == T && e.p == p) = [⟨T, p, a⟩]

/-- The state without what waits for a plate cycle of a partition. -/
def State.without (s : State) (p T : Nat) : State := { s with work := s.work.filter (fun e => !(e.t == T && e.p == p)) }

/-- The words that one activity of the Press engines, the cores or the plate DMA engine moves in a cycle reach different Vat
banks, and stack banks that neither stream nor are reached twice, within the budgets of their halves (R111, R145). -/
def State.meetsNone (s : State) (p T : Nat) (a : Act) : Prop :=
  vatClash ((s.without p T).vatAccs p T a) = [] ∧
  (s.without p T).stackHaz T [] ((s.without p T).stkAccs a) (s.heldQs p) = []

/-- Such an activity alone in its cycle, meeting no other access. -/
def State.onlyAct (s : State) (p T : Nat) (a : Act) : Prop := a.isChurn = false ∧ s.alone p T a ∧ s.meetsNone p T a

/-- A hazard of a unit stops the partition at the end of plate cycle T: its cause and unit are recorded where the partition's
record is free, and it halts with cause FAULT (R111, R123, R131). -/
def Hazard (s : State) (p T cause unit : Nat) (t : State) : Prop :=
  ∃ r, t = State.haltPart r p wFAULT ∧ (s.on PRESS_FAULT_STATUS_valid p = false → r.rd PRESS_FAULT_STATUS_valid p = 1 ∧
    r.rd PRESS_FAULT_STATUS_cause p = cause ∧ r.rd PRESS_FAULT_STATUS_unit p = unit % 2 ^ 8 ∧
    r.rd PRESS_FAULT_STATUS_pc p = T % 64 ∧ r.rd PRESS_FAULT_FRAME_runFrame p = T / 64 % 2 ^ 64)

/-- A churn hazard in plate bank cycle B, likewise (R145, R158). -/
def ChurnHazard (s : State) (p B : Nat) (h : ChurnHaz) (t : State) : Prop :=
  ∃ r, t = State.haltPart r p wFAULT ∧ (s.on STK_FAULT_STATUS_valid p = false → r.rd STK_FAULT_STATUS_valid p = 1 ∧
    r.rd STK_FAULT_STATUS_cause p = h.cause ∧ r.rd STK_FAULT_STATUS_half p = h.half % 2 ^ 4 ∧
    r.rd STK_FAULT_STATUS_bank p = h.bank % 2 ^ 9 ∧ r.rd STK_FAULT_STATUS_bc p = B % 29 ∧
    r.rd STK_FAULT_FRAME_runFrame p = B / 29 % 2 ^ 64)

/-- The work of a partition after a plate cycle: what waited for other cycles, then what the cycle has planned. -/
def Planned (s : State) (p T : Nat) (evs : List (Nat × Act)) (t : State) : Prop :=
  t.work = (s.without p T).work ++ evs.map (fun e => ⟨e.1, p, e.2⟩)

/-- A plate command's plate runs, and none of its cycles has passed (log 29). -/
def State.inTime (s : State) (p : Nat) (ts : List Nat) : Prop := s.running p = true ∧ ∀ t ∈ ts, s.plateT ≤ t

/-- A churn command's share of a plate cycle, alone in it, when with these banks of its half streaming too no bank meets
another access and no half passes its budget (R133, R136, R145). -/
def State.onlyChurn (s : State) (p T : Nat) (a : Act) (half : Nat) (banks : List Nat) : Prop :=
  a.isChurn = true ∧ s.alone p T a ∧
    ∀ h ∈ s.heldQs p, activityHaz h ((s.seqAt h).streams (bcAt T) ++ (if h = half then banks else [])) = []

/-- The parities of the lanes of some churns hold (R306). -/
def State.parityHolds (s : State) (half : Nat) (banks : List Nat) : Prop := ∀ b ∈ banks, (s.churnAt half b).par = []

/-- A Press command's plate runs, its cycle has not passed, and it is such as the plate can hold (R118, R120). -/
def State.pressReady (s : State) (p : Nat) (d : Words4) (takes : List Nat) : Prop :=
  s.running p = true ∧ s.plateT ≤ (s.pressCtx p d).t0 ∧ s.pressOk p d = true ∧ s.takesOk p (s.pressCtx p d) takes = true

/-- Churns outside a set of banks of a half, and sequencers of other halves, are the same; the half's sequencer differs at
most in what it feeds, has queued and remembers as in flight. -/
def ChurnFrame (half : Nat) (banks : List Nat) (s t : State) : Prop :=
  (∀ h b, churnKey h b ∉ banks.map (churnKey half) → t.churnAt h b = s.churnAt h b) ∧
  (∀ h, h ≠ half → t.seqAt h = s.seqAt h)

/-- What one churn holds after row k of a streaming command, whose words are `ws`: DOT sets four lanes, SCORE 16, WACC 64; the
check sum grows by the row's sum; registers and other lanes stay (R141 to R143, R148, R150). -/
def Streamed (c : ChurnCmd) (k : Nat) (row : Nat × Nat) (ws : List W256) (a b : Churn) : Prop :=
  b.v = a.v ∧ b.par = a.par ∧ b.rows = a.rows ++ [row] ∧ b.cs = (a.cs + rowSum ws) % 2 ^ 32 ∧
  (c.op = 2 → (∀ q < 4, churnLane b (16 * c.acc + c.lane + 4 * k + q) =
      (laneChain c.cont (churnLane a (16 * c.acc + c.lane + 4 * k + q)).1 (blocksOf c.kLen (fun i =>
        mulVal (regVal c.fmt (churnReg a c.reg i).1) (tileVal c.fmt ws q i))),
       (upto c.kLen).any (fun i => (churnReg a c.reg i).2) || (c.cont && (churnLane a (16 * c.acc + c.lane + 4 * k + q)).2))) ∧
    (∀ n, n < 16 * c.acc + c.lane + 4 * k ∨ 16 * c.acc + c.lane + 4 * k + 4 ≤ n → churnLane b n = churnLane a n)) ∧
  (c.op = 8 → (∀ t < 16, churnLane b (16 * c.acc + t) =
      (laneChain false 0 (blocksOf c.kLen (fun i =>
        mulVal (regVal c.fmt (churnReg a c.reg i).1) (keyVal c.fmt c.kLen ws t i))),
       (upto c.kLen).any (fun i => (churnReg a c.reg i).2))) ∧
    (∀ n, n < 16 * c.acc ∨ 16 * c.acc + 16 ≤ n → churnLane b n = churnLane a n)) ∧
  (c.op = 12 → (∀ j < 64, churnLane b j =
      (blockSum ((upto 16).map (fun t => mulVal (dec32 (churnLane a (16 * c.acc + t)).1) (valueVal c.fmt ws t j))),
       (upto 16).any (fun t => (churnLane a (16 * c.acc + t)).2))) ∧
    (∀ n, 64 ≤ n → churnLane b n = churnLane a n))

/-- A churn streamed row k of a command from its bank. -/
def State.Streams (s : State) (x : ChurnCtx) (bank k : Nat) (r : Nat × Nat) (t : State) : Prop :=
  Streamed x.c k r (s.rowData x.half bank r.1 r.2 x.c.rowLen) (s.churnAt x.half bank) (t.churnAt x.half bank)

/-- Registers as before but for those of a fault event and the notes of bad sealed regions. -/
abbrev OnlyReadRegs (s t : State) : Prop := RegsKept (logRegs ++ (upto 64).map INT_FN_NOTE_valid.addr) s t

/-- Every byte of stack memory outside the words listed is the same. -/
def StkKept (words : List Nat) (s t : State) : Prop :=
  ∀ a, (∀ w ∈ words, ¬ (w ≤ a ∧ a < w + 32)) → mget 0 t.stk a = mget 0 s.stk a

/-- Every byte of the Vat outside the words listed is the same. -/
def VatWordsKept (words : List Nat) (s t : State) : Prop :=
  ∀ a, (∀ w ∈ words, ¬ (w ≤ a ∧ a < w + 32)) → mget 0 t.vat a = mget 0 s.vat a

/-- A cell of a type is acted on, in its turn, at a port in UP whose crossbar input is not quarantined. -/
def State.hears (s : State) (j : Nat) (c : LCell) (typ : Nat) : Prop :=
  s.portState j = pUP ∧ bit (s.rd SVC_QUAR_quarantined 0) (12 + j) = false ∧ (s.port j).turn c = true ∧ c.typ = typ

/-- Such a NOTICE cell of a kind names group k, and ends at this member, or goes on by a port (R250, R251). -/
def State.notice (s : State) (j : Nat) (c : LCell) (kind k : Nat) (onward : Option Nat) : Prop :=
  s.hears j c 2 ∧ c.aux = kind ∧ s.namedGroup j c = some k ∧ s.routeOf k kind (noticeOrigin c) = onward

/-- The state in which the page manager acts for a partition: the plates' cycles of the frame are done, and its records are such
as it can read (R176, R186). -/
abbrev State.managed (s : State) (p : Nat) : State := s.settle.checkTree p

/-- What the page manager may touch as it writes its lists and records (R170, R178, R179). -/
abbrev listPieces : List Piece := [.regs, .vat, .vatCode, .stk, .stkCode, .wcb, .held, .parts, .reqs, .pools, .msixPend, .log, .out]

/-- Entries of the write-combining buffers are whole words, none of which is uncorrectable. -/
def State.wcbClean (s : State) : Prop := ∀ e ∈ s.wcb, e.word % 32 = 0 ∧ (s.stkEcc e.word).res ≠ .uncorrectable

/-- What a halt of a partition may touch (R111). -/
abbrev haltPieces : List Piece := [.regs, .quarters, .dieFence, .work, .stk, .stkCode, .maps, .wcb, .held, .burin, .seqs, .parts,
  .pcmd, .msixPend, .rmt, .ports, .wins, .groups, .sendings, .log, .repair, .boot, .out]

/-- What a word of a cell becomes at its destination: as sent when clean, corrected, or poisoned (R220). -/
def landed (d : W256) (code : W16) : W256 × W16 :=
  let r := eccRead d code
  r.res.pick (d, code) (r.data, eccCode r.data r.poison) (r.data, eccCode r.data true)

/-- A partition command has ended with a cause, 0 for success (R276, R284). -/
def State.pcmdDone (s : State) (cause : Nat) : Prop :=
  s.pcmd = none ∧ s.rd PART_CMD_STATUS_busy 0 = 0 ∧ s.rd PART_CMD_STATUS_done 0 = 1 ∧
    s.rd PART_CMD_STATUS_error 0 = b2n (cause != 0) ∧ s.rd PART_CMD_STATUS_cause 0 = cause

/-- What the status of partition commands may touch, and its registers. -/
abbrev cmdPieces : List Piece := [.regs, .pcmd, .msixPend, .out]
abbrev cmdRegs : List Nat := [PART_CMD_STATUS_busy.addr 0, DEV_IRQ_CAUSE_cause.addr 0]

/-- A plate of this length at this address may be fetched for a partition, and passes the checks of R84 made at the
fetch. -/
def State.fetches (s : State) (p : Nat) (img : PlateImage) : Prop :=
  s.shutting = false ∧ s.pstate p = 0 ∧ s.rd PART_CFG_quarters p ≠ 0 ∧ s.rd PART_CMD_ADDR_addr 0 % 4096 = 0 ∧
    s.rd PART_CMD_LEN_len 0 ≤ (s.maskOf p).length * areaBytes ∧ bit (s.rd SVC_QUAR_quarantined 0) 11 = false ∧
    img.readError = false ∧ plateCause img = 0

/-- A fetched plate waits for its check against the quarters: busy is set, its words stand in the load areas of the partition's
quarters, and of stack memory nothing else has changed. -/
def Fetched (op p : Nat) (img : PlateImage) (s t : State) : Prop :=
  t.pcmd = some ⟨op, p, some img, .fetched⟩ ∧ t.on PART_CMD_STATUS_busy 0 = true ∧
    (∀ i q a, i < ceilDiv img.bytes.length 32 → (s.maskOf p)[32 * i / areaBytes]? = some q →
      a = q * 2 ^ 35 + 16302 * 2 ^ 21 + 32 * i % areaBytes → s.halfUp q = true → s.kindAt a = 1 →
      s.streaming q (stkBank a) = false → s.waitsHeld a = false → t.stkWord a = BitVec.ofNat 256 (leAt img.bytes (32 * i) 32)) ∧
    (∀ a, (∀ q ∈ s.maskOf p, ¬ (q * 2 ^ 35 + 16302 * 2 ^ 21 ≤ a ∧ a < q * 2 ^ 35 + 16343 * 2 ^ 21)) →
      mget 0 t.stk a = mget 0 s.stk a) ∧
    Changes ([.stk, .stkCode, .wcb, .held, .free] ++ cmdPieces) s t ∧ RegsKept cmdRegs s t

/-- Some quarter of a partition's mask still has to wake, and no other partition is in RESUMING. -/
def State.mustWake (s : State) (p : Nat) : Prop :=
  (∃ q ∈ s.maskOf p, (s.q q).power ≠ .on) ∧ ∀ k < 16, k ≠ p → s.pstate k ≠ 6

/-- The partition has taken its quarters: those that were OFF wake (R334). -/
def Takes (p : Nat) (s t : State) : Prop :=
  t.rd PART_STATUS_held p = s.rd PART_CFG_quarters p ∧
    (∀ q ∈ s.maskOf p, (t.q q).power = (if (s.q q).power = .off then .waking else (s.q q).power)) ∧
    (∀ q, q ∉ s.maskOf p → t.q q = s.q q) ∧ (∀ k, k ≠ p → t.part k = s.part k)

/-- A function's accesses to BAR2 and BAR4 in a traffic class are carried out, and wake nothing. -/
def State.barServes (s : State) (f tc : Nat) : Prop := s.barOpen f tc = true ∧ s.rd PWR_STATUS_state 0 ≠ 0

/-- The registers that count a class's accesses at the edge slots (R112). -/
abbrev edgeRegs (cls : Nat) : List Nat := [VAT_EDGE_USE_count.addr cls, VAT_EDGE_LENT_count.addr 0]

/-- What left the part last, after what events sent. -/
def Emits (x : Out) (s t : State) : Prop := ∃ o, t.out = s.out ++ o ++ [x]

/-- A word of a transfer's source, as the engine reads it. -/
def State.dmaWord (s : State) (t : TDesc) (q : Nat) (x : DmaPiece) : W256 × Bool :=
  if t.space = 0 then ((s.vatEcc (dmaAddr t q x)).data, (s.vatEcc (dmaAddr t q x)).poison) else s.svcRead (dmaAddr t q x)

/-- The status of a transfer has been written where its entry asks for one. -/
def Status (d : DmaReq) (code cause : Nat) (t : State) : Prop :=
  dmaStatusAddr d.body ≠ 0 → Out.hostWrite (dmaStatusAddr d.body) (statusBytes d.tag code cause) [] ∈ t.out

/-- A remote access has ended with a cause. -/
def State.rmtDone (s : State) (cause : Nat) : Prop :=
  s.rmt = none ∧ s.rd HIF_RMT_STATUS_busy 0 = 0 ∧ s.rd HIF_RMT_STATUS_done 0 = 1 ∧ s.rd HIF_RMT_STATUS_error 0 = b2n (cause != 0) ∧
    s.rd HIF_RMT_STATUS_cause 0 = cause

/-- A source's repair command acts: its write is served, no repair runs, the part is not in RECOVERY (R326, R362). -/
def State.repairs (s : State) (src : Src) : Prop :=
  s.serves src (INT_REPAIR_CMD_op.addr 0) = true ∧ s.on INT_REPAIR_STATUS_busy 0 = false ∧ s.boot.phase ≠ .recovery

/-- A repair has ended with a cause, 0 for success (R327). -/
def State.repairDone (s : State) (cause : Nat) : Prop :=
  s.repair = none ∧ s.rd INT_REPAIR_STATUS_busy 0 = 0 ∧ s.rd INT_REPAIR_STATUS_done 0 = 1 ∧
    s.rd INT_REPAIR_STATUS_error 0 = b2n (cause != 0) ∧ s.rd INT_REPAIR_STATUS_cause 0 = cause

/-- A repair that takes time has started. -/
def Starts (r : Repair) (t : State) : Prop := t.repair = some r ∧ t.on INT_REPAIR_STATUS_busy 0 = true

/-- The registers of a repair's status and its command; and of a fault event with the status, or with both. -/
abbrev cmdRepairRegs : List Nat := [INT_REPAIR_STATUS_busy.addr 0, INT_REPAIR_CMD_op.addr 0]
abbrev doneRepairRegs : List Nat := INT_REPAIR_STATUS_busy.addr 0 :: logRegs
abbrev repairRegs : List Nat := INT_REPAIR_CMD_op.addr 0 :: doneRepairRegs

/-- A repair was refused with a cause; nothing but its status and its command register changes. -/
def Refused (cause : Nat) (s t : State) : Prop :=
  t.repairDone cause ∧ Changes [.regs, .repair] s t ∧ RegsKept cmdRepairRegs s t

/-- A completed operation was appended to the retirement list (R318), which had a record free. -/
def Listed (op cmd : Nat) (s t : State) : Prop :=
  s.boot.list.length < 16384 → t.boot.list = s.boot.list ++ [⟨op, cmd, s.rd INT_REPAIR_ARG_arg 0, s.dt, true⟩]

/-- The class REPAIR is set in INT_CLASS_SEEN (R315). -/
def State.seenRepair (s : State) : Prop := bit (s.rd INT_CLASS_SEEN_class 0) 13 = true

/-- An orderly shutdown has started (R343): with no partition command and no repair in progress, every partition that runs, loads,
resumes or waits for a stop has a shutdown stop pending. -/
def ShutsDown (s t : State) : Prop :=
  t.rd PWR_STATUS_state 0 = 3 ∧ t.on PWR_STATUS_shutdown 0 = true ∧ t.pwr.shutAt = some s.dt ∧ t.vat = s.vat ∧
    (s.pcmd = none → s.repair = none → ∀ p < 16, s.pstate p = 1 ∨ s.pstate p = 2 ∨ s.pstate p = 3 ∨ s.pstate p = 6 ∨
      (s.part p).stop.isSome = true → t.pstate p = 3 ∧ (t.part p).stop = some (.shutdown, s.gridFrame))

/-- Every quarter is OFF and the whole Vat reads zero (R94, R334). -/
def AllOff (t : State) : Prop := (∀ q < 16, (t.q q).power = .off) ∧ ∀ a < 2 ^ 30, mget 0 t.vat a = 0

/-- The registers of supply, power state and a fault event. -/
abbrev powerRegs : List Nat := [PWR_INPUT_volts.addr 0, PWR_STATUS_state.addr 0] ++ logRegs

/-- The boot chooses a copy (R357, R358): it is not marked bad and passes every check, and the other does not, or has no higher
sequence, an equal one only where this is B. -/
def State.chooses (s : State) (bad : Nat → Bool) (slot : Nat) (c : ImageCopy) : Prop :=
  slot < 2 ∧ s.copyAt slot = some c ∧ bad slot = false ∧ s.boot.fuses.copyCause c = 0 ∧
    ∀ o, s.copyAt (1 - slot) = some o → bad (1 - slot) = true ∨ s.boot.fuses.copyCause o ≠ 0 ∨
      (if slot = 0 then o.sequence ≤ c.sequence else o.sequence < c.sequence)

/-- What a boot leads to by what it finds (R351, R357 to R362): FAILED for a bad fuse word or two revoked slots; RECOVERY where no
copy passes; TRIPPED for a zone too hot (R371); FAILED for a bad hub checker; else the part runs, AWAKE, with the copy chosen. -/
def Boots (f : BootFindings) (bad : Nat → Bool) (s t : State) : Prop :=
  (f.fuseBad ≠ none ∨ s.boot.fuses.revoke % 4 = 3 → t.boot.phase = .failed) ∧
  (f.fuseBad = none → s.boot.fuses.revoke % 4 ≠ 3 →
    ((∀ slot < 2, ∀ c, s.copyAt slot = some c → bad slot = true ∨ s.boot.fuses.copyCause c ≠ 0) →
      t.boot.phase = .recovery ∧ t.rd BOOT_STATUS_state 0 = 2) ∧
    (∀ slot c, s.chooses bad slot c → (f.hot ≠ none → t.boot.phase = .running ∧ t.rd PWR_STATUS_state 0 = 4 ∧
        t.rd BOOT_STATUS_copy 0 = slot) ∧
      (f.hot = none → f.hubBad = true → t.boot.phase = .failed) ∧
      (f.hot = none → f.hubBad = false → t.boot.phase = .running ∧ t.rd BOOT_STATUS_state 0 = 1 ∧ t.rd PWR_STATUS_state 0 = 2 ∧
        (c.records = [] → t.rd BOOT_STATUS_copy 0 = slot ∧ t.rd DEV_FW_sequence 0 = c.sequence % 2 ^ 32 ∧
          (t.on BOOT_STATUS_identityOk 0 = !f.identityBad) ∧ t.boot.fuses = s.boot.fuses))))

/-- Copies marked bad (R359). -/
def State.badSlot (s : State) (slot : Nat) : Bool := if slot = 0 then s.on BOOT_STATUS_badA 0 else s.on BOOT_STATUS_badB 0

/-- A source's update command acts: its write is served, no update runs, the part runs (R362, R371). -/
def State.updates (s : State) (src : Src) : Prop :=
  s.serves src (BOOT_UPDATE_CMD_op.addr 0) = true ∧ s.on BOOT_UPDATE_STATUS_busy 0 = false ∧ s.boot.phase = .running

/-- An update has ended with a cause and a detail (R372). -/
def State.updateDone (s : State) (cause detail : Nat) : Prop :=
  s.rd BOOT_UPDATE_STATUS_busy 0 = 0 ∧ s.rd BOOT_UPDATE_STATUS_done 0 = 1 ∧ s.rd BOOT_UPDATE_STATUS_error 0 = b2n (cause != 0) ∧
    s.rd BOOT_UPDATE_STATUS_cause 0 = cause ∧ s.rd BOOT_UPDATE_STATUS_detail 0 = detail

/-- An update ended with a cause, and nothing but its status changed. -/
def Ended (cause detail : Nat) (s t : State) : Prop :=
  t.updateDone cause detail ∧ Changes [.regs] s t ∧ RegsKept [BOOT_UPDATE_STATUS_busy.addr 0] s t

/-- A fuse command has programmed the fuses to `f`, which BOOT_STATUS shows (R351). -/
def Fused (f : Fuses) (s t : State) : Prop :=
  t.boot.fuses = f ∧ t.updateDone 0 0 ∧ Changes [.regs, .fuses] s t ∧
    RegsKept [BOOT_UPDATE_STATUS_busy.addr 0, BOOT_STATUS_state.addr 0] s t

/-- One-way: what is programmed stays (R351). -/
def FusesGrow (f g : Fuses) : Prop :=
  g.vendor0 = f.vendor0 ∧ g.vendor1 = f.vendor1 ∧ g.identitySeed = f.identitySeed ∧ f.svn ≤ g.svn ∧
  g.svn ≤ 64 ∧ (∀ i, bit f.revoke i = true → bit g.revoke i = true) ∧
    (f.ownerFused = true → g.ownerFused = true ∧ g.ownerHash = f.ownerHash) ∧ (f.ownerRequired = true → g.ownerRequired = true) ∧
    (f.debugDisable = true → g.debugDisable = true)

end Sys2Proof.Machine
end

