-- ==== Sys2Proof/Certificates/Slice0/Obligations.lean ====
section
/-! DEFINITION. The statements about the part for the provers. A clause named "completes" says in which states a command has
its own effect and what the next state holds. -/

open Sys2Proof Sys2Proof.Machine

/-! ### The queue and the outcomes -/

/-- A step takes the command at the front of the queue and acts by it on the state with the queue's rest. -/
def Obligations.StepRunsFrontCommand : Prop :=
  ∀ (c : Instr) (rest : List Instr) (s : State), s.pending = c :: rest → step s = exec c { s with pending := rest }

/-- With nothing commanded the block counts device time by one AON cycle at its rate, and nothing else changes (the model's
choice, log 3 and log 4). -/
def Obligations.IdleStepCountsTime : Prop :=
  ∀ s : State, s.pending = [] → s.aon.powered = true → 0 ≤ (s.aon.frac : Int) + 1000000 + s.aon.slewPpm →
    ∃ t, step s = .next t ∧
      (1000000 * t.aon.dt + t.aon.frac : Int) = 1000000 * s.aon.dt + s.aon.frac + 1000000 + s.aon.slewPpm ∧
      t.aon.frac < 1000000 ∧ { t with aon := s.aon } = s

/-- No command is refused; one whose operands no part of the manual can produce stops with `illFormed` in every state. -/
def Obligations.OperandsDecideTheStop : Prop :=
  (∀ (c : Instr) (s : State) (r : Refusal), exec c s ≠ .refused r) ∧
  (∀ (c : Instr) (s : State), c.wf = false → exec c s = .fault .illFormed)

/-- An access of a size or alignment that the part does not serve: the function gets an Unsupported Request and nothing else
changes; an MCTP access of that kind changes nothing. -/
def Obligations.UnsupportedAccessAnswered : Prop :=
  ∀ (s : State) (off size : Nat) (w : Bool), regAccessOk off size = false →
    (∀ f : Fin 64, s.reaches (.fn f) = true →
      exec (.unsupportedAccess (.fn f) off size w) s = .next { s with out := s.out ++ [.unsupported f] }) ∧
    exec (.unsupportedAccess .mctp off size w) s = .next s

/-- Reads and writes of registers. A 32-bit read of either half returns that half, and a read of a size or alignment that the part
does not serve all ones. A write of all 64 bits or of one half that is served, to a register of plain fields: bit by bit an RW or
RWS field takes the value written, a one clears a W1C bit, a zero clears a W0CS bit, and every other bit, all of the other half
among them, keeps its value; every other register and the rest of the state stay. A 32-bit write of the half of STK_REFILL or
INT_REPAIR_CMD that does not start the command keeps the bits written for the one that does (the model's reading, log 95). -/
def Obligations.RegisterWriteByAccessCode : Prop :=
  (∀ (s : State) (a size : Nat), (a % 8 = 0 → s.readAt a 8 = s.readReg a ∧ (s.readAt a 4).toNat = (s.readReg a).toNat % 2 ^ 32 ∧
      (s.readAt (a + 4) 4).toNat = (s.readReg a).toNat / 2 ^ 32) ∧
    (regAccessOk a size = false → s.readAt a size = 0xFFFFFFFFFFFFFFFF)) ∧
  (∀ (s : State) (src : Src) (off size a sh : Nat) (v m : W64) (r : RegSpec) (i : Nat), regAccessOk off size = true →
    s.writeOff src off = some a → regFind (a / 8 * 8) = some (r, i) → laneMask a size = m → r.mask (fun _ => true) &&& m ≠ 0 →
    sh = (if size = 4 ∧ a % 8 = 4 then 32 else 0) → s.serves src off = true → needsRow a size v = false →
    (s.regActs r.off i (s.actValue r (a / 8 * 8) (laneValue a size v) m) = none → r.off ≠ 0x90110 →
      ∃ w : W64, exec (.registerWrite src off size v) s = .next (s.setReg (a / 8 * 8) w) ∧
        (∀ b, b ≠ a / 8 * 8 → (s.setReg (a / 8 * 8) w).reg b = s.reg b) ∧
        ∀ k < 64, w.getLsbD k =
          if k < sh ∨ sh + 8 * size ≤ k then (s.reg (a / 8 * 8)).getLsbD k
          else if (r.mask Acc.sets).getLsbD k then v.getLsbD (k - sh)
          else if (r.mask (fun c => c == .w1c)).getLsbD k then (s.reg (a / 8 * 8)).getLsbD k && !v.getLsbD (k - sh)
          else if (r.mask (fun c => c == .w0cs)).getLsbD k then (s.reg (a / 8 * 8)).getLsbD k && v.getLsbD (k - sh)
          else (s.reg (a / 8 * 8)).getLsbD k) ∧
    (∀ k, splitCommand r.off = some k → k < sh ∨ sh + 8 * size ≤ k → ∃ w : W64,
      exec (.registerWrite src off size v) s = .next (s.setReg (a / 8 * 8) w) ∧ ∀ k < 64,
        (sh ≤ k → k < sh + 8 * size → w.getLsbD k = (v.getLsbD (k - sh) && (r.mask (fun c => c != .ro)).getLsbD k)) ∧
        (k < sh ∨ sh + 8 * size ≤ k → w.getLsbD k =
          ((s.reg (a / 8 * 8)).getLsbD k && (r.mask (fun c => c == .wo)).getLsbD k))))

/-! ### Waits, notices and break points -/

/-- A running plate that reaches an external wait waits from this run frame and this time; nothing else changes. At the start of a
later run frame the wait is tested, by whichever of the three commands brings it: with its group withdrawn the partition halts with
PEER_WITHDRAWN logged; else a stop requested in an earlier frame takes effect; else, where its condition holds, the next segment
starts at pc 0 of that frame, and a wait_ring uses up one release, or one host transfer where no release is left; else a wait_count
whose limit, stretched by the factor of its group, has run out ends with PEER_TIMEOUT: the fault is logged, the group's timeout
event is set, and the partition halts with cause TIMEOUT. A break point with no stop pending changes nothing, and neither does one
that the plate has not reached; with a stop requested in an earlier frame the partition stops there: it is SAVING, its groups
withdraw with cause STOP and its windows begin to close. -/
def Obligations.WaitsAndBreakPointsAct : Prop :=
  (∀ (s : State) (p : Fin 16), s.running p = true →
    (∀ (on : WaitOn) (cells : Bool) (target limit : Nat), exec (.waitCount p on cells target limit) s =
      .next (s.updPart p (fun x => { x with wait := some ⟨.count on cells target limit, s.runFrame, s.dt, 0⟩ }))) ∧
    (∀ t : Nat, exec (.waitTime p t) s =
      .next (s.updPart p (fun x => { x with wait := some ⟨.time t, s.runFrame, s.dt, 0⟩ }))) ∧
    exec (.waitRing p) s = .next (s.updPart p (fun x => { x with wait := some ⟨.ring, s.runFrame, s.dt, 0⟩ }))) ∧
  (∀ (s : State) (p : Fin 16) (w : Wait) (withdrawn : Bool) (i : Instr), (s.part p).wait = some w → s.started p = true →
    w.frame < s.runFrame → (i = .waitRelease p ∨ i = .peerTimeout p ∨ i = .noticePostResume p) →
    (withdrawn = true ↔ ∃ o cells target limit g, w.kind = .count o cells target limit ∧ s.winGroup p o = some g ∧ (s.group p g).state = 3) →
    (withdrawn = true → exec i s =
      .next (((s.logEvent 0x0902 (some p) false .none 0).haltWithdrawn p wFAULT).reclass p (s.frameClass p))) ∧
    (∀ k, withdrawn = false → s.stopDue p = some k → exec i s =
      .next ((s.takeStop p (bpNumber (s.part p).plate (s.part p).nextSeg 0) 0 k).reclass p (s.frameClass p))) ∧
    (withdrawn = false → s.stopDue p = none → s.waitTrue p w = true →
      ∃ t, exec i s = .next t ∧ (t.part p).wait = none ∧ (t.part p).segStart = s.runFrame ∧ (t.part p).seg = (s.part p).nextSeg ∧
        (w.kind = .ring → (t.part p).releases + (t.part p).hostData + 1 = (s.part p).releases + (s.part p).hostData) ∧
        (∀ q, q ≠ p.val → t.part q = s.part q) ∧ { t with parts := s.parts } = s) ∧
    (∀ (o : WaitOn) (cells : Bool) (target limit g : Nat), withdrawn = false → w.kind = .count o cells target limit →
      s.stopDue p = none → s.winGroup p o = some g → s.waitTrue p w = false → limit ≠ 0 →
      limit * s.slowF (s.group p g) ≤ 16 * (s.dt - w.t0) → exec i s = .next
        ((((s.logEvent 0x0903 (some p) false .none 0).updGroup p g (fun y => { y with timeout := true })).haltWithdrawn p
          wTIMEOUT).reclass p (s.frameClass p))) ∧
    (withdrawn = false → s.stopDue p = none → s.waitTrue p w = false → s.waitExpired p w = false →
      ∃ t, exec i s = .next t ∧ (t.part p).wait = some w ∧ { t with parts := s.parts } = s)) ∧
  (∀ (s : State) (p : Fin 16) (num : Nat), s.running p = true →
    ((s.part p).stop = none → exec (.breakPoint p num) s = .next s) ∧
    (∀ (pl : PlateImage) (b : BreakSpec), (s.part p).plate = some pl → pl.body.breaks.find? (fun b => b.num == num) = some b →
      (b.seg ≠ (s.part p).seg ∨ s.runFrame ≠ (s.part p).segStart + b.frame → exec (.breakPoint p num) s = .next s) ∧
      (∀ f, b.seg = (s.part p).seg → s.runFrame = (s.part p).segStart + b.frame → (s.part p).stop = some (.stop, f) → f < s.gridFrame →
        exec (.breakPoint p num) s = .next ((((((((s.updPart p (fun x => { x with stop := none, bp := num, bpOff := b.frame })).dropWork
          p).landStores p).setPState p sSAVING).wr PART_STATUS_midCollective p (b2n (s.midCollective p))).withdrawAll p
          wSTOP).beginClosing p).reclass p (s.frameClass p)))))

/-- A notice goes to the end of its partition's queue with its frame; a full queue holds the plate at the post. The notice of a proof
is posted once the proof and its status byte are written, 17 bytes at the slot of its entry. A post that is held is made at the start
of a later run frame that finds an entry free, and the plate goes on there; with a stop due the stop takes effect instead. A
step_commit of a running plate adds one to the commit count and posts STEP_COMMIT, code 0x20, with the count modulo 2^32; registers
and memories stay. -/
def Obligations.NoticesAndCommitsArePosted : Prop :=
  (∀ (s : State) (p : Fin 16),
    (∀ (k : Byte) (v : W64), s.running p = true → k ≠ 0x24 → exec (.postNotice p k v) s = .next (s.updPart p (fun x =>
      if x.notices.length < 256 then { x with notices := x.notices ++ [⟨k.toNat, v.toNat, s.gridFrame⟩] }
      else { x with heldPost := [(⟨k.toNat, v.toNat, 0⟩, s.runFrame)] }))) ∧
    (∀ (u : State) (v : W64) (pl : PlateImage) (e : ProofSpec) (a q : Nat) (r : Nat × Nat × Bool), s.settle = u → u.running p = true →
      (u.part p).plate = some pl → pl.body.proofs[bits v.toNat 0 16]? = some e → u.phys p (e.addr / 2 ^ 26) = some q →
      a = q * 2 ^ 26 + e.addr % 2 ^ 26 → vatPopulated (a / 32 * 32) = true → vatPopulated (a / 32 * 32 + 32) = true →
      u.proofEntry p e = r → ∃ w, exec (.postNotice p 0x24 v) s = .next (w.postNotice p ⟨0x24, v.toNat, 0⟩) ∧
        (∀ i < 17, (mget 0 w.vat (a + i)).toNat =
          bits (r.1 + r.2.1 * 2 ^ 64 + (b2n r.2.2 + 2 * b2n e.isPartial) * 2 ^ 128) (8 * i) 8) ∧
        VatWordsKept [a / 32 * 32, a / 32 * 32 + 32] u w ∧ Changes [.vat, .vatCode] u w) ∧
    (∀ (n : Notice) (f : Nat) (i : Instr), (s.part p).wait = none → (s.part p).heldPost = [(n, f)] → s.started p = true → f < s.runFrame →
      (i = .waitRelease p ∨ i = .peerTimeout p ∨ i = .noticePostResume p) →
      (∀ k, s.stopDue p = some k → exec i s = .next ((s.takeStop p (bpNumber (s.part p).plate (s.part p).seg ((s.part p).heldFrame f))
        ((s.part p).heldFrame f) k).reclass p (s.frameClass p))) ∧
      (s.stopDue p = none → (s.part p).notices.length < 256 → ∃ t, exec i s = .next t ∧ (t.part p).heldPost = [] ∧
        (t.part p).notices = (s.part p).notices ++ [{ n with frame := s.gridFrame }] ∧
        (t.part p).segStart = s.runFrame - (s.part p).heldFrame f ∧ (t.part p).seg = (s.part p).seg ∧
        (∀ q, q ≠ p.val → t.part q = s.part q) ∧ { t with parts := s.parts } = s))) ∧
  (∀ (s : State) (p : Fin 16), s.running p = true → (s.part p).notices.length < 256 →
    ∃ t, exec (.stepCommit p) s = .next t ∧ (t.part p).commits = (s.part p).commits + 1 ∧
      (t.part p).notices = (s.part p).notices ++ [⟨0x20, ((s.part p).commits + 1) % 2 ^ 32, s.gridFrame⟩] ∧
      (∀ q, q ≠ p.val → t.part q = s.part q) ∧ { t with parts := s.parts } = s)

/-- The frame strobe of a part whose fast clocks run does the plates' work of the frame that ends, then counts the new frame in
PKG_GRID_FRAME, and in PKG_RUN_FRAME where it runs, and puts the edge slots last set into force. A measurement window whose end has
been reached is reported: each partition's words, starting with the window's start and its frame counts. A write of PART_MEAS_CFG
with measurement running sets the length of the next window. -/
def Obligations.FramesAndMeasurementsAreCounted : Prop :=
  (∀ s u : State, s.framesRun = true → u = (if s.grid.cur then s.runWork (64 * (s.runFrame + 1)) else s) →
    ∃ t, exec .frameStart s = .next t ∧
      t.rd PKG_GRID_FRAME_gridFrame 0 = (u.rd PKG_GRID_FRAME_gridFrame 0 + 1) % 2 ^ 64 ∧
      t.rd PKG_RUN_FRAME_runFrame 0 = (if u.grid.next then (u.rd PKG_RUN_FRAME_runFrame 0 + 1) % 2 ^ 64
        else u.rd PKG_RUN_FRAME_runFrame 0) ∧
      t.slotCfg = (u.reg (VAT_SLOT_CFG_slots.addr 0)).toNat ∧ t.grid.cur = u.grid.next) ∧
  ((∀ (s : State) (p : Fin 16), s.measOn = true → s.measEnd ≤ s.dt → ∃ t, exec .measWindowEnd s = .next t ∧
    t.reg (PART_MEAS_word.addr (8 * p)) = BitVec.ofNat 64 s.measStart ∧
    t.reg (PART_MEAS_word.addr (8 * p + 1)) = BitVec.ofNat 64 (s.part p).meas.runSeg ∧
    t.reg (PART_MEAS_word.addr (8 * p + 2)) = BitVec.ofNat 64 (s.part p).meas.skipSeg ∧
    (t.part p).meas = {} ∧ t.vat = s.vat ∧ t.stk = s.stk) ∧
  (∀ (s : State) (src : Src) (v : W64), s.serves src (PART_MEAS_CFG_window.addr 0) = true → s.measOn = true →
    exec (.measCfgWrite src v) s =
      .next { s.wr PART_MEAS_CFG_window 0 (v.toNat % 2 ^ 32) with measNext := some (v.toNat % 2 ^ 32) }))
/-! ### Arithmetic -/

/-- A sum N × 2^s is rounded once to FP32 (R49): 0 gives +0; a magnitude below 2^-126 goes to the nearest multiple of 2^-149, any
other to the nearest value of 24 significant bits, ties to even; a rounded magnitude of 2^128 or more becomes an infinity; the
sign is that of N. -/
def Obligations.SumsRoundToNearest : Prop :=
  (∀ s : Int, roundFp32 0 s = 0#32) ∧
  (∀ n s : Int, n ≠ 0 → ∃ (q : Int) (m : Nat), ∀ x y : ℚ, x = (n.natAbs : ℚ) * 2 ^ s → y = (m : ℚ) * 2 ^ q →
    (x < 2 ^ (-126 : Int) → q = -149) ∧ (2 ^ (-126 : Int) ≤ x → 2 ^ (q + 23) ≤ x ∧ x < 2 ^ (q + 24)) ∧
    2 * |x - y| ≤ 2 ^ q ∧ (2 * |x - y| = 2 ^ q → m % 2 = 0) ∧
    (y < 2 ^ (128 : Int) → ∃ (k : Nat) (e : Int), dec32 (roundFp32 n s) = .fin (decide (n < 0)) k e ∧ (k : ℚ) * 2 ^ e = y) ∧
    (2 ^ (128 : Int) ≤ y → dec32 (roundFp32 n s) = .inf (decide (n < 0))))

/-! ### Press engines -/

/-- A Press load of a running plate enters the work of its engine, its words each with its cycle. A load that meets no hazard
takes the words of the cycle; with the last of them a tile slot holds the codes and marks of the tensor's elements, zero outside
it, usable 4 cycles later, and a row slot does when the last word that the row needs has come; a load with words left goes on at
the next of their cycles, and its tile is not usable until then. Other slots, the rest of the engine, other engines and the Vat
stay. A load that writes a tile a pass still reads stops the partition with cause 2. -/
def Obligations.PressLoadsFillTheirBuffers : Prop :=
  (∀ (s : State) (p : Fin 16) (d : Words4) (takes : List Nat) (c : PressCtx) (ts : List Nat), s.pressCtx p d = c →
    takes.map (c.base + ·) = ts → s.pressReady p d takes →
    ((Instr.statLoad p d takes).wf = true →
      exec (.statLoad p d takes) s = .next (s.plan p [(ts.headD c.t0, .load d (List.zip c.words ts) [])])) ∧
    ((Instr.streamLoad p d takes).wf = true →
      exec (.streamLoad p d takes) s = .next (s.plan p [(ts.headD c.t0, .load d (List.zip c.words ts) [])]))) ∧
  (∀ (s : State) (p : Fin 16) (T : Nat) (d : Words4) (rest : List (Nat × Nat)) (got : Words) (c : PressCtx)
    (look : Nat → W256 × Bool) (n : Nat), s.pressCtx p d = c → s.onlyAct p T (.load d rest got) →
    (∀ o, look o = if rest.any (fun x => x.1 == o && x.2 == T) then s.look p c.t o else got.word (0, true) o) →
    n = Nat.min (classDepth c.d.cls) (c.t.ext 0 - c.d.o0) →
    (c.d.kind = 1 → tileBusy (s.press.get c.eng) c.d.slot T = false → ∃ t, s.partCycle p T = t ∧
      ((∀ x ∈ rest, x.2 = T) → ∃ sl, (t.press.get c.eng).tiles.get c.d.slot = sl ∧ sl.usable = T + 4 ∧ sl.fmt = c.t.fmt ∧
        sl.cls = c.d.cls ∧ Planned s p T [] t ∧
        ∀ k i, k < c.d.ncols → i < 512 → ((sl.elems.get (512 * k + i), sl.marks.get (512 * k + i)) : Nat × Bool) =
          if c.d.o1 + k < c.t.ext 1 ∧ i < n then elemAt look c.t [c.d.o1 + k] (c.d.o0 + i) else (0, false)) ∧
      ((∃ x ∈ rest, x.2 ≠ T) → T + 4 < ((t.press.get c.eng).tiles.get c.d.slot).usable ∧ ∃ T' got', (∃ x ∈ rest, x.2 = T' ∧ T' ≠ T) ∧
        (∀ x ∈ rest, x.2 ≠ T → T' ≤ x.2) ∧ Planned s p T [(T', .load d (rest.filter (fun x => x.2 != T)) got')] t ∧
        ∀ o, Words.word (0, true) got' o = look o) ∧
      (∀ j, j ≠ c.d.slot → (t.press.get c.eng).tiles.get j = (s.press.get c.eng).tiles.get j) ∧
      { t.press.get c.eng with tiles := (s.press.get c.eng).tiles } = s.press.get c.eng ∧
      (∀ e, e ≠ c.eng → t.press.get e = s.press.get e) ∧ Changes (.press :: .work :: logPieces) s t ∧ OnlyLogRegs s t) ∧
    (c.d.kind = 1 → tileBusy (s.press.get c.eng) c.d.slot T = true → Hazard s p T 2 c.eng (s.partCycle p T)) ∧
    (c.d.kind = 2 → (∀ r < c.d.rows, rowBusy (s.press.get c.eng) (c.d.rowSlot + r) T = false) → ∃ t, s.partCycle p T = t ∧
      (∀ r < c.d.rows, (∃ o ∈ rowNeeds c r, (o, T) ∈ rest) → (∀ o ∈ rowNeeds c r, (o, T) ∈ rest ∨ got.has o = true) →
        ∃ sl, (t.press.get c.eng).rows.get (c.d.rowSlot + r) = sl ∧ sl.usable = T + 4 ∧ sl.fmt = c.t.fmt ∧ sl.cls = c.d.cls ∧
          ∀ i < 512, ((sl.elems.get i, sl.marks.get i) : Nat × Bool) =
            if c.d.o1 + r < c.t.ext 1 ∧ i < n then elemAt look c.t [c.d.o1 + r] (c.d.o0 + i) else (0, false)) ∧
      (∀ j, j < c.d.rowSlot ∨ c.d.rowSlot + c.d.rows ≤ j → (t.press.get c.eng).rows.get j = (s.press.get c.eng).rows.get j) ∧
      { t.press.get c.eng with rows := (s.press.get c.eng).rows } = s.press.get c.eng ∧
      (∀ e, e ≠ c.eng → t.press.get e = s.press.get e) ∧ Changes (.press :: .work :: logPieces) s t ∧ OnlyLogRegs s t))

/-- A pass of a running plate enters the work of its engine. Its row i, in its cycle and without a hazard, gives the accumulator
elements of the row in all 512 columns the chain of their block sums, from zero for FIRST and from the held value for CONTINUE;
the next row follows in the next cycle; every other accumulator element, the tiles and rows and the rest of the state stay. A
hazard stops the partition with its cause. A held element whose parity does not hold is poisoned before it is used, and logged. -/
def Obligations.PassAccumulates : Prop :=
  (∀ (s : State) (p : Fin 16) (d : Words4), s.pressReady p d [] → (Instr.pass p d).wf = true →
    exec (.pass p d) s = .next (s.plan p [((s.pressCtx p d).t0, .pass d 0)])) ∧
  (∀ (s : State) (p : Fin 16) (T i : Nat) (d : Words4) (c : PressCtx) (e : PressEng), s.pressCtx p d = c → s.press.get c.eng = e →
    s.onlyAct p T (.pass d i) →
    (passHazards e c (T - i) i ((s.without p T).unfilled p c.eng (T - i) (c.d.acc + i)) = [] → e.par = [] →
      ∃ t, s.partCycle p T = t ∧
        (∀ j < 512, (t.press.get c.eng).at_ (c.d.acc + i) j =
          passElem (e.tiles.get c.d.slot) (e.rows.get (c.d.rowSlot + i)) j
            (Nat.min c.d.kLen (classDepth (e.tiles.get c.d.slot).cls)) c.d.cont (e.at_ (c.d.acc + i) j)) ∧
        (∀ r j, r ≠ c.d.acc + i → j < 512 → (t.press.get c.eng).at_ r j = e.at_ r j) ∧
        (t.press.get c.eng).passes = (if i = 0 then e.passes ++ [⟨T, c.d.rows, c.d.slot, c.d.rowSlot, c.d.acc⟩] else e.passes) ∧
        { t.press.get c.eng with acc := e.acc, passes := e.passes } = e ∧ (∀ x, x ≠ c.eng → t.press.get x = s.press.get x) ∧
        Planned s p T (if i + 1 < c.d.rows then [(T + 1, .pass d (i + 1))] else []) t ∧ Changes [.press, .work] s t) ∧
    (∀ h, passHazards e c (T - i) i ((s.without p T).unfilled p c.eng (T - i) (c.d.acc + i)) = [h] →
      Hazard s p T h c.eng (s.partCycle p T))) ∧
  (∀ (s : State) (p eng row n k : Nat), (s.press.get eng).par = [512 * row + k] → k < n → n ≤ 512 → ∃ t, s.pressParity p eng row n = t ∧
    (t.press.get eng).at_ row k = (((s.press.get eng).at_ row k).1, true) ∧ (t.press.get eng).par = [] ∧
    t.rd INT_LOG_STATUS_tail 0 ≠ s.rd INT_LOG_STATUS_tail 0)

/-- A drain and a fill of a running plate enter the work of their engine, each row with its cycle. A row of a drain whose write is
not pending reaches the Vat, as the tensor's elements in its format, and is counted where it holds poison; a row of a fill sets
its accumulator row from the Vat, usable 4 cycles later. The next row follows at its cycle; nothing else of the engine, no other
engine and no other word of the Vat changes. A row whose write is pending stops the partition with cause 6. Nothing is written
through a read-only descriptor. -/
def Obligations.DrainsAndFillsMoveTheAccumulators : Prop :=
  (∀ (s : State) (p : Fin 16) (d : Words4) (t : Nat) (takes : List Nat) (c : PressCtx), s.pressCtx p d = c →
    s.pressReady p d (t :: takes) →
    ((Instr.drain p d (t :: takes)).wf = true →
      exec (.drain p d (t :: takes)) s = .next (s.plan p [(c.base + t, .drain d 0 (takes.map (c.base + ·)))])) ∧
    ((Instr.fill p d (t :: takes)).wf = true →
      exec (.fill p d (t :: takes)) s = .next (s.plan p [(c.base + t, .fill d c.t0 0 (takes.map (c.base + ·)))]))) ∧
  (∀ (s : State) (p : Fin 16) (T r : Nat) (d : Words4) (ts : List Nat) (c : PressCtx) (ws : List (Nat × W256 × Bool)),
    s.pressCtx p d = c → s.onlyAct p T (.drain d r ts) → (s.press.get c.eng).par = [] → s.drainWrites p c r = ws →
    (∀ x ∈ ws, s.tAddr p c.t x.1 % 32 = 0) →
    (c.t.ro = true → ws = []) ∧
    (accPending (s.press.get c.eng) (c.d.acc + r) T = false → ∃ t, s.partCycle p T = t ∧
      (∀ x ∈ ws, t.vatWord (s.tAddr p c.t x.1) = x.2.1 ∧ t.vatCodeAt (s.tAddr p c.t x.1) = eccCode x.2.1 x.2.2) ∧
      VatWordsKept (ws.map (fun x => s.tAddr p c.t x.1)) s t ∧
      t.rd PRESS_POISON_DRAINS_count 0 = (s.rd PRESS_POISON_DRAINS_count 0 +
        b2n ((drainTake (s.press.get c.eng) c r).any (·.2))) % 2 ^ 64 ∧
      Planned s p T (match ts with
        | [] => []
        | u :: us => [(u, .drain d (r + 1) us)]) t ∧
      Changes [.vat, .vatCode, .work, .regs] s t ∧ RegsKept [PRESS_POISON_DRAINS_count.addr 0] s t) ∧
    (accPending (s.press.get c.eng) (c.d.acc + r) T = true → Hazard s p T 6 c.eng (s.partCycle p T))) ∧
  (∀ (s : State) (p : Fin 16) (T t0 r : Nat) (d : Words4) (ts : List Nat) (c : PressCtx), s.pressCtx p d = c →
    s.onlyAct p T (.fill d t0 r ts) →
    (accPending (s.press.get c.eng) (c.d.acc + r) (T + 4) = false → (s.press.get c.eng).par = [] → ∃ t, s.partCycle p T = t ∧
      (∀ j < 512, (t.press.get c.eng).at_ (c.d.acc + r) j = s.fillVal p c r j) ∧
      (∀ q j, q ≠ c.d.acc + r → j < 512 → (t.press.get c.eng).at_ q j = (s.press.get c.eng).at_ q j) ∧
      (t.press.get c.eng).fills.get (c.d.acc + r) = T + 4 ∧
      { t.press.get c.eng with acc := (s.press.get c.eng).acc, fills := (s.press.get c.eng).fills } = s.press.get c.eng ∧
      (∀ e, e ≠ c.eng → t.press.get e = s.press.get e) ∧
      Planned s p T (match ts with
        | [] => []
        | u :: us => [(u, .fill d t0 (r + 1) us)]) t ∧
      Changes (.press :: .work :: logPieces) s t ∧ OnlyLogRegs s t) ∧
    (accPending (s.press.get c.eng) (c.d.acc + r) (T + 4) = true → Hazard s p T 6 c.eng (s.partCycle p T)))

/-! ### Burin cores -/

/-- A kernel call of a running plate, such as the plate can hold, enters the work of its core: the words of code that it brings,
the start of the kernel and the end of its reservation. A native kernel starts with every register zero and every line unmarked,
and runs its operations from the first; the other cores, partitions, requests and the stacks stay, and of the registers only those
of a fault event change. A core still running when its reservation ends stops the partition with cause 7; one that has ended stays
as it is. BURIN_OVERRUN runs the partition's work to the pc of that end. -/
def Obligations.KernelCallsRunOrOverrun : Prop :=
  (∀ (s : State) (p lq : Fin 16) (core : Fin 8) (start offset : Nat) (descs : List Nat) (res : Nat) (patch : List CodePatch)
    (slots : List Nat) (b T : Nat) (pl : PlateImage) (evs : List (Nat × Act)), s.coreOf p lq core = b → T = s.segPc p + start →
    (s.part p).plate = some pl → evs = (patch.flatMap (s.patchWords p lq)).map (fun e => (e.1, Act.patch b e.2.1 e.2.2)) →
    s.inTime p (T :: evs.map (·.1)) → s.kernelOk p lq core start offset descs res patch slots = true →
    exec (.kernelCall p lq core offset descs ⟨start, res⟩ patch slots) s = .next (s.plan p (evs ++
      [(T, .call b offset (descs.map (fun i => pl.body.descs.getD i [])) (slots.map (s.segPc p + ·)) res), (T + res, .callEnd b)]))) ∧
  (∀ (s : State) (p : Fin 16) (T b offset res : Nat) (descs : List (List W64)) (slots : List Nat) (body : KBody),
    s.onlyAct p T (.call b offset descs slots res) → (s.burin.get b).code.get offset = some body →
    ∃ t, s.partCycle p T = t ∧ (∀ x, x ≠ b → t.burin.get x = s.burin.get x) ∧
      Changes (.vat :: .vatCode :: .burin :: .work :: logPieces) s t ∧ OnlyLogRegs s t ∧
      ∀ ops, body = .native ops → ∃ k, t = (KState.run ops 8 k).s ∧ k.b = b ∧ k.p = p.val ∧ k.T = T ∧
        k.call = some { body := body, descs := descs, slots := slots, start := 2 * T, now := 2 * T, endT := 2 * (T + res) } ∧
        (∀ r i, vLane k.core r i = (0, false)) ∧ (∀ r, sVal k.core r = (0, false) ∧ pVal k.core r = 0) ∧
        (∀ w, localAt k.core w = (0, false, .clean)) ∧ k.core.stores = (s.burin.get b).stores ∧
        k.core.code = (s.burin.get b).code ∧ Changes [.burin, .work] s k.s) ∧
  (∀ (s : State) (p : Fin 16) (T b : Nat), s.onlyAct p T (.callEnd b) →
    (∀ c, (s.burin.get b).call = some c → c.endT = 2 * T → Hazard s p T 7 (0x80 + b) (s.partCycle p T)) ∧
    ((s.burin.get b).call = none → s.partCycle p T = s.without p T)) ∧
  (∀ (s : State) (p lq : Fin 16) (core : Fin 8) (pc : Fin 64) (b T : Nat), s.coreOf p lq core = b → s.running p = true →
    T = 64 * s.runFrame + pc → (s.burin.get b).call.isSome = true →
    exec (.burinOverrun p lq core pc) s = .next (s.runWork (T + 1)) ∧
    (s.work = [⟨T, p, .callEnd b⟩] → s.plateT ≤ T →
      exec (.burinOverrun p lq core pc) s = .next { s.partCycle p T with plateT := T + 1 }))

/-- A lane operation of a kernel gives each of the 32 lanes its result from the lanes read before any is written, poisoned
where an operand is, keeps the other vector registers and goes to the next operation. A load's last slot gives its register the
lanes of the tensor, as the words were taken. -/
def Obligations.KernelLanesCompute : Prop :=
  (∀ (k : KState) (d a b x : Nat) (c : Call), d < 32 → k.call = some c →
    (∀ op : FBin, ∃ k', k.exec1 (.fbin op d a b) = some k' ∧ k'.call = some { c with pc := c.pc + 1 } ∧
      (∀ i < 32, vLane k'.core d i = (fbinOf op (vLane k.core a i).1 (vLane k.core b i).1, (vLane k.core a i).2 || (vLane k.core b i).2)) ∧
      (∀ r i, r < 32 → r ≠ d → i < 32 → vLane k'.core r i = vLane k.core r i)) ∧
    (∃ k', k.exec1 (.fma d a b x) = some k' ∧ k'.call = some { c with pc := c.pc + 1 } ∧
      (∀ i < 32, vLane k'.core d i = (ffma (vLane k.core a i).1 (vLane k.core b i).1 (vLane k.core x i).1,
        (vLane k.core a i).2 || (vLane k.core b i).2 || (vLane k.core x i).2)) ∧
      (∀ r i, r < 32 → r ≠ d → i < 32 → vLane k'.core r i = vLane k.core r i)) ∧
    (∀ op : FUn, ∃ k', k.exec1 (.fun1 op d a) = some k' ∧ k'.call = some { c with pc := c.pc + 1 } ∧
      (∀ i < 32, vLane k'.core d i = (funOf op (vLane k.core a i).1, (vLane k.core a i).2)) ∧
      (∀ r i, r < 32 → r ≠ d → i < 32 → vLane k'.core r i = vLane k.core r i)) ∧
    (∀ p, ∃ k', k.exec1 (.select d p a b) = some k' ∧ k'.call = some { c with pc := c.pc + 1 } ∧
      (∀ i < 32, vLane k'.core d i = ((if bit (pVal k.core p) i then vLane k.core a i else vLane k.core b i).1,
        (vLane k.core a i).2 || (vLane k.core b i).2)))) ∧
  (∀ (s : State) (p : Fin 16) (T b d t l0 row : Nat) (now : List Nat) (got : Words) (c : Call) (ds : TDesc)
    (look : Nat → W256 × Bool), d < 32 → s.onlyAct p T (.coreLoad b d t l0 row now [] got) → (s.burin.get b).call = some c →
    ds = TDesc.ofWords (c.descs.getD t []) →
    (∀ o, look o = if s.tAddr p ds o ∈ now then s.look p ds o else got.word (0, true) (s.tAddr p ds o)) →
    ∃ u, s.partCycle p T = u ∧
      (∀ i < 32, vLane (u.burin.get b) d i = loadLane look ds (rowIdx ds row) l0 (Nat.min (vecElems ds) (ds.ext 0 - l0)) i) ∧
      (∀ r i, r < 32 → r ≠ d → i < 32 → vLane (u.burin.get b) r i = vLane (s.burin.get b) r i) ∧
      (∀ x, x ≠ b → u.burin.get x = s.burin.get x) ∧ Changes (.burin :: .work :: logPieces) s u ∧ OnlyLogRegs s u)

/-- BURIN_STORE_DRAIN gives a core of a running plate a slot. There its oldest store, and the next one where it lies in another
bank, reach the Vat where the slot's banks allow and no earlier load of the word is in flight; they leave the buffer, and nothing
else changes but that a core that is running goes on in the next cycle. -/
def Obligations.StoresDrainInOrder : Prop :=
  (∀ (s : State) (p lq : Fin 16) (core : Fin 8) (cycle : Nat), s.inTime p [s.segPc p + cycle] → (s.phys p lq).isSome = true →
    exec (.burinStoreDrain p lq core cycle) s = .next (s.plan p [(s.segPc p + cycle, .coreDrain (s.coreOf p lq core))])) ∧
  (∀ (s : State) (p : Fin 16) (T b : Nat) (now : List Store), s.onlyAct p T (.coreDrain b) →
    (s.without p T).storesNow p b T = now → (∀ e ∈ now, e.addr % 32 = 0) →
    ∃ t, s.partCycle p T = t ∧ now <+: (s.burin.get b).stores ∧ now.length ≤ 2 ∧
      (∀ e ∈ now, t.vatWord e.addr = e.data ∧ t.vatCodeAt e.addr = eccCode e.data e.poison) ∧
      VatWordsKept (now.map (·.addr)) s t ∧
      t.burin.get b = { s.burin.get b with stores := (s.burin.get b).stores.drop now.length } ∧
      (∀ x, x ≠ b → t.burin.get x = s.burin.get x) ∧
      ((s.burin.get b).call = none → Planned s p T [] t) ∧ Changes [.vat, .vatCode, .work, .burin] s t)

/-! ### Churns -/

/-- Churn transfers of a running plate enter the work of their half. XLOAD takes the next words of the broadcast path, one in each
bank cycle, each there in time, into the registers of every churn of its set, and stops the partition with cause 5 where one is
missing; ACC_OUT sends accumulators up the link and SUM_OUT the check sums, which it clears. Nothing else changes. -/
def Obligations.ChurnTransfers : Prop :=
  (∀ (s : State) (p : Fin 16) (d : Words4) (T : Nat), T = pcOfBc (s.churnIssue p d) → s.inTime p [T] →
    (s.phys p (ChurnCmd.ofWords d).lq).isSome = true →
    ((Instr.xload p d).wf = true → exec (.xload p d) s = .next (s.plan p [(T, .xload d 0)])) ∧
    ((Instr.accOut p d).wf = true → exec (.accOut p d) s = .next (s.plan p [(T, .churn d)])) ∧
    ((Instr.sumOut p d).wf = true → exec (.sumOut p d) s = .next (s.plan p [(T, .churn d)]))) ∧
  (∀ (s : State) (p : Fin 16) (T i : Nat) (d : Words4) (x : ChurnCtx) (bs : List Nat), s.churnAtBc p d (bcAt T - i) = x →
    s.churnSet x = bs → (Instr.xload p d).wf = true →
    (i = 0 → busyHaz x.half (s.seqAt x.half) bs (churnUses x.c bs.length) x.t0 = []) → s.onlyChurn p T (.xload d i) x.half [] →
    (∀ w rest, (s.seqAt x.half).feed = w :: rest → w.at_ ≤ bcAt T → s.parityHolds x.half bs →
      ∃ t, s.partCycle p T = t ∧ (t.seqAt x.half).feed = rest ∧ (t.seqAt x.half).up = (s.seqAt x.half).up ∧
        (∀ b ∈ bs, ∀ n < 16, churnReg (t.churnAt x.half b) (x.c.reg + i) n = (BitVec.ofNat 16 (bits w.data.toNat (16 * n) 16), w.poison)) ∧
        (∀ b ∈ bs, ∀ r n, r ≠ x.c.reg + i → n < 16 → churnReg (t.churnAt x.half b) r n = churnReg (s.churnAt x.half b) r n) ∧
        (∀ b ∈ bs, { t.churnAt x.half b with v := (s.churnAt x.half b).v } = s.churnAt x.half b) ∧
        Planned s p T (if i + 1 < x.c.count then [(pcOfBc (bcAt T + 1), .xload d (i + 1))] else []) t ∧
        ChurnFrame x.half bs s t ∧ Changes [.churn, .seqs, .work] s t) ∧
    ((∀ w ∈ (s.seqAt x.half).feed.head?, bcAt T < w.at_) → ChurnHazard s p (bcAt T) ⟨x.half, 5, lowest bs⟩ (s.partCycle p T))) ∧
  (∀ (s : State) (p : Fin 16) (T : Nat) (d : Words4) (x : ChurnCtx) (bs : List Nat) (sent : List ((W256 × Bool) × List (Nat × Nat))),
    s.churnAtBc p d (bcAt T) = x → s.churnSet x = bs → busyHaz x.half (s.seqAt x.half) bs (churnUses x.c bs.length) x.t0 = [] →
    s.onlyChurn p T (.churn d) x.half [] →
    ((Instr.accOut p d).wf = true → s.parityHolds x.half bs →
      sent = (bs.flatMap (fun b => (upto x.c.count).flatMap (fun i => accWords (s.churnAt x.half b) (x.c.acc + i)))).map (fun w => (w, [])) →
      ∃ t, s.partCycle p T = t ∧ (t.seqAt x.half).up = (s.seqAt x.half).up ++
          sent.mapIdx (fun i w => ⟨w.1.1, w.1.2, x.t0 + 5 * (i / 256 + 1) + 24, w.2⟩) ∧
        (t.seqAt x.half).feed = (s.seqAt x.half).feed ∧ Planned s p T [] t ∧ ChurnFrame x.half [] s t ∧
        Changes [.seqs, .work] s t) ∧
    ((Instr.sumOut p d).wf = true →
      sent = bs.map (fun b => ((BitVec.ofNat 256 ((s.churnAt x.half b).cs + b * 2 ^ 32), false), (s.churnAt x.half b).rows)) →
      ∃ t, s.partCycle p T = t ∧ (t.seqAt x.half).up = (s.seqAt x.half).up ++
          sent.mapIdx (fun i w => ⟨w.1.1, w.1.2, x.t0 + 5 * (i / 256 + 1) + 24, w.2⟩) ∧
        (∀ b ∈ bs, t.churnAt x.half b = { s.churnAt x.half b with cs := 0, rows := [] }) ∧
        (t.seqAt x.half).feed = (s.seqAt x.half).feed ∧ Planned s p T [] t ∧ ChurnFrame x.half bs s t ∧
        Changes [.churn, .seqs, .work] s t))

/-- PMAX, PEXP and PSUM of a running plate enter the work of their half. PMAX puts the maximum of the unmasked lanes into lane 0
of the next accumulator; PEXP turns each lane into the scaled exponential of its distance to that maximum, +0 where masked; PSUM
puts the exact sum into lane 1. Poison follows the lanes read; no other lane, register or churn changes. -/
def Obligations.ChurnLaneCommands : Prop :=
  (∀ (s : State) (p : Fin 16) (d : Words4) (T : Nat), T = pcOfBc (s.churnIssue p d) → s.inTime p [T] →
    (s.phys p (ChurnCmd.ofWords d).lq).isSome = true →
    ((Instr.pmax p d).wf = true → exec (.pmax p d) s = .next (s.plan p [(T, .churn d)])) ∧
    ((Instr.pexp p d).wf = true → exec (.pexp p d) s = .next (s.plan p [(T, .churn d)])) ∧
    ((Instr.psum p d).wf = true → exec (.psum p d) s = .next (s.plan p [(T, .churn d)]))) ∧
  (∀ (s t : State) (p : Fin 16) (T : Nat) (d : Words4) (x : ChurnCtx) (bs : List Nat), s.churnAtBc p d (bcAt T) = x →
    s.churnSet x = bs → bs.Nodup → busyHaz x.half (s.seqAt x.half) bs (churnUses x.c bs.length) x.t0 = [] →
    s.onlyChurn p T (.churn d) x.half [] → s.parityHolds x.half bs → s.partCycle p T = t →
    (((Instr.pmax p d).wf = true ∨ (Instr.pexp p d).wf = true ∨ (Instr.psum p d).wf = true) →
      (∀ b ∈ bs, { t.churnAt x.half b with a := (s.churnAt x.half b).a } = s.churnAt x.half b) ∧
      ChurnFrame x.half bs s t ∧ Planned s p T [] t ∧ Changes [.churn, .seqs, .work] s t) ∧
    ((Instr.pmax p d).wf = true →
      (∀ b ∈ bs, churnLane (t.churnAt x.half b) (16 * (x.c.acc + 1)) =
        (reduceMax ((openLanes x.c).map (fun n => (churnLane (s.churnAt x.half b) (16 * x.c.acc + n)).1)),
         (openLanes x.c).any (fun n => (churnLane (s.churnAt x.half b) (16 * x.c.acc + n)).2))) ∧
      (∀ b ∈ bs, ∀ n, n ≠ 16 * (x.c.acc + 1) → churnLane (t.churnAt x.half b) n = churnLane (s.churnAt x.half b) n)) ∧
    ((Instr.pexp p d).wf = true →
      (∀ b ∈ bs, ∀ n < 16, churnLane (t.churnAt x.half b) (16 * x.c.acc + n) =
        (if bit x.c.mask n ∨ (churnLane (s.churnAt x.half b) (16 * x.c.acc + n)).1 = inf32 true then 0#32
         else exp2 (fmul (fsub (churnLane (s.churnAt x.half b) (16 * x.c.acc + n)).1
           (churnLane (s.churnAt x.half b) (16 * (x.c.acc + 1))).1) x.c.imm),
         (churnLane (s.churnAt x.half b) (16 * (x.c.acc + 1))).2 ||
           (openLanes x.c).any (fun n => (churnLane (s.churnAt x.half b) (16 * x.c.acc + n)).2))) ∧
      (∀ b ∈ bs, ∀ n, n < 16 * x.c.acc ∨ 16 * x.c.acc + 16 ≤ n →
        churnLane (t.churnAt x.half b) n = churnLane (s.churnAt x.half b) n)) ∧
    ((Instr.psum p d).wf = true →
      (∀ b ∈ bs, churnLane (t.churnAt x.half b) (16 * (x.c.acc + 1) + 1) =
        (blockSum ((upto 16).map (fun n => dec32 (churnLane (s.churnAt x.half b) (16 * x.c.acc + n)).1)),
         (upto 16).any (fun n => (churnLane (s.churnAt x.half b) (16 * x.c.acc + n)).2))) ∧
      (∀ b ∈ bs, ∀ n, n ≠ 16 * (x.c.acc + 1) + 1 → churnLane (t.churnAt x.half b) n = churnLane (s.churnAt x.half b) n)))

/-- DOT, SCORE and WACC of a running plate enter the work of their half. Row k of a direct command that meets no hazard streams in
every churn of the set, and the next row follows after its words; a row that no open region of the command's row length holds
stops the partition with cause 1. An indirect one takes the next queue entry; one that names open rows streams in its bank's churn,
one that names none sets the result lanes of its class's churn to +0. -/
def Obligations.StreamingCommandsCompute : Prop :=
  (∀ (s : State) (p : Fin 16) (d : Words4) (T : Nat) (i : Instr), (i = .dot p d ∨ i = .score p d ∨ i = .wacc p d) → i.wf = true →
    T = pcOfBc (s.churnIssue p d) → s.inTime p [T] → (s.phys p (ChurnCmd.ofWords d).lq).isSome = true →
    exec i s = .next (s.plan p [(T, .stream d 0 none)])) ∧
  (∀ (s t : State) (p : Fin 16) (T k : Nat) (d : Words4) (x : ChurnCtx) (i : Instr) (next : Option (Nat × Nat × Nat) → List (Nat × Act)),
    s.churnAtBc p d (bcAt T - k * (ChurnCmd.ofWords d).rowLen) = x → (i = .dot p d ∨ i = .score p d ∨ i = .wacc p d) → i.wf = true →
    s.partCycle p T = t →
    (∀ pl, next pl = if k + 1 < streamRows x.c then [(pcOfBc (x.t0 + (k + 1) * x.c.rowLen), .stream d (k + 1) pl)] else []) →
    (∀ r, x.c.indirect = false → (k = 0 → busyHaz x.half (s.seqAt x.half) x.c.banks (churnUses x.c x.c.banks.length) x.t0 = []) →
      s.onlyChurn p T (.stream d k none) x.half (if k = 0 then x.c.banks else []) → churnRow x.c.rowLen x.c.pail x.c.row k = r →
      ((∀ b ∈ x.c.banks, s.openRow x.half b r.1 x.c.rowLen = true) → r.2 < 512 / x.c.rowLen → r.1 < 4096 →
        s.parityHolds x.half x.c.banks → (∀ b ∈ x.c.banks, s.Streams x b k r t) ∧ Planned s p T (next none) t ∧
        ChurnFrame x.half x.c.banks s t ∧ Changes [.churn, .seqs, .work] s t) ∧
      (∀ b, x.c.banks = [b] → s.openRow x.half b r.1 x.c.rowLen = false → ChurnHazard s p (bcAt T) ⟨x.half, 1, b⟩ t)) ∧
    (∀ (e : QEntry) (rest : List QEntry), k = 0 → x.c.indirect = true → (s.seqAt x.half).queue = e :: rest → e.at_ ≤ x.t0 →
      (∀ b pail row, s.entryPlace x e = some (b, pail, row) →
        busyHaz x.half (s.seqAt x.half) [b] (churnUses x.c 1) x.t0 = [] → s.onlyChurn p T (.stream d 0 none) x.half [b] →
        s.parityHolds x.half [b] → (t.seqAt x.half).queue = rest ∧ s.Streams x b 0 (churnRow x.c.rowLen pail row 0) t ∧
          Planned s p T (next (some (b, pail, row))) t ∧ ChurnFrame x.half [b] s t ∧ Changes [.churn, .seqs, .work] s t) ∧
      (s.entryPlace x e = none → busyHaz x.half (s.seqAt x.half) [x.c.first] (churnUses x.c 1) x.t0 = [] →
        s.onlyChurn p T (.stream d 0 none) x.half [] → (t.seqAt x.half).queue = rest ∧
          t.churnAt x.half x.c.first = nullResult x.c (s.churnAt x.half x.c.first) (e.poison || e.place.isSome) ∧
          ChurnFrame x.half [x.c.first] s t ∧ Changes (.churn :: .seqs :: .work :: .parts :: logPieces) s t ∧ OnlyLogRegs s t)))

/-! ### Plate DMA -/

/-- READ and COLLECT of a running plate enter the work of the DMA engine, a plain READ as one read of each of its words, which
lands in the Vat at its own cycle. A stack word is read and put on its way with its poison and that of the link; a word that lands
in the Vat stands there with its check bits; COLLECT puts there the oldest word that has come up the link, and nothing where none
has. No other byte of the Vat, nothing in the stacks and no other half changes. -/
def Obligations.ReadAndCollectWriteTheVat : Prop :=
  (∀ (s : State) (p : Fin 16) (d : DmaSpec) (half q' : Nat), s.phys p d.lq = some half → s.phys p (landLq d) = some q' →
    s.inTime p ((s.readWork p d).map (·.1)) → s.readOk p d = true →
    exec (.read p d) s = .next (s.plan p (s.readWork p d)) ∧
    (d.skim = none → (s.readWork p d).length = d.words ∧ ∀ i < d.words, (s.readWork p d)[i]? =
      some (pcOfBc (s.segBc p + d.bcs.getD i 0), .get (half * 2 ^ 35 + d.off + 32 * i)
        [(.vat (q' * 2 ^ 26 + (d.vat + 32 * i)) (landPort half q'), s.segPc p + d.takes.getD i 0)] (errOf d.errs half q' i)))) ∧
  (∀ (s : State) (p lq : Fin 16) (words vat q : Nat) (takes : List Nat) (errs : List LinkErr), s.phys p lq = some q →
    vatRangeOk vat words = true → takes.length = words → s.slotsOk p lq 0x21 (List.zip takes (s.landAddrs p lq vat words)) = true →
    (List.zip takes (takes.drop 1)).all (fun e => decide (e.1 ≤ e.2)) = true → s.inTime p (takes.map (s.segPc p + ·)) →
    exec (.collect p lq words vat ⟨takes, errs⟩) s = .next (s.plan p
      (takes.mapIdx (fun i t => (s.segPc p + t, .collect q (q * 2 ^ 26 + (vat + 32 * i)) (errOf errs q q i)))))) ∧
  (∀ (s t : State) (p : Fin 16) (T : Nat), s.partCycle p T = t →
    (∀ (a : Nat) (outs : List (Put × Nat)) (err : Option (Nat × Bool)), s.onlyAct p T (.get a outs err) →
      Planned s p T (outs.map (fun o => (o.2, .put o.1 (s.stkRead a).1 ((s.stkRead a).2 || err.any (·.2))))) t ∧
      (∀ e, err = some e → bit (t.rd INT_CLASS_SEEN_class 0) 2 = true) ∧
      Changes (.work :: .parts :: logPieces) s t ∧ OnlyReadRegs s t) ∧
    (∀ (a port : Nat) (w : W256) (poison : Bool), a % 32 = 0 → s.onlyAct p T (.put (.vat a port) w poison) →
      t.vatWord a = w ∧ t.vatCodeAt a = eccCode w poison ∧ VatWordsKept [a] s t ∧ Planned s p T [] t ∧
      Changes [.vat, .vatCode, .work] s t) ∧
    (∀ (a : Nat) (outs : List (Put × Nat)) (err : Option (Nat × Bool)), s.onlyAct p T (.take a outs err) →
      Planned s p T (outs.map (fun o => (o.2, .put o.1 (s.vatSees a).1 ((s.vatSees a).2 || err.any (·.2))))) t ∧
      Changes (.work :: logPieces) s t ∧ OnlyLogRegs s t) ∧
    (∀ (half a : Nat) (err : Option (Nat × Bool)), a % 32 = 0 → s.onlyAct p T (.collect half a err) →
      (∀ w rest, (s.seqAt half).up = w :: rest → w.at_ ≤ bcAt T → t.vatWord a = w.data ∧
        t.vatCodeAt a = eccCode w.data (w.poison || err.any (·.2)) ∧ VatWordsKept [a] s t ∧
        (t.seqAt half).up = rest ∧ (t.seqAt half).delivered.get a = w.rows ∧
        { t.seqAt half with up := (s.seqAt half).up, delivered := (s.seqAt half).delivered } = s.seqAt half ∧
        (∀ h, h ≠ half → t.seqAt h = s.seqAt h) ∧ Changes (.vat :: .vatCode :: .seqs :: .work :: logPieces) s t ∧ OnlyLogRegs s t) ∧
      ((∀ w ∈ (s.seqAt half).up.head?, bcAt T < w.at_) → t = s.without p T)))

/-- WRITE of a running plate enters the work of the DMA engine: each word is taken from the Vat at its cycle and lands in the
stack, or in the Vat of another die, at another, and the sums of the check rows that it covers follow. A word that lands in a
sealed region stands with its check bits; in an open one, as part of a whole check row, with zero code bits, and alone not at all.
A row-sum entry records the sum of the row's words, XOR 1 where one was poisoned. No other byte of the stacks changes. -/
def Obligations.WriteStoresTheStack : Prop :=
  (∀ (s : State) (p : Fin 16) (d : DmaSpec) (half : Nat), s.phys p d.lq = some half → s.writeOk p d = true →
    (d.hop = none → s.inTime p ((s.writeWork p d).map (·.1)) → exec (.write p d) s = .next (s.plan p (s.writeWork p d)) ∧
      ∀ i < d.words, ∃ whole, (s.writeWork p d)[i]? = some (s.segPc p + d.takes.getD i 0, .take (half * 2 ^ 26 + (d.vat + 32 * i))
        [(.stk (half * 2 ^ 35 + d.off + 32 * i) whole, pcOfBc (s.segBc p + d.bcs.getD i 0))] (errOf d.errs half half i))) ∧
    (∀ q', d.hop.bind (s.phys p) = some q' → s.inTime p ((s.hopWork p d).map (·.1)) →
      exec (.write p d) s = .next (s.plan p (s.hopWork p d)) ∧
      ∀ i < d.words, ∃ err, (s.hopWork p d)[i]? = some (s.segPc p + d.takes.getD i 0, .take (half * 2 ^ 26 + (d.vat + 32 * i))
        [(.vat (q' * 2 ^ 26 + (d.off + 32 * i)) (landPort half q'), s.segPc p + d.bcs.getD i 0)] err))) ∧
  (∀ (s t : State) (p : Fin 16) (T a : Nat) (whole : Bool) (w : W256) (poison : Bool), a % 32 = 0 → s.partCycle p T = t →
    s.onlyAct p T (.put (.stk a whole) w poison) →
    (sealedKind (s.kindAt a) = true → t.stkWord a = w ∧ t.stkCodeAt a = eccCode w poison ∧ StkKept [a] s t ∧
      Changes [.stk, .stkCode, .held, .work] s t) ∧
    (s.kindAt a = 2 → whole = true → t.stkWord a = w ∧ t.stkCodeAt a = 0 ∧ StkKept [a] s t ∧
      (∀ x, s.rowOfWord a = some x → poison = true → x ∈ (t.seqAt (stkHalf a)).badRows) ∧ Changes [.stk, .stkCode, .seqs, .work] s t) ∧
    (s.kindAt a = 2 → whole = false → t = s.without p T) ∧ (s.kindAt a = 0 → Changes [.held, .work] s t)) ∧
  (∀ (s t : State) (p : Fin 16) (T half bank pail row e : Nat) (g : Region), s.partCycle p T = t →
    s.onlyAct p T (.sum half bank pail row) → s.kindOf half (pailRegion bank pail) = 2 → s.region half (pailRegion bank pail) = g →
    g.rowOk = true → g.sumOffset % 4 = 0 → e = sumAddr half g bank row →
    (t.sumEntry half g bank row).1 = (let sum := rowSum (s.rowData half bank pail row g.rowLen)
      if (s.seqAt half).badRows.contains (bank, pail, row) then sum ^^^ 1 else sum) ∧
    (bank, pail, row) ∉ (t.seqAt half).badRows ∧ StkKept [e / 32 * 32] s t ∧
    Changes [.stk, .stkCode, .seqs, .parts, .reqs, .work] s t)

/-- FILL_OPEN of a running plate enters the work of the DMA engine, from a plain source as a read of each word, which lands at its
own cycle, and the sum of each row. A word lands only in an open region, with zero code bits; nothing else changes. The words of a
curd are decoded once they are there and sent on, all poisoned where the curd is malformed, which is logged. -/
def Obligations.FillOpenMovesWords : Prop :=
  (∀ (s : State) (p lq : Fin 16) (d : FillSpec) (half : Nat), s.phys p lq = some half → s.fillOpenOk p lq d = true →
    s.inTime p ((s.fillOpenWork p lq d).map (·.1)) →
    exec (.fillOpen p lq d.base d.moves d.toFillCycles) s = .next (s.plan p (s.fillOpenWork p lq d)) ∧
    (d.skim = none → ∀ (i : Nat) (m : FillMove), d.moves[i]? = some m → (s.fillOpenWork p lq d)[i]? =
      some (pcOfBc (s.segBc p + m.rd), .get (half * 2 ^ 35 + d.base + 32 * m.src)
        [(.opened (half * 2 ^ 35 + m.dst), pcOfBc (s.segBc p + m.wr))] (errOf d.errs half half i)))) ∧
  (∀ (s t : State) (p : Fin 16) (T : Nat), s.partCycle p T = t →
    (∀ (a : Nat) (w : W256) (poison : Bool), a % 32 = 0 → s.onlyAct p T (.put (.opened a) w poison) →
      (s.kindAt a = 2 → t.stkWord a = w ∧ t.stkCodeAt a = 0 ∧ StkKept [a] s t ∧
        (∀ x, s.rowOfWord a = some x → poison = true → x ∈ (t.seqAt (stkHalf a)).badRows) ∧ Changes [.stk, .stkCode, .seqs, .work] s t) ∧
      (s.kindAt a ≠ 2 → t = s.without p T)) ∧
    (∀ (base B c : Nat) (outs : List (Nat × Put × Nat)) (r : List (W256 × Bool) × Bool), s.onlyAct p T (.curd base B c outs) →
      r = curdOf B (s.skimHeader base) ((curdWords base B c).map ((s.seqAt (stkHalf base)).coded.word (0, true))) →
      Planned s p T (outs.map (fun o => (o.2.2, .put o.2.1 (r.1.getD o.1 (0, true)).1 (r.1.getD o.1 (0, true)).2))) t ∧
      (r.2 = true → bit (t.rd INT_CLASS_SEEN_class 0) 1 = true ∧ ∀ w ∈ r.1, w.2 = true) ∧
      (∀ a ∈ curdWords base B c, (t.seqAt (stkHalf base)).coded.has a = false) ∧
      Changes (.seqs :: .work :: logPieces) s t ∧ OnlyLogRegs s t))

/-- FEED and QUEUE of a running plate enter the work of the DMA engine. A word of the Vat, or a zero word, leaves for the broadcast
path of its half and arrives 24 bank cycles later; the query word of a work-list entry is that of the row it names, a zero word for
an empty round; the entry of a pool puts a key and a value entry for each value row on the half's page-address queue. The Vat, the
stacks and every other half stay. -/
def Obligations.FeedAndQueueReachTheHalf : Prop :=
  (∀ (s : State) (p lq : Fin 16) (q : Nat) (takes : List Nat) (errs : List LinkErr), s.phys p lq = some q →
    s.inTime p (takes.map (s.segPc p + ·)) →
    (∀ l : List (Option Nat), s.feedOk p lq (.words l) takes = true → exec (.feed p lq (.words l) ⟨takes, errs⟩) s = .next (s.plan p
      ((List.zip l takes).mapIdx (fun i e => (s.segPc p + e.2, .feed q (e.1.map (q * 2 ^ 26 + ·)) (errOf errs q q i)))))) ∧
    (∀ (t : Nat) (rest : List Nat) (entry desc head : Nat), takes = t :: rest → s.feedOk p lq (.query entry desc head) takes = true →
      exec (.feed p lq (.query entry desc head) ⟨takes, errs⟩) s = .next (s.plan p
        ((s.segPc p + t, .takeIn (q * 2 ^ 26 + entry / 32 * 32)) ::
          rest.mapIdx (fun k u => (s.segPc p + u, .feedRow q (q * 2 ^ 26 + entry) desc head k (errOf errs q q k))))))) ∧
  (∀ (s : State) (p : Fin 16) (pool take entry half : Nat) (v : ServingSpec) (o : PoolSpec), s.serving p = some v →
    v.pools[pool]? = some o → s.phys p o.lq = some half → s.queueOk p pool take entry = true → s.inTime p [s.segPc p + take] →
    exec (.queue p pool take entry) s = .next (s.plan p [(s.segPc p + take, .queue half pool (half * 2 ^ 26 + entry))])) ∧
  (∀ (s t : State) (p : Fin 16) (T q : Nat), s.partCycle p T = t →
    (∀ (x : Option Nat) (err : Option (Nat × Bool)), s.onlyAct p T (.feed q x err) →
      (t.seqAt q).feed = (s.seqAt q).feed ++ [⟨(x.elim (0, false) s.vatSees).1, (x.elim (0, false) s.vatSees).2 || err.any (·.2),
        bcAt T + 24, []⟩] ∧
      { t.seqAt q with feed := (s.seqAt q).feed } = s.seqAt q ∧ (∀ h, h ≠ q → t.seqAt h = s.seqAt h) ∧
      Changes (.seqs :: .work :: logPieces) s t ∧ OnlyLogRegs s t) ∧
    (∀ (entry desc head k : Nat) (err : Option (Nat × Bool)) (e : WorkItem) (d : TDesc), s.onlyAct p T (.feedRow q entry desc head k err) →
      e = entryOf (fun w => (s.seqAt q).taken.word (0, true) w) entry → s.plateDesc p desc = d →
      (∃ w : W256 × Bool, (t.seqAt q).feed = (s.seqAt q).feed ++ [⟨w.1, w.2 || err.any (·.2), bcAt T + 24, []⟩] ∧
        (e.bad = false → e.page ≠ -1 → 0 ≤ e.row → e.row < d.ext 2 → w = s.vatSees (s.tAddr p d (d.rowByte [head, e.row.toNat] + 32 * k))) ∧
        (e.bad = false → e.page = -1 → w = (0, false)) ∧ (e.bad = true → w = (0, true))) ∧
      Changes (.seqs :: .work :: logPieces) s t ∧ OnlyLogRegs s t) ∧
    (∀ (pool entry : Nat) (v : ServingSpec) (o : PoolSpec), s.onlyAct p T (.queue q pool entry) → s.serving p = some v →
      v.pools[pool]? = some o →
      (t.seqAt q).queue = (s.seqAt q).queue ++ queueEntries v o (bcAt T + 24) (entryOf s.vatSees entry) ∧
      { t.seqAt q with queue := (s.seqAt q).queue } = s.seqAt q ∧ (∀ h, h ≠ q → t.seqAt h = s.seqAt h) ∧
      Changes (.seqs :: .work :: logPieces) s t ∧ OnlyLogRegs s t))

/-- RSCHECK of a running plate enters the work of the DMA engine: the check sums are taken from the Vat, the table words that
cover them are read, and the comparison follows when all are there. Where every sum agrees with the recorded ones nothing but the
engine's own copies changes. Where one disagrees the mismatch is logged with code 0x0108 and recorded where the partition's record
is free, and a mark of each word of the result is planned for its cycle; a mark poisons its word and no other. -/
def Obligations.RowSumCheckJudges : Prop :=
  (∀ (s : State) (p lq : Fin 16) (sums nSums result nResult : Nat) (c : CheckCycles), s.rsOk p lq sums nSums result nResult c = true →
    s.inTime p ((s.rsWork p lq sums nSums result nResult c).map (·.1)) →
    exec (.rscheck p lq sums nSums ⟨result, nResult⟩ c) s = .next (s.plan p (s.rsWork p lq sums nSums result nResult c))) ∧
  (∀ (s t : State) (p : Fin 16) (T : Nat), s.partCycle p T = t →
    (∀ a, s.onlyAct p T (.takeIn a) → (t.seqAt (a / 2 ^ 26)).taken.word (0, true) a = s.vatSees a ∧
      (∀ b, b ≠ a → (t.seqAt (a / 2 ^ 26)).taken.word (0, true) b = (s.seqAt (a / 2 ^ 26)).taken.word (0, true) b) ∧
      Changes (.seqs :: .work :: logPieces) s t ∧ OnlyLogRegs s t) ∧
    (∀ (half k a : Nat) (sums : List Nat), s.onlyAct p T (.table half sums k) → (s.tableWords half sums)[k]? = some a →
      (t.seqAt half).coded.word (0, true) a = ((s.stkEcc a).data, (s.stkEcc a).res == .uncorrectable) ∧
      (∀ b, b ≠ a → (t.seqAt half).coded.word (0, true) b = (s.seqAt half).coded.word (0, true) b) ∧
      Changes (.seqs :: .work :: .parts :: logPieces) s t ∧ OnlyReadRegs s t) ∧
    (∀ (half : Nat) (sums : List Nat) (result : List (Nat × Nat)), s.onlyAct p T (.rsEnd half sums result) →
      ((∀ a ∈ sums, s.sumAgrees half a = true) → Planned s p T [] t ∧ Changes [.seqs, .work] s t) ∧
      (∀ a ∈ sums, s.sumAgrees half a = false → Planned s p T (result.map (fun e => (e.2, .mark e.1 true))) t ∧
        t.rd STK_ROWSUM_STATUS_valid p = 1 ∧ bit (t.rd INT_CLASS_SEEN_class 0) 1 = true ∧
        Changes (.seqs :: .work :: .parts :: logPieces) s t)) ∧
    (∀ a, a % 32 = 0 → s.onlyAct p T (.mark a true) → t.vatWord a = (s.vatEcc a).data ∧
      t.vatCodeAt a = eccCode (s.vatEcc a).data true ∧ VatWordsKept [a] s t ∧ Changes [.vat, .vatCode, .work] s t))

/-- The append step of a serving plate, given the keys and values of each row of the commit table: each row adds its positions to
its sequence, the commit table is empty after it, the words are planned for the stacks at their cycles, the sequences' pages and
prompts stay, and no other partition changes. -/
def Obligations.AppendStepAppends : Prop :=
  ∀ (s : State) (p : Fin 16) (rows : List AppendRow) (bcs : List Nat), s.inTime p (bcs.map (fun b => pcOfBc (s.segBc p + b))) →
    s.appendOk p rows bcs = true →
    ∃ t, exec (.appendStep p ⟨rows, bcs⟩) s = .next t ∧
      (∀ v, s.serving p = some v → (t.part p).append = [] ∧
        (∀ k, (t.reqs.get k).len = (s.reqs.get k).len + (rows.filter (fun a => a.slot == k)).length) ∧
        (∃ evs : List (Nat × Act), t.work = s.work ++ evs.map (fun e => ⟨e.1, p, e.2⟩) ∧
          evs.map (·.1) = bcs.map (fun b => pcOfBc (s.segBc p + b)))) ∧
      (∀ k, { t.reqs.get k with len := (s.reqs.get k).len, counted := (s.reqs.get k).counted } = s.reqs.get k) ∧
      (∀ q, q ≠ p.val → t.part q = s.part q) ∧
      { t.part p with
        append := (s.part p).append
        notices := (s.part p).notices
        heldPost := (s.part p).heldPost } = s.part p ∧
      Changes [.vat, .vatCode, .work, .reqs, .parts] s t

/-! ### Notices, requests and rings -/

/-- The firmware takes a partition's oldest notice by its kind: a PROOF notice, and one of a reserved kind, without action; a
SEND, in a frame after the one it was posted in, starts its entry's send after the ones before it, where the source is on the
port's die, and otherwise sends nothing; a GRANT of an OPEN group goes out on the window's links, of a FORMING one is held, of
another has no effect. A command that finds no notice of its kind there changes nothing, and a SEND waits for the next frame and
for an edge slot. -/
def Obligations.NoticesAreTaken : Prop :=
  ∀ (s : State) (p : Fin 16),
    (∀ (n : Notice) (rest : List Notice) (s1 : State), (s.part p).notices = n :: rest →
      s.updPart p (fun x => { x with notices := rest }) = s1 →
      (n.kind = 0x24 → exec (.proof p) s = .next s1) ∧
      (n.kind < 0x20 ∨ 0x24 < n.kind → exec (.reservedNotice p) s = .next s1) ∧
      (∀ (lq win use g : Nat) (feeds : List Nat), n.kind = 0x23 → lq = bits n.value 0 4 → win = bits n.value 4 5 →
        use = bits n.value 32 32 → s.feedsOf p lq win = some (g, feeds) →
        ((s.group p g).state = 2 → exec (.grant p) s = .next (s1.sendGrant p g lq win use feeds)) ∧
        ((s.group p g).state = 1 → exec (.grant p) s =
          .next (s1.updGroup p g (fun x => { x with heldGrants := x.heldGrants ++ [(lq, win, use)] }))) ∧
        ((s.group p g).state ≠ 1 → (s.group p g).state ≠ 2 → exec (.grant p) s = .next s1))) ∧
    (∀ (u : State) (m n : Notice) (l rest : List Notice), s.settle = u → (s.part p).notices = m :: l → (u.part p).notices = n :: rest →
      (s.gridFrame ≤ m.frame → exec (.send p) s = .next s) ∧ (s.edgeOpen 1 = false → exec (.send p) s = .next s) ∧
      (∀ (pl : PlateImage) (e : SendSpec) (d : TDesc), m.frame < s.gridFrame → s.edgeOpen 1 = true → n.kind = 0x22 →
        (u.part p).plate = some pl → pl.body.sends[n.value % 2 ^ 16]? = some e → TDesc.ofWords e.desc = d →
        (u.sendDieOk p e = false → exec (.send p) s = .next (u.updPart p (fun x => { x with notices := rest }))) ∧
        (u.sendDieOk p e = true → ∃ t, exec (.send p) s = .next t ∧
          t.sendings = u.sendings ++ [⟨p, n.value % 2 ^ 16, 4 * u.dieOf p e.die + e.port, e.group, some e.counter, e.use, e.peer,
            e.lq, e.window, writeCells 0 e.offset ((tensorWords d).map (u.sendWord p d)), none, false⟩] ∧
          (t.part p).notices = rest ∧ Changes [.parts, .sendings, .regs, .free] u t ∧ RegsKept (edgeRegs 1) u t))) ∧
    (∀ k, (s.part p).notices.head?.map (·.kind) = k →
      (k ≠ some 0x23 → exec (.grant p) s = .next s) ∧ (k ≠ some 0x24 → exec (.proof p) s = .next s) ∧
      (k = none → exec (.reservedNotice p) s = .next s ∧ exec (.send p) s = .next s)) ∧
    (∀ k, ((s.managed p).part p).notices.head?.map (·.kind) = k →
      (k ≠ some 0x20 → exec (.commit p) s = .next (s.managed p)) ∧ (k ≠ some 0x21 → exec (.pageFlush p) s = .next (s.managed p)))

/-- PAGE_FLUSH of a page of a shareable sequence: where the prefix tree has a node of that content under the node of the page
before it, the sequence takes the node's page in place of its own; where it has none, the page becomes a node with one more
reference and its parent has one more child. A request that does not share, and one whose earlier page is in no node, keeps its
page. -/
def Obligations.PageFlushEntersTheTree : Prop :=
  ∀ (s u : State) (p : Fin 16) (n : Notice) (rest : List Notice) (i j pg key : Nat) (ts : List Nat),
    s.managed p = u → (u.part p).notices = n :: rest → n.kind = 0x21 → i = bits n.value 0 10 → j = bits n.value 16 14 →
    (u.req i).pageAt j = some pg → ts = pageTokens (u.req i).tokens j → key = keyOf (rqDomain (u.req i).rec_) (u.req i).tokens j →
    ∃ t, exec (.pageFlush p) s = .next t ∧ (t.part p).notices = rest ∧ Changes listPieces u t ∧
      (∀ q, q ≠ p.val → t.pool q = u.pool q) ∧ (∀ k, k ≠ i → t.req k = u.req k) ∧
      (rqShare (u.req i).rec_ = false → t.pools = u.pools ∧ t.reqs = u.reqs) ∧
      (0 < j → (∀ q e, (u.req i).pageAt (j - 1) = some q → e ∈ (u.pool p).valid → e.2.page ≠ q) → t.pools = u.pools ∧ t.reqs = u.reqs) ∧
      (∀ par : Option Nat, rqShare (u.req i).rec_ = true →
        (j = 0 ∧ par = none ∨ 0 < j ∧ ∃ q e, (u.req i).pageAt (j - 1) = some q ∧
          (u.pool p).valid.find? (fun e => e.2.page == q) = some e ∧ par = some e.1) →
        (∀ e, (u.pool p).find key (rqDomain (u.req i).rec_) par ts = some e →
          (t.req i).pageAt j = some e.2.page ∧ (t.pool p).nodes = (u.pool p).nodes ∧
          (e.2.page ≠ pg → (t.pool p).counts.get e.2.page = (u.pool p).counts.get e.2.page + 1 ∧
            (t.pool p).counts.get pg = (u.pool p).counts.get pg - 1)) ∧
        ((u.pool p).find key (rqDomain (u.req i).rec_) par ts = none →
          t.reqs = u.reqs ∧ (t.pool p).counts.get pg = (u.pool p).counts.get pg + 1 ∧
          ∃ k, (par ≠ some k → (t.pool p).nodes.get k = ⟨key, rqDomain (u.req i).rec_, par, pg, u.dt, ts, 0, true⟩) ∧
            (∀ x, x ≠ k → par ≠ some x → (t.pool p).nodes.get x = (u.pool p).nodes.get x) ∧
            (∀ x, par = some x → x ≠ k → (t.pool p).nodes.get x =
              { (u.pool p).nodes.get x with children := ((u.pool p).nodes.get x).children + 1 })))

/-- COMMIT gives every live request of the partition its verdict from the candidates in the Vat: one that retires leaves its entry,
which is FREE or taken at once by a shipment; another has the state and tokens of its verdict; each function's entries make one
record, in order behind what waits; every row of the step stands in the commit table with its flag. Live requests of other
partitions stay. -/
def Obligations.CommitGivesVerdicts : Prop :=
  ∀ (s u : State) (p : Fin 16) (n : Notice) (rest : List Notice), s.managed p = u → (u.part p).notices = n :: rest → n.kind = 0x20 →
    ∃ t, exec (.commit p) s = .next t ∧
      (∀ v ∈ u.verdicts p,
        (v.2.req.st = .retired → (t.req v.1).st = .free ∨ (t.req v.1).st = .arriving ∧ (t.req v.1).admission = u.dt) ∧
        (v.2.req.st ≠ .retired → (t.req v.1).st = v.2.req.st ∧ (t.req v.1).gen = v.2.req.gen ∧
          (t.req v.1).holds = v.2.req.holds ∧ (t.req v.1).heldFor = v.2.req.heldFor)) ∧
      (∀ k, (u.req k).part ≠ p → (u.req k).st ≠ .free → t.req k = u.req k) ∧
      (∀ f < 64, u.on HIF_CQ_CFG_enable f = false → ∀ es,
        (u.verdicts p).filterMap (fun v => if v.2.req.vf = f then v.2.entry else none) = es →
        (t.cq f).waiting = (u.cq f).waiting ++ (if es.isEmpty then [] else
          [recordBytes 1 p f ((u.part p).commitNo n.value) u.dt es])) ∧
      (∀ e ∈ (u.part p).rows, (t.part p).committed.get e.slot = u.candidate p e.slot) ∧ (t.part p).prevCommit = u.dt ∧
      (t.part p).notices = rest ∧
      ((u.part p).rerun = none → (t.part p).append =
        (u.part p).rows.map (fun e => (e, (u.verdicts p).any (fun v => v.1 == e.slot && v.2.append)))) ∧
      (∀ q, q ≠ p.val → t.part q = u.part q) ∧
      Changes (listPieces ++ [.cqs, .ports, .wins, .groups, .free]) u t

/-- KV_VERIFY after a row-sum mismatch, or for a held request: the partition no longer waits for the check, no request of it is
held for its pools or tails, and where every page concerned agrees with its row sums and no tail is bad no page is lost. FORK
gives a FREE entry the live request's record, once no append of it is pending: without pages reserved and not yet written, the
same pages, each with one more reference, and of stack memory only the new tail slots and the counts change; with such pages, the
live request or the new one gets another. -/
def Obligations.VerifyAndFork : Prop :=
  ∀ (s u : State) (p : Fin 16) (v : ServingSpec), s.managed p = u → u.serving p = some v → mwf default u.reqs = true →
    ((u.part p).kvDirty = true ∨ (∃ i ∈ u.verifySlots p, (u.req i).heldFor ≠ []) →
      ∃ t, exec (.kvVerify p) s = .next t ∧ (t.part p).kvDirty = false ∧
      (∀ i, (u.req i).part = p → ∀ k ∈ (t.req i).heldFor, k ≠ faultPool ∧ k ≠ faultTail) ∧
      (∀ i, (u.req i).part ≠ p → (∀ e ∈ (u.part p).lastRows, e.slot ≠ i) → t.req i = u.req i) ∧
      ((∀ pg ∈ u.stepPages p, ∀ o ∈ v.pools, u.pageSumsOk p v o pg = true) → (∀ i, u.tailBad p v i = false) →
        t.pools = u.pools ∧ ∀ i, (t.req i).pages = (u.req i).pages ∧ (t.req i).len = (u.req i).len) ∧
      Changes listPieces u t) ∧
    (∀ a b : Fin 1024, (u.req a).live = true → (u.req a).part = p → (u.req b).st = .free →
      (∀ e ∈ (u.part p).append, e.1.slot = a → e.2 = false) →
      ∃ t, exec (.fork p a b) s = .next t ∧ { t.req b with pages := (u.req a).pages } = u.req a ∧
        { t.req a with pages := (u.req a).pages, classOff := (u.req a).classOff } = u.req a ∧
        (∀ k, k ≠ a.val → k ≠ b.val → t.req k = u.req k) ∧
        (reservedAt (u.req a) = [] → t.req b = u.req a ∧ t.req a = u.req a ∧ (t.pool p).nodes = (u.pool p).nodes ∧
          (∀ pg, (t.pool p).counts.get pg = (u.pool p).counts.get pg + ((u.req a).pages.filter (· == some pg)).length) ∧
          StkKept (v.pools.flatMap (fun o => (upto (16 * tokenBytes v.headDim / 32)).map (fun w => u.tailAddr p v o b 0 + 32 * w)) ++
            (u.req a).pages.filterMap (fun x => x.bind (fun pg => u.refWord p v (pg / 8)))) u t) ∧
        Changes (listPieces ++ [.free]) u t)

/-- An entry at the head of a ring that is taken. NOP only moves the head on; DMA joins its engine's queue; CANCEL marks its
request, or is refused by a record; SUBMIT enters the request in the lowest FREE entry, or is refused by a record. The head
and count of wraps are written back where the ring has an address for them. -/
def Obligations.RingEntriesAct : Prop :=
  ∀ (s u : State) (r : RingRead) (f i : Nat) (g : Ring), f = r.fn.val → i = 4 * r.fn.val + r.ring.val → ringReadOk r = true → r.dev = 0 →
    u.takes r.fn r.ring r.bytes = true → entryReserved r.bytes = false →
    g = (if (u.rings.get i).head + 1 = 2 ^ u.rd HIF_RQ_CFG_sizeLog2 i then ⟨0, !(u.rings.get i).phase, (u.rings.get i).wraps + 1⟩
      else { u.rings.get i with head := (u.rings.get i).head + 1 }) →
    (entryKind r.bytes = 0 → u = s → ∃ t, exec (.nop r) s = .next t ∧ t.rings.get i = g ∧ (∀ k, k ≠ i → t.rings.get k = s.rings.get k) ∧
      t.out = s.out ++ (if s.rd HIF_RQ_WB_addr i = 0 then [] else
        [.hostWrite (8 * s.rd HIF_RQ_WB_addr i) (leBytes 4 g.head ++ leBytes 4 g.wraps) []]) ∧
      Changes [.rings, .aon, .out] s t) ∧
    (entryKind r.bytes = 3 → u = s → ∃ t, exec (.dma r) s = .next t ∧ t.rings.get i = g ∧
      t.dmaQ.get r.ring = s.dmaQ.get r.ring ++ [⟨f, entryTag r.bytes, entryBody r.bytes⟩] ∧
      (∀ k, k ≠ r.ring.val → t.dmaQ.get k = s.dmaQ.get k) ∧ Changes [.rings, .aon, .out, .dmaQ] s t) ∧
    (entryKind r.bytes = 2 → u = s.managed (s.bound.get r.fn) → ∀ id, leAt (entryBody r.bytes) 0 4 = id →
      ∃ t, exec (.cancel r) s = .next t ∧ t.rings.get i = g ∧
      (∀ k, u.findReq f id = some k → (u.req k).st ≠ .shipping →
        t.req k = { u.req k with cancel := some ((u.req k).cancel.getD u.dt) } ∧ Changes [.rings, .aon, .out, .reqs] u t) ∧
      (u.findReq f id = none → t.reqs = u.reqs ∧ (u.on HIF_CQ_CFG_enable f = false → ∃ no, (t.cq f).waiting = (u.cq f).waiting ++
        [recordBytes 2 (u.bound.get f) f 0 u.dt [{ id := id, token := none, stepNo := no, status := 11, detail := 6 }]])) ∧
      (∀ k, k ∉ u.findReq f id → t.req k = u.req k) ∧
      Changes [.regs, .reqs, .cqs, .rings, .aon, .msixPend, .out, .free] u t) ∧
    (entryKind r.bytes = 1 → u = s.managed (s.bound.get r.fn) → ∃ t, exec (.submit r) s = .next t ∧ t.rings.get i = g ∧
      (∀ k, u.submitCause f (u.bound.get f) (entryBody r.bytes) = 0 → slots.find? (fun k => (u.req k).st == .free) = some k →
        (t.req k).st = .admitted ∧ (t.req k).vf = f ∧ (t.req k).part = u.bound.get f ∧ (t.req k).rec_ = (entryBody r.bytes).take 128 ∧
        (t.req k).admission = u.dt ∧
        (t.req k).prompt = (upto (rqPromptLen (entryBody r.bytes))).map (fun n => r.prompt.getD n 0)) ∧
      (u.submitCause f (u.bound.get f) (entryBody r.bytes) ≠ 0 → u.on HIF_CQ_CFG_enable f = false →
        (t.cq f).waiting = (u.cq f).waiting ++ [recordBytes 2 (u.bound.get f) f 0 u.dt
          [{ id := rqId (entryBody r.bytes), token := none, stepNo := rqStepBase (entryBody r.bytes), status := 11,
             detail := u.submitCause f (u.bound.get f) (entryBody r.bytes) }]]) ∧
      Changes (listPieces ++ [.rings, .cqs, .aon, .ports, .groups, .free]) u t)

/-- A ring tick of a part that scans its rings takes the consumed offsets read, leaves every completion ring's tail written
and `stalled` set exactly for the functions whose records wait; a part that does not scan is left as it is. -/
def Obligations.RingTickServesTheRings : Prop :=
  ∀ (s u : State) (reads : List RingRead) (consumed : List (Fin 64 × Nat)), reads.all ringReadOk = true →
    s.settle.each (upto 16) State.checkTree = u →
    (s.scans = false → exec (.ringTick reads consumed) s = .next s) ∧
    (s.scans = true → ∃ t, exec (.ringTick reads consumed) s = .next t ∧
      (∀ f < 64, (t.cq f).fresh = 0 ∧ (t.on HIF_FN_STATUS_stalled f = true ↔ (t.cq f).waiting ≠ [])) ∧
      (∀ (f : Fin 64) (c : Nat), consumed = [(f, c)] → u.rd HIF_CQ_HEAD_addr f ≠ 0 → (t.cq f).c = c % 2 ^ 64) ∧
      Changes (listPieces ++ [.aon, .rings, .cqs, .dmaQ, .ports, .wins, .groups, .sendings, .free]) u t)

/-! ### Cells, groups and shipments -/

/-- A port that exchanges codewords sends eight cells and its next tag: first a replayed cell, where the port's state lets it
leave, then the first cell of the egress queue that may leave. On an encrypted link seven cells go sealed under the key of the
direction, with a nonce of its own for each codeword, and a SEAL cell with their tag; a link whose keys have sealed 2^40 codewords
goes DOWN. A port without codewords sends nothing. -/
def Obligations.CodewordIsSent : Prop :=
  ∀ (s : State) (j : Fin 16),
    (codewords (s.portState j) = false → exec (.codewordTransmit j) s = .next s) ∧
    (codewords (s.portState j) = true → s.on LRT_PORT_STATUS_encrypted j = false →
      ∃ t cells, exec (.codewordTransmit j) s = .next t ∧ cells.length = 8 ∧
        t.out = s.out ++ [.codeword j cells (nextTag (s.port j).tags).1 false] ∧ (t.port j).tags = (nextTag (s.port j).tags).2 ∧
        (∀ c rest, (s.port j).resend = c :: rest →
          cells.head? = some (if sendsType (s.portState j) c.typ then c else sequenced (ctlCell 0 0 0 0) 0)) ∧
        (∀ i c, (s.port j).resend = [] → s.nextQueued j = some (i, c) →
          cells.head? = some (sequenced c (s.port j).txSeq) ∧ sequenced c (s.port j).txSeq ∈ (t.port j).replay) ∧
        (∀ k, k ≠ j.val → t.port k = s.port k) ∧ Changes [.regs, .ports, .groups, .sendings, .out] s t ∧
        RegsKept [LRT_PORT_REPLAY_replayed.addr j] s t) ∧
    (codewords (s.portState j) = true → s.on LRT_PORT_STATUS_encrypted j = true →
      (∀ k, (s.port j).keys = some k → (s.port j).cwCount < 2 ^ 40 →
        ∃ t cells, exec (.codewordTransmit j) s = .next t ∧ cells.length = 7 ∧
          t.out = s.out ++ [.codeword j ((Config.seal k.1 (s.port j).gcmNonce cells).1 ++
            [sealCell (bits (Config.seal k.1 (s.port j).gcmNonce cells).2.toNat 0 128)]) (nextTag (s.port j).tags).1 true] ∧
          (t.port j).cwCount = (s.port j).cwCount + 1 ∧ (∀ k, k ≠ j.val → t.port k = s.port k) ∧
          Changes [.regs, .ports, .groups, .sendings, .out] s t ∧ RegsKept [LRT_PORT_REPLAY_replayed.addr j] s t) ∧
      (2 ^ 40 ≤ (s.port j).cwCount → exec (.codewordTransmit j) s = .next ((s.portDown j 1).fault 0x0805 (.port j))))

/-- A received codeword: one that fails its checks is discarded and answered with a nak of the sequence expected; a good one
with an unsequenced rest delivers its in-order WRITE cell to the ingress buffer and acknowledges it. A port below LOW_TRAIN
receives nothing. -/
def Obligations.CodewordIsReceived : Prop :=
  ∀ (s : State) (j : Fin 16) (w : Codeword), w.cells.length ≤ 8 →
    (s.portState j ≤ 1 → exec (.codewordReceive j w) s = .next s) ∧
    (2 ≤ s.portState j → (w.bad = true ∨ ∃ c ∈ w.cells, c.typ ≠ 6 ∧ c.hcrc ≠ cellCrc c) → (s.port j).discards < 63 →
      ∃ t, exec (.codewordReceive j w) s = .next t ∧ (t.port j).ingress = (s.port j).ingress ∧
        (t.port j).tags = (s.port j).tags ++ [⟨3, (s.port j).rxSeq⟩] ∧ (t.port j).rxSeq = (s.port j).rxSeq ∧
        (t.port j).discards = (s.port j).discards + 1 ∧ (∀ k, k ≠ j.val → t.port k = s.port k) ∧ Changes [.regs, .ports] s t ∧
        RegsKept [LRT_PORT_FEC_corrected.addr j, LRT_PORT_REPLAY_naks.addr j] s t) ∧
    (∀ (c : LCell) (rest : List LCell), 2 ≤ s.portState j → w.bad = false → w.cells = c :: rest → w.tag.kind = 0 →
      (∀ x ∈ w.cells, x.typ ≠ 6 → x.hcrc = cellCrc x) → (s.on LRT_PORT_STATUS_encrypted j = true → w.gcmOk = true) →
      (∀ x ∈ rest, x.typ = 0 ∨ x.typ = 6) → c.typ = 1 → c.seq = (s.port j).rxSeq →
      ((s.port j).ingress.filter (fun e => !ctlType e)).length < 8192 →
      ∃ t, exec (.codewordReceive j w) s = .next t ∧ (t.port j).ingress = (s.port j).ingress ++ [c] ∧
        (t.port j).rxSeq = ((s.port j).rxSeq + 1) % 65536 ∧ ⟨2, c.seq⟩ ∈ (t.port j).tags ∧ (t.port j).discards = 0 ∧
        (∀ k, k ≠ j.val → t.port k = s.port k) ∧ Changes [.regs, .ports] s t ∧ RegsKept [LRT_PORT_FEC_corrected.addr j] s t)

/-- A WRITE cell that its window takes, once the plates' cycles of the frame are done: each present word stands at its destination
as its end-to-end check leaves it, no other byte of the Vat or of the stacks changes, and the window counts the bytes and the
cell; a stack word so where no streaming command and no earlier held write is in the way. One that its window refuses is dropped
with the first cause that applies, and writes nothing. A cell waits while one of its port that came before it has still to act,
and while no edge slot can carry its words. -/
def Obligations.WriteCellLands : Prop :=
  ∀ (s u : State) (j : Fin 16) (c : LCell) (k : Nat) (w : Win), s.settle = u → k = winKey (j / 4) c.window → u.win k = w →
    ((u.port j).turn c = false ∨ u.cellWaits j c = true → exec (.writeCell j c) s = .next u) ∧
    (∀ cause, u.hears j c 1 → u.cellWaits j c = false → u.writeCause j c = some cause → ∃ t, exec (.writeCell j c) s = .next t ∧
      t = (u.takeCell j c).dropCell j c cause ∧
      t.rd LRT_PORT_DROP_count (j * 8 + cause) = (u.rd LRT_PORT_DROP_count (j * 8 + cause) + 1) % 2 ^ 64 ∧
      t.vat = u.vat ∧ t.stk = u.stk ∧ (t.win k).drops = w.drops + 1) ∧
    (u.hears j c 1 → u.cellWaits j c = false → u.writeCause j c = none → u.repair = none →
      (∀ h ∈ u.held, h.win ≠ some (k, u.cellSeq)) →
      ((TDesc.ofWords w.desc).space = 1 → ∀ i < 2, u.streaming (stkHalf (u.winAddr w (64 * c.offset + 32 * i)))
        (stkBank (u.winAddr w (64 * c.offset + 32 * i))) = false ∧ u.waitsHeld (u.winAddr w (64 * c.offset + 32 * i)) = false) →
      ∃ t, exec (.writeCell j c) s = .next t ∧
        (∀ i < 2, bit c.mask i = true → ∀ a x, a = u.winAddr w (64 * c.offset + 32 * i) →
          x = landed (if i = 0 then c.w0 else c.w1) (if i = 0 then c.c0 else c.c1) →
          ((TDesc.ofWords w.desc).space = 0 → t.vatWord a = x.1 ∧ t.vatCodeAt a = x.2) ∧
          ((TDesc.ofWords w.desc).space = 1 → t.stkWord a = x.1 ∧ t.stkCodeAt a = x.2)) ∧
        ((TDesc.ofWords w.desc).space = 0 → t.stk = u.stk ∧
          VatWordsKept (((upto 2).filter (bit c.mask)).map (fun i => u.winAddr w (64 * c.offset + 32 * i))) u t) ∧
        ((TDesc.ofWords w.desc).space = 1 → t.vat = u.vat ∧
          StkKept (((upto 2).filter (bit c.mask)).map (fun i => u.winAddr w (64 * c.offset + 32 * i))) u t) ∧
        t.win k = { w with bytes := w.bytes + 32 * (b2n (bit c.mask 0) + b2n (bit c.mask 1)), cells := w.cells + 1 } ∧
        (∀ i, i ≠ k → t.win i = u.win i) ∧
        Changes [.regs, .vat, .vatCode, .stk, .stkCode, .wcb, .held, .cellSeq, .msixPend, .ports, .wins, .log, .out, .free] u t)

/-- Group notices at an UP port, for a group that they name. FORM that agrees marks its link and is answered, one that does
not is logged; FORM_ACK marks its link; a group with both on every link is OPEN. GRANT raises the use granted, of a window of the
group's sends or of a shipment. A fresh SLOW
sets its origin's factor; a fresh WITHDRAW makes a live group WITHDRAWN with the cell's cause and origin. -/
def Obligations.GroupNoticesAct : Prop :=
  ∀ (s : State) (j : Fin 16) (c : LCell) (k : Nat) (x : Group), s.hears j c 2 → s.groups.get k = x →
    (c.aux = 1 → (s.groups.find? (fun e => e.2.state != 0 && e.2.inTag == noticeTag c && e.2.links.any (fun l => l.port == j.val))) = some (k, x) →
      x.state ≠ 3 →
      (s.formAgrees k j c = true → ∃ t, exec (.form j c) s = .next t ∧
        (t.groups.get k).links = x.links.map (fun l => if l.port = j.val then { l with form := true, binding := bits c.w1.toNat 128 64 } else l) ∧
        (t.groups.get k).state = (if x.state = 1 ∧ (x.links.all (fun l => (l.form || l.port == j.val) && l.ack)) then 2 else x.state) ∧
        Changes [.ports, .groups] s t) ∧
      (s.formAgrees k j c = false → ∃ t, exec (.form j c) s = .next t ∧ t.groups.get k = { x with mismatch := true } ∧
        Changes (.ports :: .groups :: logPieces) s t ∧ OnlyLogRegs s t)) ∧
    (c.aux = 2 → s.namedGroup j c = some k → x.live = true → ∃ t, exec (.formAck j c) s = .next t ∧
      (t.groups.get k).links = x.links.map (fun l => if l.port = j.val then { l with ack := true } else l) ∧
      (t.groups.get k).state = (if x.state = 1 ∧ (x.links.all (fun l => l.form && (l.ack || l.port == j.val))) then 2 else x.state) ∧
      Changes [.ports, .groups] s t) ∧
    (∀ i, c.aux = 3 → s.namedGroup j c = some k → s.shipGrantOf j k (bits c.w0.toNat 128 9) = none → x.live = true → x.links.findIdx? (fun l => l.port == j.val) = some i →
      ∃ t n, exec (.grantCell j c) s = .next t ∧ n = i * 512 + bits c.w0.toNat 128 4 * 32 + bits c.w0.toNat 132 5 ∧
        (t.groups.get k).grants.get n = Nat.max (x.grants.get n) (bits c.w0.toNat 160 32) ∧
        (∀ m, m ≠ n → (t.groups.get k).grants.get m = x.grants.get m) ∧
        { t.groups.get k with grants := x.grants } = x ∧ (∀ m, m ≠ k → t.groups.get m = s.groups.get m) ∧
        Changes [.ports, .groups] s t) ∧
    (∀ i < 1024, c.aux = 3 → s.namedGroup j c = some k → s.shipGrantOf j k (bits c.w0.toNat 128 9) = some (65536 + i) →
      ∃ t, exec (.grantCell j c) s = .next t ∧
        t.req i = { s.req i with shipUse := Nat.max (s.req i).shipUse (bits c.w0.toNat 160 32) } ∧
        (∀ m, m ≠ i → t.req m = s.req m) ∧ Changes [.ports, .reqs] s t) ∧
    (c.aux = 4 → s.namedGroup j c = some k →
      (x.fresh c = false → exec (.slow j c) s = .next (s.takeCell j c)) ∧
      (x.fresh c = true → s.dt < bits c.w0.toNat 192 64 → ∃ t, exec (.slow j c) s = .next t ∧
        (t.groups.get k).slow.get (noticeOrigin c) =
          (if bits c.w0.toNat 128 12 ≤ 16 then (0, 0) else (bits c.w0.toNat 128 12, bits c.w0.toNat 192 64)) ∧
        (t.groups.get k).seen.get (noticeOrigin c) = noticeSeq c ∧ (t.groups.get k).state = x.state ∧
        Changes [.ports, .groups] s t)) ∧
    (c.aux = 5 → s.namedGroup j c = some k → ∃ t, exec (.withdraw j c) s = .next t ∧
      ((t.groups.get k).links = x.links.map (fun l => if l.port = j.val then { l with withdrawn := true } else l)) ∧
      (x.fresh c = true → x.live = true → (t.groups.get k).state = 3 ∧ (t.groups.get k).withdrawn = true ∧
        (t.groups.get k).cause = bits c.w0.toNat 128 8 ∧ (t.groups.get k).origin = noticeOrigin c) ∧
      (x.fresh c = false → (t.groups.get k).state = x.state ∧ t.sendings = s.sendings) ∧
      Changes [.ports, .groups, .sendings, .wins] s t)

/-- A withdrawn group's windows are asked to close once no link can bring more of the group: a WITHDRAW has come by it, its port is
DOWN or DISABLED, or 10 µs have passed since the partition's own WITHDRAW left by it; and not before. SLOW is sent again 5 ms
after it was last sent while run frames are skipped, and not before. -/
def Obligations.WithdrawalAndSlowRunOnTime : Prop :=
  (∀ (s : State) (p : Fin 16), (s.part p).closing = none → exec (.withdrawCloseTimeout p) s = .next s) ∧
  (∀ (s : State) (p : Fin 16) (k g : Nat) (w : Win) (gone : Prop), (s.part p).closing ≠ none → k ∈ s.plateWins p → s.win k = w →
    w.group = some g → w.state = 1 →
    (gone ↔ (s.group p g).state = 3 ∧ ∀ l ∈ (s.group p g).links,
      l.withdrawn = true ∨ s.portState l.port ≤ 1 ∨ ∃ d, l.left = some d ∧ d + 1000 ≤ s.dt) →
    ∃ t, exec (.withdrawCloseTimeout p) s = .next t ∧ (gone → t.win k = { w with closeReq := true }) ∧ (¬ gone → t.win k = w) ∧
      Changes [.wins] s t) ∧
  (∀ s : State,
    ((s.skipLevel = 0 ∨ s.dt < s.pwr.lastSlow + 500000) → exec .slowRepeat s = .next s) ∧
    (s.skipLevel ≠ 0 → s.pwr.lastSlow + 500000 ≤ s.dt → ∃ t, exec .slowRepeat s = .next t ∧ t.pwr.lastSlow = s.dt ∧
      { t.pwr with lastSlow := s.pwr.lastSlow } = s.pwr ∧ Changes [.pwr, .ports, .groups] s t))

/-- Shipments. A SHIP_REQ that ends at this member reserves the lowest FREE entry with every page of its manifest, and an open
window of the die, for its sender; where that cannot be, no entry is taken. One that goes on to another member is passed on
unchanged with a window kept for it. A SHIP_GRANT that ends here lets the waiting request ship, or tells that its manifest was not
accepted, with a record; one that goes on opens the window kept. A request that waits may ask again 100 µs after it last asked.
A shipment that has arrived whole is accepted where its module is the loaded one and its pages find their places: the request
decodes, its counts are in the Vat and its window is closed. Otherwise it fails, with a record, and its entry is FREE. -/
def Obligations.ShipmentsProceed : Prop :=
  (∀ (s u v0 : State) (j : Fin 16) (c : LCell) (k : Nat) (v : ServingSpec) (q : State × Option Nat), s.settle = u →
    u.notice j c 6 k none → u.shipOf k (noticeOrigin c) (bits c.w0.toNat 128 32) = none → (u.takeCell j c).checkTree (k / 16) = v0 →
    v0.serving (k / 16) = some v →
    v0.reserveShip (k / 16) (bits c.w0.toNat 160 6) (bits c.w0.toNat 128 32) (bits c.w0.toNat 192 64) = q →
    (∀ i, slots.find? (fun i => (u.req i).st == .free) = some i → q.2 ≠ none → q.2 = some i ∧
      (∀ a chunk, v0.freeWins (j / 4) ≠ [] → q.1.shipArea (k / 16) (j / 4) = some (a, chunk) →
        ∃ t n, exec (.shipReq j c) s = .next t ∧ n ∈ v0.freeWins (j / 4) ∧
        (t.req i).st = .arriving ∧ (t.req i).part = k / 16 ∧ (t.req i).vf = bits c.w0.toNat 160 6 ∧
        (t.req i).shipLen = bits c.w0.toNat 192 64 ∧ (t.req i).shipFrom = some (j.val, k, noticeOrigin c, winKey (j / 4) n) ∧
        (∀ m < manifestPages v (bits c.w0.toNat 192 64), ((t.req i).pageAt m).isSome = true) ∧
        (t.win (winKey (j / 4) n)).state = 1 ∧ (t.win (winKey (j / 4) n)).owner = k / 16 ∧
        (t.win (winKey (j / 4) n)).mask = 2 ^ (j.val % 4) ∧ (t.win (winKey (j / 4) n)).desc = shipDesc a chunk ∧
        (∀ m, m ≠ winKey (j / 4) n → t.win m = u.win m) ∧ (∀ m, m ≠ i → t.req m = u.req m) ∧
        Changes (listPieces ++ [.wins, .ports, .groups, .free]) u t)) ∧
    (q.2 = none → ∃ t, exec (.shipReq j c) s = .next t ∧ (∀ m, (u.req m).st ≠ .free → t.req m = u.req m) ∧
      (∀ m, t.win m = u.win m) ∧ Changes (listPieces ++ [.ports, .groups, .free]) u t)) ∧
  (∀ (s u : State) (j : Fin 16) (c : LCell) (k out : Nat), s.settle = u → u.notice j c 6 k (some out) →
    u.shipOf k (noticeOrigin c) (bits c.w0.toNat 128 32) = none → u.freeWins (j / 4) ≠ [] → u.shipArea (k / 16) (j / 4) ≠ none →
    ∃ t n, exec (.shipReq j c) s = .next t ∧ n ∈ u.freeWins (j / 4) ∧ (t.port out).egress = (u.port out).egress ++ [c] ∧
      (t.win (winKey (j / 4) n)).state = 0 ∧ (t.win (winKey (j / 4) n)).ship.isSome = true ∧
      (∀ m, m ≠ winKey (j / 4) n → t.win m = u.win m) ∧ Changes [.ports, .wins, .free] u t) ∧
  (∀ (s u : State) (j : Fin 16) (c : LCell) (k i : Nat), s.settle = u → u.notice j c 7 k none → i < 1024 →
    (bit c.w0.toNat 168 = true → (∀ i, (u.req i).st ≠ .shipping) → exec (.shipGrant j c) s = .next (u.takeCell j c)) ∧
    (bit c.w0.toNat 168 = true → slots.find? (fun i => (u.req i).part == k / 16 && (u.req i).st == .shipping &&
        rqId (u.req i).rec_ == bits c.w0.toNat 128 32 && rqShip (u.req i).rec_ && shipGroup (rqShipTarget (u.req i).rec_) == k % 16) = some i →
      ∃ t, exec (.shipGrant j c) s = .next t ∧ (t.req i).st = .free ∧ (∀ x ∈ t.sendings, x.entry ≠ 65536 + i) ∧
        (u.on HIF_CQ_CFG_enable (u.req i).vf = false → (t.cq (u.req i).vf).waiting = (u.cq (u.req i).vf).waiting ++
          [recordBytes 2 (k / 16) (u.req i).vf 0 u.dt [bareEntry (u.req i) stSHIPFAILED]])) ∧
    (bit c.w0.toNat 168 = false → slots.find? (fun i => (u.req i).part == k / 16 && (u.req i).waitsShip &&
        rqId (u.req i).rec_ == bits c.w0.toNat 128 32 && rqShip (u.req i).rec_ && shipGroup (rqShipTarget (u.req i).rec_) == k % 16) = some i →
      ∃ t, exec (.shipGrant j c) s = .next t ∧
      (t.req i).shipGrant = some (bits c.w0.toNat 160 8, bits c.w0.toNat 192 32) ∧ (t.req i).shipUse = 1 ∧
      (t.req i).st = (u.req i).st ∧ Changes (listPieces ++ [.ports, .groups, .free]) u t)) ∧
  (∀ (s u : State) (j : Fin 16) (c : LCell) (k out key : Nat) (w : Win) (x : Ship), s.settle = u → u.notice j c 7 k (some out) →
    bit c.w0.toNat 168 = false → bits c.w0.toNat 192 32 ≤ x.chunk → w.ship = some x → u.win key = w →
    u.wins.find? (fun e => e.2.ship.any (fun x =>
      x.key == k && x.id == bits c.w0.toNat 128 32 && x.use == 0 && x.next == some (j.val, 0))) = some (key, w) →
    ∃ t, exec (.shipGrant j c) s = .next t ∧ t.win key = { w with
        state := 1, bytes := 0, cells := 0, drops := 0, closeReq := false
        ship := some { x with chunk := bits c.w0.toNat 192 32, use := 1, next := some (j.val, bits c.w0.toNat 160 8), nextUse := 1 } } ∧
      (∀ m, m ≠ key → t.win m = u.win m) ∧ Changes [.ports, .wins, .groups] u t) ∧
  (∀ (s u : State) (p : Fin 16) (i : Fin 1024) (d : Nat), s.managed p = u → (s.req i).shipTried = some d → (s.req i).part = p →
    (s.req i).waitsShip = true →
    (s.dt < d + 10000 → exec (.shipReqRetry p i) s = .next s) ∧
    (d + 10000 ≤ s.dt → (u.req i).st ≠ .free → ∃ t, exec (.shipReqRetry p i) s = .next t ∧ (t.req i).shipTried = some u.dt ∧
      (t.req i).st = (u.req i).st ∧ (∀ m, m ≠ i.val → (u.req m).st ≠ .free → t.req m = u.req m) ∧
      Changes (listPieces ++ [.ports, .groups, .free]) u t)) ∧
  (∀ (s w : State) (p : Fin 16) (i : Fin 1024) (v : ServingSpec) (r : Req) (m : Manifest), (s.managed p).pollShips = w →
    w.serving p = some v → mwf default w.reqs = true → w.req i = r → r.st = .arriving → r.part = p → r.arrived ≠ [] → r.shipLen ≤ 32 * r.arrived.length →
    manifestOf v r.arrived = m →
    (m.digest ≠ (((w.part p).plate.map plModule).getD 0).toNat ∨ (w.fitPages p v i m).2 = false →
      ∃ t, exec (.shipmentAccept p i r.shipWin) s = .next t ∧ (t.req i).st = .free ∧
      (w.on HIF_CQ_CFG_enable r.vf = false → ∃ l, (t.cq r.vf).waiting = l ++
        [recordBytes 2 p r.vf 0 w.dt [bareEntry r stSHIPFAILED]])) ∧
    (m.digest = (((w.part p).plate.map plModule).getD 0).toNat → (w.fitPages p v i m).2 = true →
      ∃ t, exec (.shipmentAccept p i r.shipWin) s = .next t ∧ (t.req i).st = .decode ∧ (t.req i).vf = m.vf ∧ (t.req i).len = m.length ∧
      (t.req i).rec_ = m.record.take 128 ∧ (t.req i).reported = m.overflow ∧ (t.req i).classOff = some m.classOffset ∧
      (∀ j < m.length / 16, ((t.req i).pageAt j).isSome = true) ∧
      (∀ n x, m.counts[n]? = some x → vatPopulated (w.areaAt p v.counts + countBytes * i + 32 * n) = true →
        t.vatWord (w.areaAt p v.counts + countBytes * i + 32 * n) = x.1 ∧
        t.vatCodeAt (w.areaAt p v.counts + countBytes * i + 32 * n) = eccCode x.1 x.2) ∧
      (∀ j g o k x, r.shipFrom = some (j, g, o, k) → (w.win k).ship = some x → (t.win k).state = 0 ∧ (t.win k).ship = none) ∧
      Changes (listPieces ++ [.cqs, .wins, .ports, .groups, .free]) w t))

/-! ### Ports, lasers, software windows, time -/

/-- Bring-up of a port. Enabling a DISABLED port leads to LOW_TRAIN where it may train, else to DOWN; training that found the far end leads to AUTH
at low rate with one wavelength, and the part's chain, a nonce and its key leave in LINK cells; a DOWN port trains again 10 ms
later; a LOW port that may goes to FULL_TRAIN, and from there to UP at full rate with sixteen good wavelengths, at half rate with
the eight lowest of fewer, DOWN with fewer than eight, or back to LOW where it may no longer. Nothing else of another port
changes. -/
def Obligations.PortsAreBroughtUp : Prop :=
  ∀ (s : State) (j : Fin 16),
    (∀ src : Src, s.serves src (LRT_PORT_CTRL_enable.addr j) = true → s.portState j = 0 → bit s.boot.e2eBad (j / 4) = false →
      ∃ t, exec (.portEnable src j) s = .next t ∧ t.on LRT_PORT_CTRL_enable j = true ∧
        t.portState j = (if (s.port j).heldDown = false ∧ s.lit (j / 4) = true ∧ bit s.dieFence (j / 4) = false then 2 else 1) ∧
        (t.port j).since = s.dt ∧ (∀ k, k ≠ j.val → t.port k = s.port k) ∧ Changes [.regs, .ports] s t ∧
        RegsKept [LRT_PORT_CTRL_enable.addr j, LRT_PORT_STATUS_state.addr j] s t) ∧
    (s.portState j = 2 → ∃ t, exec (.portTrainRetry j true) s = .next t ∧ t.portState j = 3 ∧ t.rd LRT_PORT_STATUS_rate j = 1 ∧
      t.rd LRT_PORT_LAMBDA_active j = lamMask ((s.goodLambdas j).take 1) % 2 ^ 17 ∧ (∀ k, k ≠ j.val → t.port k = s.port k) ∧
      (∃ key : List Byte, key.length = 1568 ∧ (t.port j).nonce < 2 ^ 256 ∧
        (t.port j).egress = (s.port j).egress.filter (fun c => c.typ != 5) ++
          linkCells 0 (s.boot.chain ++ leBytes 32 (t.port j).nonce ++ key)) ∧
      Changes [.regs, .ports, .free] s t ∧ RegsKept [LRT_PORT_STATUS_state.addr j, LRT_PORT_LAMBDA_active.addr j] s t) ∧
    (s.portState j = 2 → exec (.portTrainRetry j false) s = .next (s.portDown j 1)) ∧
    (∀ b : Bool, s.portState j = 1 → s.mayTrain j = true →
      ((s.port j).since + 1000000 ≤ s.dt → ∃ t, exec (.portTrainRetry j b) s = .next t ∧ t.portState j = 2 ∧
        Changes [.regs, .ports] s t) ∧
      (s.dt < (s.port j).since + 1000000 → exec (.portTrainRetry j b) s = .next s)) ∧
    (∀ found : List Nat, (∀ i ∈ found, i < 17) →
      (s.portState j = 4 → s.mayFull j = true → ∃ t, exec (.fullTrain j found) s = .next t ∧ t.portState j = 5 ∧
        Changes [.regs, .ports] s t ∧ RegsKept [LRT_PORT_STATUS_state.addr j] s t) ∧
      (s.portState j = 4 → s.mayFull j = false → exec (.fullTrain j found) s = .next s) ∧
      (s.portState j = 5 → s.mayFull j = false → ∃ t, exec (.fullTrain j found) s = .next t ∧ t.portState j = 4 ∧
        Changes [.regs, .ports] s t ∧ RegsKept [LRT_PORT_STATUS_state.addr j] s t)) ∧
    (∀ found good : List Nat, (∀ i ∈ found, i < 17) → s.portState j = 5 → s.on LRT_PORT_CTRL_allowFull j = true →
      s.rd PWR_STATUS_state 0 ≠ 0 → (s.goodLambdas j).filter found.contains = good →
      ((∀ i < 16, i ∈ good) → ∃ t, exec (.fullTrain j found) s = .next t ∧ t.portState j = 6 ∧ t.rd LRT_PORT_STATUS_rate j = 3 ∧
        t.rd LRT_PORT_LAMBDA_active j = 0xFFFF ∧ t.on LRT_PORT_LAMBDA_spareUsed j = false ∧ Changes [.regs, .ports] s t) ∧
      (good.length = 16 → 16 ∈ good → ∃ t, exec (.fullTrain j found) s = .next t ∧ t.portState j = 6 ∧
        t.rd LRT_PORT_STATUS_rate j = 3 ∧ t.rd LRT_PORT_LAMBDA_active j = lamMask good ∧ t.on LRT_PORT_LAMBDA_spareUsed j = true ∧
        t.rd LRT_PORT_LAMBDA_spareFor j < 16 ∧ t.rd LRT_PORT_LAMBDA_spareFor j ∉ good ∧ Changes [.regs, .ports] s t) ∧
      (8 ≤ good.length → good.length ≤ 15 → ∃ t, exec (.fullTrain j found) s = .next t ∧ t.portState j = 6 ∧
        t.rd LRT_PORT_STATUS_rate j = 2 ∧ t.rd LRT_PORT_LAMBDA_active j = lamMask (good.take 8) ∧ Changes [.regs, .ports] s t) ∧
      (good.length < 8 → exec (.fullTrain j found) s = .next (s.portDown j 1)))

/-- Authentication of a port in AUTH. A handshake whose chain and signature are good, on a part with an identity, leads to LOW with
the peer's fingerprint, and the part's signature over the transcript leaves in LINK cells; where a side asks for encryption, the
keys of the two directions are the first 64 bytes of the digest of secret and transcript, the initiator's the first half. A bad one
leads to AUTH_FAILED with a fault and a longer wait, and one whose encapsulation fails to DOWN. AUTH ends DOWN 50 ms after it
began, and AUTH_FAILED ends after the wait of its failures. An encrypted link takes new keys, or goes DOWN where the encapsulation
failed. -/
def Obligations.PortsAuthenticate : Prop :=
  ∀ (s : State) (j : Fin 16),
    (∀ (h : Handshake) (fp : Nat) (first : Bool), s.portState j = 3 → h.chainOk = true → h.sigOk = true →
      s.on BOOT_STATUS_identityOk 0 = true → (s.on LRT_GLOBAL_CFG_requireOwner 0 = true → h.endorsed = true) →
      (s.port j).prevPeer = none → fp = (sha3 h.pubkey).toNat % 2 ^ 64 →
      first = (decide (s.rd BOOT_FINGERPRINT_fingerprint 0 < fp) ||
        (s.rd BOOT_FINGERPRINT_fingerprint 0 == fp && decide ((s.port j).nonce < h.nonce.toNat))) →
      (h.encrypt = false → s.on LRT_PORT_CTRL_encrypt j = false →
        ∃ t, exec (.authHandshake j h) s = .next t ∧ t.portState j = 4 ∧
        t.reg (LRT_PORT_PEER_fingerprint.addr j) = BitVec.ofNat 64 fp ∧
        t.on LRT_PORT_STATUS_encrypted j = false ∧ (t.port j).authTries = 0 ∧ (∀ k, k ≠ j.val → t.port k = s.port k) ∧
        (t.port j).egress = (s.port j).egress ++ linkCells 5 (Config.sign s.boot.fuses.identitySeed 0
          (BitVec.ofNat 512 (leNat ((s.port j).transcript first)))) ∧
        Changes [.regs, .ports, .free] s t ∧
        RegsKept [LRT_PORT_PEER_fingerprint.addr j, LRT_PORT_STATUS_state.addr j, LRT_PORT_RTT_rttPs.addr j] s t) ∧
      (h.encrypt = true ∨ s.on LRT_PORT_CTRL_encrypt j = true →
        (h.encapOk = false → exec (.authHandshake j h) s = .next ((s.portDown j 1).fault 0x0805 (.port j))) ∧
        (h.encapOk = true → ∃ (t : State) (secret : List Byte) (half : Nat → W256), exec (.authHandshake j h) s = .next t ∧
          t.portState j = 4 ∧ t.on LRT_PORT_STATUS_encrypted j = true ∧ secret.length = 32 ∧
          (∀ o, half o = BitVec.ofNat 256 (leAt (sha3Bytes (secret ++ (s.port j).transcript first)) o 32)) ∧
          (t.port j).keys = some (if first then (half 0, half 32) else (half 32, half 0)) ∧ (t.port j).initiator = first ∧
          (t.port j).cwCount = 0 ∧ (∀ k, k ≠ j.val → t.port k = s.port k) ∧ Changes [.regs, .ports, .free] s t))) ∧
    (∀ h : Handshake, s.portState j = 3 → (h.chainOk = false ∨ h.sigOk = false ∨ s.on BOOT_STATUS_identityOk 0 = false ∨
        (s.on LRT_GLOBAL_CFG_requireOwner 0 = true ∧ h.endorsed = false)) → ∃ t, exec (.authHandshake j h) s = .next t ∧
      t.portState j = 8 ∧ (t.port j).authTries = (s.port j).authTries + 1 ∧ (t.port j).since = s.dt ∧
      (∀ k, k ≠ j.val → t.port k = s.port k) ∧ Changes (.ports :: logPieces) s t ∧
      RegsKept (LRT_PORT_STATUS_state.addr j :: logRegs) s t) ∧
    (s.portState j = 3 →
      ((s.port j).since + 5000000 ≤ s.dt → exec (.authTimeout j) s = .next ((s.portDown j 1).fault 0x0805 (.port j))) ∧
      (s.dt < (s.port j).since + 5000000 → exec (.authTimeout j) s = .next s)) ∧
    (∀ wait, s.portState j = 8 → wait = (if (s.port j).authTries ≤ 1 then 100000000 else if (s.port j).authTries = 2 then 1000000000
        else 6000000000) →
      ((s.port j).since + wait ≤ s.dt → ∃ t, exec (.authRetry j) s = .next t ∧ t.portState j = 3 ∧ (t.port j).since = s.dt ∧
        Changes [.regs, .ports, .free] s t ∧ RegsKept [LRT_PORT_STATUS_state.addr j] s t) ∧
      (s.dt < (s.port j).since + wait → exec (.authRetry j) s = .next s)) ∧
    (s.on LRT_PORT_STATUS_encrypted j = true → 4 ≤ s.portState j → s.portState j ≤ 7 →
      exec (.rekey j false) s = .next ((s.portDown j 1).fault 0x0805 (.port j)) ∧
      ∃ t, exec (.rekey j true) s = .next t ∧ (t.port j).keys.isSome = true ∧ (t.port j).cwCount = 0 ∧
        (t.port j).initiator = (s.port j).initiator ∧ (∀ k, k ≠ j.val → t.port k = s.port k) ∧ Changes [.ports, .free] s t)

/-- Upkeep of the ports. A lost link goes DOWN, with LINK_LOST logged where it was authenticated. A quiet port sends a LINK
cell after 100 µs. A link wake starts a wake where that event is enabled. A wavelength that has passed its threshold, by this
part's count or the far end's report, gives its share at full rate to a free spare; one that has not stays. A quarantined port returns to UP. -/
def Obligations.PortsAreKeptUp : Prop :=
  ∀ (s : State) (j : Fin 16),
    (4 ≤ s.portState j → s.portState j ≤ 7 → exec (.linkLost j) s = .next ((s.portDown j 1).fault 0x0807 (.port j))) ∧
    (2 ≤ s.portState j → s.portState j ≤ 3 → exec (.linkLost j) s = .next (s.portDown j 1)) ∧
    (codewords (s.portState j) = true → (s.port j).lastSent + 10000 ≤ s.dt → ∃ t c, exec (.keepalive j) s = .next t ∧ c.typ = 5 ∧
      t.port j = { s.port j with egress := (s.port j).egress ++ [c], lastSent := s.dt } ∧
      (∀ k, k ≠ j.val → t.port k = s.port k) ∧ Changes [.ports, .free] s t) ∧
    (4 ≤ s.portState j → s.portState j ≤ 7 → bit (s.rd PWR_WAKE_CFG_src 0) 2 = true → s.rd PWR_STATUS_state 0 = 0 →
      s.pwr.overVolt = false → ∃ t, exec (.linkWake j) s = .next t ∧ t.rd PWR_STATUS_state 0 = 1 ∧ Changes [.regs] s t ∧
        RegsKept [PWR_STATUS_state.addr 0] s t) ∧
    (∀ lam : Fin 17, (s.port j).symbols lam ≤ s.rd LRT_PORT_CTRL_lambdaThreshold j → exec (.lambdaSpareSwitch j ⟨lam, false⟩) s = .next s) ∧
    (∀ (lam : Fin 17) (reported : Bool), reported = true ∨ s.rd LRT_PORT_CTRL_lambdaThreshold j < (s.port j).symbols lam →
      4 ≤ s.portState j → s.portState j ≤ 7 → bit (s.rd LRT_PORT_LAMBDA_failed j) lam = false →
      s.rd LRT_PORT_STATUS_rate j = 3 → bit (s.rd LRT_PORT_LAMBDA_active j) lam = true → s.on LRT_PORT_LAMBDA_spareUsed j = false →
      lam.val ≠ 16 → 16 ∈ s.goodLambdas j → 9 ≤ (s.goodLambdas j).length →
      ∃ t, exec (.lambdaSpareSwitch j ⟨lam, reported⟩) s = .next t ∧ bit (t.rd LRT_PORT_LAMBDA_failed j) lam = true ∧
        t.on LRT_PORT_LAMBDA_spareUsed j = true ∧ t.rd LRT_PORT_LAMBDA_spareFor j = lam.val ∧
        bit (t.rd LRT_PORT_LAMBDA_active j) lam = false ∧ t.portState j = s.portState j ∧ Changes [.regs, .ports, .free] s t ∧
        RegsKept [LRT_PORT_LAMBDA_failed.addr j] s t) ∧
    (∀ src : Src, s.serves src (LRT_PORT_CTRL_enable.addr j) = true → s.portState j = 7 →
      ∃ t, exec (.quarantineClear src j) s = .next t ∧ t.portState j = 6 ∧ (t.port j).since = s.dt ∧
        (∀ k, k ≠ j.val → t.port k = s.port k) ∧ Changes [.regs, .ports] s t ∧ RegsKept [LRT_PORT_STATUS_state.addr j] s t)

/-- Lasers. A removal request makes a module ready where the engine's other module gives light. A module pulled while ready
leaves the ports as they are; one pulled unready takes its engine's ports DOWN with a laser fault. An absent module that is
inserted gives light. -/
def Obligations.LasersAreServed : Prop :=
  (∀ (s : State) (src : Src) (mask : Byte), s.serves src (LRT_LASER_CTRL_removeReq.addr 0) = true →
    ∃ t, exec (.laserRemoveReq src mask) s = .next t ∧ t.rd LRT_LASER_CTRL_removeReq 0 = mask.toNat ∧
      (∀ m < 8, t.laserMod m = s.laserMod m % 8 + (if bit mask.toNat m = true ∧ s.laserMod (otherModule m) % 8 = 3 then 8 else 0)) ∧
      Changes [.regs] s t ∧ RegsKept [LRT_LASER_CTRL_removeReq.addr 0, LRT_LASER_STATUS_mods.addr 0] s t) ∧
  (∀ (s : State) (m : Fin 8),
    (bit (s.laserMod m) 0 = false → ∃ t, exec (.laserInsert m) s = .next t ∧ t.laserMod m = 3 ∧
      (∀ k < 8, k ≠ m.val → t.laserMod k = s.laserMod k) ∧ Changes [.regs] s t ∧ RegsKept [LRT_LASER_STATUS_mods.addr 0] s t) ∧
    (bit (s.laserMod m) 0 = true → bit (s.laserMod m) 3 = true → ∃ t, exec (.laserPull m) s = .next t ∧ t.laserMod m = 0 ∧
      Changes [.regs] s t ∧ RegsKept [LRT_LASER_STATUS_mods.addr 0] s t) ∧
    (bit (s.laserMod m) 0 = true → bit (s.laserMod m) 3 = false → ∃ t, exec (.laserPull m) s = .next t ∧ t.laserMod m = 0 ∧
      (∀ i < 4, 2 ≤ s.portState (4 * (m / 2) + i) → t.portState (4 * (m / 2) + i) = 1) ∧
      bit (t.rd INT_CLASS_SEEN_class 0) 8 = true))

/-- Software windows of a die. A closed one whose descriptor passes opens with its counts cleared; one that fails keeps closed
with its cause and a fault; an open of a window that is not CLOSED, or of a plate's, sets cmd_err. A close of an open one
waits for the next frame start. -/
def Obligations.SoftwareWindowsOpenAndClose : Prop :=
  ∀ (s : State) (src : Src) (d : Fin 4) (k : Nat) (w : Win), s.serves src (LRT_WIN_CMD_open.addr d) = true → s.selWin d = k →
    s.win k = w →
    (128 ≤ s.rd LRT_WIN_SEL_window d → w.state = 0 →
      ∀ cause, s.winCause w.desc (fun q => q / 4 == d.val && s.ownerQuarter w.owner q) id = cause →
      (cause = 0 → ∃ t, exec (.winOpen src d) s = .next t ∧
        t.win k = { w with state := 1, bytes := 0, cells := 0, drops := 0, closeReq := false } ∧
        (∀ i, i ≠ k → t.win i = s.win i) ∧ Changes [.wins] s t) ∧
      (cause ≠ 0 → ∃ t, exec (.winOpen src d) s = .next t ∧ t.win k = { w with cause := cause } ∧
        (∀ i, i ≠ k → t.win i = s.win i) ∧ Changes (.wins :: logPieces) s t ∧ OnlyLogRegs s t)) ∧
    (s.rd LRT_WIN_SEL_window d < 128 ∨ w.state ≠ 0 → ∃ t, exec (.winOpen src d) s = .next t ∧
      t.win k = { w with cmdErr := true } ∧ (∀ i, i ≠ k → t.win i = s.win i) ∧ Changes [.wins] s t) ∧
    (∃ t, exec (.winClose src d) s = .next t ∧
      t.win k = (if s.rd LRT_WIN_SEL_window d < 128 then { w with cmdErr := true }
        else if w.state = 1 then { w with closeReq := true } else w) ∧
      (∀ i, i ≠ k → t.win i = s.win i) ∧ Changes [.wins] s t)

/-- IEEE 1588 messages of a port that takes them, in the part's domain. A Sync waits for its Follow_Up; on the port toward the master
that message gives the offset, the part locks, and device time steps forward once before the first plate is loaded and is slewed
after that; Pdelay messages measure the delay and are answered; an Announce of a better clock than the part's own makes its port the
one toward the master, and where no better one is heard the part is grandmaster. A message of another domain is taken without
effect, and a port that takes none ignores them. -/
def Obligations.TimeFollowsTheMaster : Prop :=
  ∀ (s : State) (j : Fin 16) (dom seq : Nat) (x : Ptp) (c : ClockSet), s.ptp.get j = x → s.rd LRT_TIME_CFG_domain 0 = dom →
    c.p1 < 256 → c.cls < 256 → c.acc < 256 → c.var < 65536 → c.p2 < 256 →
    (∀ d a b, ∀ m : Instr, m = .sync j ⟨d, seq⟩ a ∨ m = .followUp j ⟨d, seq⟩ a ∨ m = .pdelayReq j ⟨d, seq⟩ a ∨ m = .pdelayResp j ⟨d, seq⟩ a b ∨
        m = .pdelayRespFollowUp j ⟨d, seq⟩ a ∨ m = .announce j d c.p1 ⟨c.cls, c.acc, c.var, c.p2⟩ ⟨c.id, c.steps⟩ →
      (s.timeOn j = false → exec m s = .next s) ∧ (s.timeOn j = true → d ≠ dom → exec m s = .next (s.takeTime j))) ∧
    (s.timeOn j = true →
      (∀ rx, ∃ t, exec (.sync j ⟨dom, seq⟩ rx) s = .next t ∧ t.ptp.get j = { x with syncSeq := some seq, syncRx := rx } ∧
        Changes [.ptp, .ports] s t) ∧
      (∀ (origin : Nat) (off : Int), x.syncSeq = some seq → s.on LRT_TIME_STATUS_grandmaster 0 = false →
        s.rd LRT_TIME_STATUS_masterPort 0 = j.val → off = (x.syncRx : Int) - origin - x.delay →
        ∃ t, exec (.followUp j ⟨dom, seq⟩ origin) s = .next t ∧ t.reg (LRT_TIME_OFFSET_offset.addr 0) = BitVec.ofInt 64 off ∧
          t.on LRT_TIME_STATUS_locked 0 = true ∧ (t.ptp.get j).syncSeq = none ∧ s.dt ≤ t.dt ∧
          (s.on LRT_TIME_STATUS_stepped 0 = true ∨ s.aon.plateLoaded = true → t.dt = s.dt ∧ t.aon.slewPpm.natAbs ≤ 500) ∧
          Changes ([.aon, .dt, .ptp, .ports, .free] ++ logPieces) s t) ∧
      (∀ rx, ∃ t, exec (.pdelayReq j ⟨dom, seq⟩ rx) s = .next t ∧ t.ptp.get j = { x with reqSeq := seq, reqRx := rx } ∧
        (t.port j).egress.length = (s.port j).egress.length + 2 ∧ Changes [.ptp, .ports, .free] s t) ∧
      (∀ t2 t4, ∃ t, exec (.pdelayResp j ⟨dom, seq⟩ t2 t4) s = .next t ∧ (t.ptp.get j).respSeq = some seq ∧ (t.ptp.get j).t2 = t2 ∧
        (t.ptp.get j).t4 = t4 ∧ Changes [.ptp, .ports, .free] s t) ∧
      (∀ t3, x.respSeq = some seq → ∃ t, exec (.pdelayRespFollowUp j ⟨dom, seq⟩ t3) s = .next t ∧
        t.ptp.get j = { x with respSeq := none, delay := (((x.t4 : Int) - x.t1) - ((t3 : Int) - x.t2)) / 2 } ∧
        Changes [.ptp, .ports] s t) ∧
      ((∀ k, k ≠ j.val → s.heard k = none) →
        ∃ t, exec (.announce j dom c.p1 ⟨c.cls, c.acc, c.var, c.p2⟩ ⟨c.id, c.steps⟩) s = .next t ∧
          t.ptp.get j = { x with best := some c, heardAt := s.dt } ∧
          (clockLess c s.ownClock = true → t.on LRT_TIME_STATUS_grandmaster 0 = false ∧ t.rd LRT_TIME_STATUS_masterPort 0 = j.val) ∧
          (clockLess c s.ownClock = false → t.on LRT_TIME_STATUS_grandmaster 0 = true ∧ t.on LRT_TIME_STATUS_locked 0 = false) ∧
          Changes [.regs, .ptp, .ports] s t ∧ RegsKept [LRT_TIME_STATUS_locked.addr 0] s t))

/-! ### Partitions -/

/-- The partition commands, written to PART_CMD while it is not busy. LOAD and PREEMPT fetch a plate into the load areas; STOP and
UNLOAD of a running partition make a stop pending; RESUME takes the quarters back; UNLOAD of a STOPPED partition empties it
at once; a LOAD of a partition that is not EMPTY, and an op that names no command, fail with STATE. While a command runs
every other one is lost. PART_CFG is written only while the partition is EMPTY. A fetched LOAD takes its quarters, or fails
with QUARTER or REFUSED; a save that is complete leaves the partition STOPPED with its quarters released. -/
def Obligations.PartitionCommandsAct : Prop :=
  (∀ (s : State) (p : Fin 16) (src : Src) (img : PlateImage), s.serves src (PART_CMD_op.addr 0) = true → s.fetched img = true →
    (s.on PART_CMD_STATUS_busy 0 = true → ∀ c : Instr, c = .load src p img ∨ c = .stop src p ∨ c = .resume src p ∨
      c = .unload src p ∨ c = .preempt src p img → ∃ t, exec c s = .next t ∧ t.on PART_CMD_STATUS_lost 0 = true ∧
        Changes [.regs, .msixPend, .out] s t ∧ RegsKept cmdRegs s t) ∧
    (s.on PART_CMD_STATUS_busy 0 = false →
      (s.fetches p img → ∃ t, exec (.load src p img) s = .next t ∧ Fetched 1 p img s t) ∧
      (s.fetches p img → (∀ v < 16, s.rd PART_STATUS_held v &&& s.rd PART_CFG_quarters p ≠ 0 →
          s.rd PART_CFG_priority v < s.rd PART_CFG_priority p ∧ s.saveRetired v = false) →
        ∃ t, exec (.preempt src p img) s = .next t ∧ Fetched 5 p img s t) ∧
      (s.pstate p ≠ 0 → ∃ t, exec (.load src p img) s = .next t ∧ t.pcmdDone 1 ∧ Changes cmdPieces s t ∧ RegsKept cmdRegs s t) ∧
      (s.pstate p = 2 → s.saveRetired p = false → ∃ t, exec (.stop src p) s = .next t ∧ t.pstate p = 3 ∧
        (t.part p).stop = some (.stop, s.gridFrame) ∧ t.pcmd = some ⟨2, p, none, .stops⟩ ∧ (∀ k, k ≠ p.val → t.part k = s.part k) ∧
        Changes (.parts :: cmdPieces) s t ∧ RegsKept (PART_STATUS_state.addr p :: cmdRegs) s t) ∧
      (s.pstate p = 5 → s.shutting = false → (s.maskOf p).all s.takeable = true → s.mustWake p →
        ∃ t, exec (.resume src p) s = .next t ∧ t.pstate p = 6 ∧ t.pcmd = some ⟨3, p, none, .waking⟩ ∧ Takes p s t ∧
          Changes ([.aon, .quarters, .parts] ++ cmdPieces) s t ∧ RegsKept (PART_STATUS_state.addr p :: cmdRegs) s t) ∧
      (s.pstate p = 2 → ∃ t, exec (.unload src p) s = .next t ∧ t.pstate p = 7 ∧
        (t.part p).stop = some (.unload, s.gridFrame) ∧ t.pcmd = some ⟨4, p, none, .stops⟩ ∧ (∀ k, k ≠ p.val → t.part k = s.part k) ∧
        Changes (.parts :: cmdPieces) s t ∧ RegsKept (PART_STATUS_state.addr p :: cmdRegs) s t) ∧
      (s.pstate p = 5 → s.wcbClean → ∃ t, exec (.unload src p) s = .next t ∧ t.pstate p = 0 ∧ t.pcmdDone 0 ∧ (∀ m ∈ t.maps, m.1 ≠ p.val) ∧
        (∀ k, k ≠ p.val → t.part k = s.part k) ∧ Changes haltPieces s t) ∧
      (∀ op : Fin 16, op.val = 0 ∨ 6 ≤ op.val → ∃ t, exec (.partCmdInvalid src p op) s = .next t ∧ t.pcmdDone 1 ∧
        Changes cmdPieces s t ∧ RegsKept cmdRegs s t))) ∧
  (∀ (s : State) (p : Fin 16) (src : Src) (v : W64), s.serves src (PART_CFG_quarters.addr p) = true →
    (s.pstate p = 0 → ∃ t, exec (.partCfgWrite src p v) s = .next t ∧ t.rd PART_CFG_quarters p = v.toNat % 2 ^ 16 ∧
      t.rd PART_CFG_priority p = bits v.toNat 16 4 ∧ Changes [.regs] s t ∧ RegsKept [PART_CFG_quarters.addr p] s t) ∧
    (s.pstate p ≠ 0 → ∃ t, exec (.partCfgWrite src p v) s = .next t ∧ t.on PART_STATUS_cfgErr p = true ∧ Changes [.regs] s t ∧
      RegsKept [PART_STATUS_cfgErr.addr p] s t)) ∧
  (∀ (s : State) (p : Fin 16) (img : PlateImage), s.pcmd = some ⟨1, p, some img, .fetched⟩ → s.rd PWR_STATUS_state 0 = 2 →
    ((s.maskOf p).all s.takeable = true → s.plateStands p img = none → s.mustWake p → ∃ t, exec .plateFetchDone s = .next t ∧
      t.pstate p = 1 ∧ t.pcmd = some ⟨1, p, some img, .waking⟩ ∧ (t.part p).plate = some img ∧
      some (t.part p).bind = s.bindPlate p img ∧ Takes p s t ∧ Changes ([.aon, .quarters, .parts] ++ cmdPieces) s t ∧
      RegsKept (PART_STATUS_state.addr p :: cmdRegs) s t) ∧
    ((s.maskOf p).all s.takeable = false → ∃ t, exec .plateFetchDone s = .next t ∧ t.pcmdDone 2 ∧ Changes cmdPieces s t ∧
      RegsKept cmdRegs s t) ∧
    (∀ c d, (s.maskOf p).all s.takeable = true → s.plateStands p img = some (c, d) → ∃ t, exec .plateFetchDone s = .next t ∧
      t.pcmdDone 4 ∧ bit (t.rd INT_CLASS_SEEN_class 0) 3 = true ∧ Changes ([.pcmd, .free] ++ logPieces) s t ∧
      RegsKept (cmdRegs ++ logRegs) s t)) ∧
  (∀ (s : State) (p : Fin 16), s.pstate p = 4 → (s.part p).closing.isSome = true → s.winsClosed p = true →
    (s.part p).notices = [] → (∀ c, s.pcmd = some c → c.op ≠ 5) → s.wcbClean → ∃ t, exec (.saveDone p) s = .next t ∧ t.pstate p = 5 ∧
      t.rd PART_STATUS_held p = 0 ∧ (t.part p).saved = some (s.savedOf p) ∧ (∀ k, k ≠ p.val → t.part k = s.part k) ∧
      (s.pcmd = some ⟨2, p, none, .stops⟩ → t.pcmdDone 0) ∧ Changes (.free :: haltPieces) s t)

/-! ### The service side of the memories and the crossbar -/

/-- The service side. A buffer entry merges into its word, and a held write lands, in a cycle free of streaming commands; a
refill copies every word of a sealed plain region into an open one, with the sums of its rows, or ends with error; region
attributes are pending until the next frame; a lane takes its group's spare or the link is degraded; the edge slots' owners
are set; a watchdog event quarantines its input, 31 excepted. -/
def Obligations.ServiceSideActs : Prop :=
  (∀ (s u : State) (half : Fin 16) (word a : Nat), a = half * 2 ^ 35 + word * 32 → s.settle = u →
    (∀ e : WcbEntry, u.wcb.find? (fun e => e.word == a) = some e →
      (u.streaming half (stkBank a) = true → exec (.wcbMerge half word) s = .next u) ∧
      (u.streaming half (stkBank a) = false → ∃ t, exec (.wcbMerge half word) s = .next t ∧
        t.stkWord a = mergeBytes (u.stkEcc a).data (BitVec.ofNat 256 e.data) e.mask ∧ (∀ x ∈ t.wcb, x.word ≠ a) ∧
        StkKept [a] u t ∧ Changes ([.stk, .stkCode, .wcb, .held, .parts] ++ logPieces) u t ∧ OnlyReadRegs u t)) ∧
    (∀ h : Held, u.held.find? (fun h => h.word == a) = some h →
      (u.streaming half (stkBank a) = true → exec (.heldWriteLand half word) s = .next u) ∧
      (u.streaming half (stkBank a) = false → ∃ t, exec (.heldWriteLand half word) s = .next t ∧
        (h.scrub = true ∨ (h.mask = fullMask ∧ sealedKind (u.kindAt a) = true) → t.stkWord a = h.data ∧ t.stkCodeAt a = h.code) ∧
        (h.scrub = false → h.mask = fullMask → u.kindAt a = 2 → t.stkWord a = h.data ∧ t.stkCodeAt a = 0) ∧
        (h.scrub = false → h.mask ≠ fullMask → t.stkWord a = mergeBytes (u.stkWord a) h.data h.mask ∧ t.stkCodeAt a = 0) ∧
        StkKept [a] u t ∧ Changes [.stk, .stkCode, .wcb, .held, .wins] u t))) ∧
  (∀ (s : State) (src : Src) (v : W64), s.serves src (STK_REFILL_start.addr 0) = true →
    (bit v.toNat 32 = true → s.refill = none → ∃ t, exec (.stkRefill src v) s = .next t ∧
      t.refill = some ⟨bits v.toNat 28 4, bits v.toNat 0 14, bits v.toNat 14 14⟩ ∧ t.on STK_REFILL_STATUS_busy 0 = true ∧
      Changes [.regs, .refill] s t ∧ RegsKept [STK_REFILL_start.addr 0, STK_REFILL_STATUS_busy.addr 0] s t) ∧
    (bit v.toNat 32 = false ∨ s.refill.isSome = true → ∃ t, exec (.stkRefill src v) s = .next t ∧ Changes [.regs] s t ∧
      RegsKept [STK_REFILL_start.addr 0] s t)) ∧
  (∀ (s u : State) (r : Refill) (g : Region), s.settle = u → u.refill = some r → u.region r.half r.dst = g →
    (u.kindOf r.half r.src = 1 → u.kindOf r.half r.dst = 2 → g.rowOk = true → g.sumRegion ≠ r.src → g.sumRegion ≠ r.dst →
      g.sumOffset + 2 ^ 18 ≤ 2 ^ 21 → u.held = [] → (∀ b < 512, u.streaming r.half b = false) → (∀ j < 128, ∀ w < 512,
        (u.stkEcc (stkAddr r.half (128 * (r.src % 4) + j) (r.src / 4) w)).res ≠ .uncorrectable) →
      ∃ t, exec .refillDone s = .next t ∧ t.refill = none ∧ t.on STK_REFILL_STATUS_done 0 = true ∧
        t.on STK_REFILL_STATUS_error 0 = false ∧
        (∀ j < 128, ∀ w < 512, t.stkWord (stkAddr r.half (128 * (r.dst % 4) + j) (r.dst / 4) w) =
          (u.stkEcc (stkAddr r.half (128 * (r.src % 4) + j) (r.src / 4) w)).data) ∧
        (∀ a, a / 2 ^ 21 ≠ regionKey r.half r.dst → a / 2 ^ 21 ≠ regionKey r.half g.sumRegion → mget 0 t.stk a = mget 0 u.stk a) ∧
        Changes ([.stk, .stkCode, .wcb, .held, .refill, .reqs, .parts] ++ logPieces) u t) ∧
    (u.kindOf r.half r.src ≠ 1 ∨ u.kindOf r.half r.dst ≠ 2 ∨ g.rowOk = false → ∃ t, exec .refillDone s = .next t ∧
      t.refill = none ∧ t.on STK_REFILL_STATUS_done 0 = true ∧ t.on STK_REFILL_STATUS_error 0 = true)) ∧
  (∀ (s : State) (src : Src) (v : W64) (h r : Nat), s.serves src (STK_REGION_ATTR_kind.addr 0) = true →
    s.rd STK_REGION_SEL_half 0 = h → s.rd STK_REGION_SEL_region 0 = r →
    (areaRegion r = false → (s.region h r).retired = false → ∃ t, exec (.regionAttrWrite src v) s = .next t ∧
      t.region h r = { s.region h r with
        pend := some (bits v.toNat 0 2, bits v.toNat 2 10, bits v.toNat 12 14, bits v.toNat 26 21) } ∧
      (∀ k, k ≠ regionKey h r → t.regions.get k = s.regions.get k) ∧ Changes [.regions] s t) ∧
    (areaRegion r = true ∨ (s.region h r).retired = true → exec (.regionAttrWrite src v) s = .next s)) ∧
  (∀ (s : State) (k : Fin 8) (group : Fin 64) (lane : Fin 32),
    (bit (s.rd STK_LANE_SPARE_spareUsed k) group = false → ∃ t, exec (.laneSpareSwitch k group lane) s = .next t ∧
      t.rd STK_LANE_SPARE_spareUsed k = s.rd STK_LANE_SPARE_spareUsed k + 2 ^ group.val ∧ Changes [.regs, .lanes, .free] s t ∧
      RegsKept [STK_LANE_SPARE_spareUsed.addr k, STK_LINK_STATUS_corrected.addr k] s t) ∧
    (bit (s.rd STK_LANE_SPARE_spareUsed k) group = true → ∃ t, exec (.laneSpareSwitch k group lane) s = .next t ∧
      t.on STK_LINK_STATUS_degraded k = true ∧ bit (t.rd INT_CLASS_SEEN_class 0) 2 = true ∧
      Changes ([.lanes, .free] ++ logPieces) s t ∧ RegsKept (STK_LINK_STATUS_degraded.addr k :: logRegs) s t)) ∧
  (∀ (s : State) (src : Src) (v : W64), s.serves src (VAT_SLOT_CFG_slots.addr 0) = true →
    ∃ t, exec (.vatSlotCfgWrite src v) s = .next t ∧ (∀ i < 6, bits (t.rd VAT_SLOT_CFG_slots 0) (4 * i) 2 = bits v.toNat (4 * i) 2) ∧
      t.on VAT_SLOT_CFG_lendUnused 0 = bit v.toNat 24 ∧ Changes [.regs] s t ∧ RegsKept [VAT_SLOT_CFG_slots.addr 0] s t) ∧
  (∀ (s : State) (input : Fin 32) (target : Nat) (locked : Bool), targetCode target = true → ¬ (28 ≤ input.val ∧ input.val ≤ 30) →
    ∃ t, exec (.svcWatchdog input target locked) s = .next t ∧
      (∀ i < 32, bit (t.rd SVC_QUAR_quarantined 0) i = (bit (s.rd SVC_QUAR_quarantined 0) i || (i == input.val && i != 31))) ∧
      (s.on SVC_WDOG_EVENT_valid 0 = false → t.on SVC_WDOG_EVENT_valid 0 = true ∧ t.rd SVC_WDOG_EVENT_input 0 = input.val ∧
        t.rd SVC_WDOG_EVENT_target 0 = target ∧ t.on SVC_WDOG_EVENT_locked 0 = locked ∧ t.rd SVC_WDOG_DT_dt 0 = s.dt % 2 ^ 64) ∧
      bit (t.rd INT_CLASS_SEEN_class 0) 10 = true ∧ Changes logPieces s t ∧
      RegsKept ([SVC_QUAR_quarantined.addr 0, SVC_WDOG_EVENT_valid.addr 0, SVC_WDOG_DT_dt.addr 0] ++ logRegs) s t)

/-! ### The host's windows on the memories -/

/-- BAR2, BAR4 and the base of BAR4, once the plates' cycles of the frame are done. A write whose words the function may reach
merges its bytes into each word of the Vat, or into what a host read of the stack word then returns, a word that the hub link has
delivered poisoned with its poison; a read of such words returns their data, with poison. A TLP that meets a hole or a forbidden
word ends with Unsupported Request. A poisoned write writes nothing and is logged. An access to the Vat waits while no edge slot can
carry it, and one of a traffic class whose crossbar input is quarantined ends with Unsupported Request. HIF_WIN4_BASE takes a multiple
of 2 MiB; another value sets win_err. -/
def Obligations.HostReachesTheMemories : Prop :=
  (∀ (s u : State) (f : Fin 64) (tc : Fin 4) (x : Tlp) (hub : List Nat), s.settle = u → u.rd PWR_STATUS_state 0 ≠ 0 →
    u.reaches (.fn f) = true →
    (tlpOk (2 ^ 30) x = true → u.barOpen f tc = false → ∃ t, exec (.bar2Access f ⟨tc, x, hub⟩) s = .next t ∧ Emits (.unsupported f) u t ∧
      Changes [.out] u t) ∧
    (tlpOk (2 ^ 36) x = true → u.barOpen f tc = false → ∃ t, exec (.bar4Access f ⟨tc, x, hub⟩) s = .next t ∧ Emits (.unsupported f) u t ∧
      Changes [.out] u t) ∧
    (tlpOk (2 ^ 30) x = true → u.barOpen f tc = true → u.edgeOpen 2 = false → exec (.bar2Access f ⟨tc, x, hub⟩) s = .next u)) ∧
  (∀ (s u : State) (f : Fin 64) (tc : Fin 4) (a : Nat) (d : List (Byte × Bool)) (hub : List Nat) (ws : List TlpWord), s.settle = u →
    u.barServes f tc → u.edgeOpen 2 = true → tlpOk (2 ^ 30) (.write a d false) = true → wordsOf a d = ws →
    ((∀ w ∈ ws, u.vatReach f w.addr = 0) →
      (∃ t, exec (.bar2Access f ⟨tc, (.write a d false), hub⟩) s = .next t ∧
        (∀ w ∈ ws, w.mask ≠ 0 → t.vatWord w.addr = mergeBytes (u.vatEcc w.addr).data w.data w.mask ∧
          (w.addr ∈ pickAt (ws.map (·.addr)) hub → t.vatCodeAt w.addr = eccCode (t.vatWord w.addr) true)) ∧
        VatWordsKept (ws.map (·.addr)) u t ∧ Changes ([.vat, .vatCode, .free] ++ logPieces) u t ∧
        RegsKept (edgeRegs 2 ++ logRegs) u t) ∧
      (∃ t, exec (.bar2Access f ⟨tc, (.write a d true), hub⟩) s = .next t ∧ bit (t.rd INT_CLASS_SEEN_class 0) 10 = true ∧
        Changes logPieces u t ∧ OnlyLogRegs u t)) ∧
    ((∃ w ∈ ws, u.vatReach f w.addr ≠ 0) → ∃ t, exec (.bar2Access f ⟨tc, (.write a d false), hub⟩) s = .next t ∧
      Emits (.unsupported f) u t ∧ VatWordsKept ((ws.filter (fun w => u.vatReach f w.addr == 0)).map (·.addr)) u t)) ∧
  (∀ (s u : State) (f : Fin 64) (tc : Fin 4) (a n : Nat) (hub as : List Nat), s.settle = u → u.barServes f tc → u.edgeOpen 2 = true →
    tlpOk (2 ^ 30) (.read a n) = true → readAddrs a n = as →
    ((∀ x ∈ as, u.vatReach f x = 0) → ∃ t, exec (.bar2Access f ⟨tc, (.read a n), hub⟩) s = .next t ∧
      Emits (.completion f (readBytes a n (as.map (fun x => (u.vatEcc x).data)))
        (as.any (fun x => (u.vatEcc x).poison || (pickAt as hub).contains x))) u t ∧
      Changes (.free :: logPieces) u t ∧ RegsKept (edgeRegs 2 ++ logRegs) u t) ∧
    ((∃ x ∈ as, u.vatReach f x ≠ 0) → ∃ t, exec (.bar2Access f ⟨tc, (.read a n), hub⟩) s = .next t ∧ Emits (.unsupported f) u t ∧
      Changes logPieces u t ∧ RegsKept (HIF_FN_STATUS_range.addr f :: logRegs) u t)) ∧
  (∀ (s u : State) (f : Fin 64) (tc : Fin 4) (o base : Nat) (d : List (Byte × Bool)) (hub : List Nat) (w : TlpWord), s.settle = u →
    u.barServes f tc → u.rd HIF_WIN4_BASE_base f * 2 ^ 21 = base → tlpOk (2 ^ 36) (.write o d false) = true →
    wordsOf (base + o) d = [w] → u.stkReach f w.addr = 0 →
    (∀ e ∈ u.wcb, e.word % 32 = 0 ∧ (u.kindAt w.addr = 2 → e.word ≠ w.addr)) →
    (1 ≤ u.kindAt w.addr → u.kindAt w.addr ≤ 3 → w.mask ≠ 0 → ∃ t, exec (.bar4Access f ⟨tc, (.write o d false), []⟩) s = .next t ∧
      (t.svcRead w.addr).1 = mergeBytes (u.svcRead w.addr).1 w.data w.mask ∧ StkKept (w.addr :: u.wcb.map (·.word)) u t ∧
      Changes ([.stk, .stkCode, .wcb, .held, .parts] ++ logPieces) u t ∧ OnlyReadRegs u t) ∧
    (u.kindAt w.addr = 0 ∨ w.mask = 0 → exec (.bar4Access f ⟨tc, (.write o d false), []⟩) s = .next u) ∧
    (0 ∈ hub → w.mask ≠ 0 → ∃ t, exec (.bar4Access f ⟨tc, (.write o d false), hub⟩) s = .next t ∧
      bit (t.rd INT_CLASS_SEEN_class 0) 2 = true ∧
      (sealedKind (u.kindAt w.addr) = true → t.svcRead w.addr = (mergeBytes (u.svcRead w.addr).1 w.data w.mask, true) ∧
        StkKept [w.addr] u t ∧ Changes ([.stk, .stkCode, .wcb, .held] ++ logPieces) u t) ∧
      (sealedKind (u.kindAt w.addr) = false → Changes logPieces u t)) ∧
    (∃ t, exec (.bar4Access f ⟨tc, (.write o d true), hub⟩) s = .next t ∧ bit (t.rd INT_CLASS_SEEN_class 0) 10 = true ∧
      Changes logPieces u t ∧ OnlyLogRegs u t)) ∧
  (∀ (s u : State) (f : Fin 64) (tc : Fin 4) (o n base : Nat) (hub as : List Nat), s.settle = u → u.barServes f tc →
    u.rd HIF_WIN4_BASE_base f * 2 ^ 21 = base → tlpOk (2 ^ 36) (.read o n) = true → readAddrs (base + o) n = as →
    ((∀ x ∈ as, u.stkReach f x = 0) → ∃ t, exec (.bar4Access f ⟨tc, (.read o n), hub⟩) s = .next t ∧
      Emits (.completion f (readBytes (base + o) n (as.map (fun x => (u.svcRead x).1)))
        (as.any (fun x => (u.svcRead x).2 || (pickAt as hub).contains x))) u t ∧
      Changes (.parts :: logPieces) u t ∧ OnlyReadRegs u t) ∧
    ((∃ x ∈ as, u.stkReach f x ≠ 0) → ∃ t, exec (.bar4Access f ⟨tc, (.read o n), hub⟩) s = .next t ∧ Emits (.unsupported f) u t ∧
      Changes logPieces u t ∧ RegsKept (HIF_FN_STATUS_range.addr f :: logRegs) u t)) ∧
  (∀ (s : State) (src : Src) (f : Fin 64) (v : W64), ownFn src f = true → s.serves src (viewOff src f HIF_WIN4_BASE_base) = true →
    (v.toNat % 2 ^ 21 = 0 → ∃ t, exec (.win4BaseWrite src f v) s = .next t ∧ t.rd HIF_WIN4_BASE_base f = bits v.toNat 21 18 ∧
      Changes [.regs] s t ∧ RegsKept [HIF_WIN4_BASE_base.addr f] s t) ∧
    (v.toNat % 2 ^ 21 ≠ 0 → ∃ t, exec (.win4BaseWrite src f v) s = .next t ∧ t.on HIF_FN_STATUS_winErr f = true ∧
      Changes [.regs, .msixPend, .out] s t ∧ RegsKept [HIF_FN_STATUS_winErr.addr f] s t))

/-! ### Functions of the host, and remote devices -/

/-- The host's functions. A ring configuration sets its ring where size and base may change and its error where the size is out
of range. A host DMA transfer ends with the code its checks give; one that passes moves the data, in either direction, with
its status. A function-level reset clears the function's rings, transfers, mask and binding and marks its requests; that of the
PF empties every partition. A configuration request is answered by its register, as Unsupported, or to be retried. A remote
access starts where none is under way and the device is reachable, ends with a cause where not or 1 ms later, and its answer
ends it. -/
def Obligations.HostFunctionsAct : Prop :=
  (∀ (s : State) (src : Src) (off a : Nat) (v : W64), s.serves src off = true → s.writeOff src off = some a →
    (∀ i n base, ringReg a = some (.inl i) → n = bits v.toNat 4 4 → base = bits v.toNat 12 52 →
      (4 ≤ n → n ≤ 12 → (s.on HIF_RQ_CFG_enable i = true → bit v.toNat 0 = true →
          n = s.rd HIF_RQ_CFG_sizeLog2 i ∧ base = s.rd HIF_RQ_CFG_base i) →
        ∃ t, exec (.ringCfgWrite src off v) s = .next t ∧ t.on HIF_RQ_CFG_enable i = bit v.toNat 0 ∧
          t.rd HIF_RQ_CFG_sizeLog2 i = n ∧ t.rd HIF_RQ_CFG_base i = base ∧
          t.rings.get i = (if bit v.toNat 0 = true ∧ s.on HIF_RQ_CFG_enable i = false then ⟨0, true, 0⟩ else s.rings.get i) ∧
          (∀ k, k ≠ i → t.rings.get k = s.rings.get k) ∧ Changes [.regs, .rings] s t ∧ RegsKept [HIF_RQ_CFG_enable.addr i] s t) ∧
      (n < 4 ∨ 12 < n → ∃ t, exec (.ringCfgWrite src off v) s = .next t ∧ t.on HIF_FN_STATUS_cfgErr (i / 4) = true ∧
        Changes [.regs, .msixPend, .out] s t ∧ RegsKept [HIF_FN_STATUS_cfgErr.addr (i / 4)] s t)) ∧
    (∀ f n base, ringReg a = some (.inr f) → n = bits v.toNat 4 5 → base = bits v.toNat 12 52 →
      (16 ≤ n → n ≤ 24 → (s.on HIF_CQ_CFG_enable f = true → bit v.toNat 0 = true →
          n = s.rd HIF_CQ_CFG_sizeLog2 f ∧ base = s.rd HIF_CQ_CFG_base f) →
        ∃ t, exec (.ringCfgWrite src off v) s = .next t ∧ t.on HIF_CQ_CFG_enable f = bit v.toNat 0 ∧
          t.rd HIF_CQ_CFG_sizeLog2 f = n ∧ t.rd HIF_CQ_CFG_base f = base ∧
          t.cqs.get f = (if bit v.toNat 0 = true ∧ s.on HIF_CQ_CFG_enable f = false then { s.cqs.get f with w := 0, c := 0, fresh := 0 } else s.cqs.get f) ∧
          (∀ k, k ≠ f → t.cqs.get k = s.cqs.get k) ∧ Changes [.regs, .cqs] s t ∧ RegsKept [HIF_CQ_CFG_enable.addr f] s t) ∧
      (n < 16 ∨ 24 < n → ∃ t, exec (.ringCfgWrite src off v) s = .next t ∧ t.on HIF_FN_STATUS_cfgErr f = true ∧
        Changes [.regs, .msixPend, .out] s t ∧ RegsKept [HIF_FN_STATUS_cfgErr.addr f] s t))) ∧
  (∀ (s v : State) (e : Fin 4) (h : HostData) (d : DmaReq) (rest : List DmaReq) (p q : Nat) (t : TDesc) (ps : List DmaPiece),
    s.settle = v → v.scans = true → bit (v.rd SVC_QUAR_quarantined 0) (8 + e) = false → v.dmaQ.get e = d :: rest →
    v.bound.get d.fn = p → TDesc.ofWords (dmaDesc d.body) = t → v.dmaUnit p (dmaPhysical d.body) t = q → imgPieces t = ps →
    (t.space = 0 → v.edgeOpen 2 = false → exec (.hostDmaTransfer e h) s = .next v) ∧
    ((t.space = 0 → v.edgeOpen 2 = true) →
      (∀ code cause, v.dmaCause d h = (code, cause) → code ≠ 0 → ∃ u, exec (.hostDmaTransfer e h) s = .next u ∧
        u.dmaQ.get e = rest ∧ Status d code cause u ∧ Changes (.dmaQ :: logPieces) v u ∧ OnlyLogRegs v u) ∧
      (v.dmaCause d h = (0, 0) → dmaDir d.body = 0 → h.failAfter = none → (ps.map (dmaAddr t q)).Nodup →
        ∃ u, exec (.hostDmaTransfer e h) s = .next u ∧ u.dmaQ.get e = rest ∧ Status d 0 0 u ∧
          (t.space = 0 → (∀ x ∈ ps, u.vatWord (dmaAddr t q x) =
              mergeBytes (v.vatEcc (dmaAddr t q x)).data (pieceData h x).1 (2 ^ x.n - 1) ∧
            ((pieceData h x).2 = true → u.vatCodeAt (dmaAddr t q x) = eccCode (u.vatWord (dmaAddr t q x)) true)) ∧ u.stk = v.stk) ∧
          (t.space ≠ 0 → u.vat = v.vat ∧ StkKept (ps.map (dmaAddr t q) ++ v.wcb.map (·.word)) v u) ∧
          VatWordsKept (ps.map (dmaAddr t q)) v u ∧
          (u.part p).hostData = (v.part p).hostData + b2n (dmaReady d.body) ∧
          (∀ k, k ≠ p → { u.part k with faults := (v.part k).faults } = v.part k) ∧
          Changes ([.dmaQ, .vat, .vatCode, .stk, .stkCode, .wcb, .held, .parts, .free] ++ logPieces) v u ∧
          RegsKept (edgeRegs 2 ++ logRegs ++ (upto 64).map INT_FN_NOTE_valid.addr) v u) ∧
      (∀ n, v.dmaCause d h = (0, 0) → dmaDir d.body = 0 → h.failAfter = some n → ∃ u, exec (.hostDmaTransfer e h) s = .next u ∧
        u.dmaQ.get e = rest ∧ Status d 0x0A04 0 u ∧ (u.part p).hostData = (v.part p).hostData ∧
        VatWordsKept ((ps.filter (fun x => decide (x.img + x.n ≤ 32 * n))).map (dmaAddr t q)) v u ∧
        StkKept ((ps.filter (fun x => decide (x.img + x.n ≤ 32 * n))).map (dmaAddr t q) ++ v.wcb.map (·.word)) v u) ∧
      (v.dmaCause d h = (0, 0) → dmaDir d.body = 2 → h.failAfter = none → (ps.map (dmaAddr t q)).Nodup → v.held = [] →
        (∀ x ∈ ps, v.streaming (stkHalf (dmaAddr t q x)) (stkBank (dmaAddr t q x)) = false) →
        (∀ x ∈ ps, (v.region q (stkRegion (dmaAddr t q x))).sumOffset + 2 ^ 18 ≤ 2 ^ 21 ∧ ∀ y ∈ ps,
          q * 2 ^ 14 + (v.region q (stkRegion (dmaAddr t q x))).sumRegion ≠ dmaAddr t q y / 2 ^ 21) →
        ∃ u, exec (.hostDmaTransfer e h) s = .next u ∧ u.dmaQ.get e = rest ∧ Status d 0 0 u ∧
          (∀ x ∈ ps, u.stkWord (dmaAddr t q x) = (pieceData h x).1) ∧
          (u.part p).hostData = (v.part p).hostData + b2n (dmaReady d.body) ∧
          Changes ([.dmaQ, .stk, .stkCode, .wcb, .held, .parts] ++ logPieces) v u) ∧
      (v.dmaCause d h = (0, 0) → dmaDir d.body = 1 → ∃ u, exec (.hostDmaTransfer e h) s = .next u ∧ u.dmaQ.get e = rest ∧
        Status d 0 0 u ∧ Out.hostWrite (dmaHostAddr d.body) (ps.flatMap (fun x => (leBytes 32 (v.dmaWord t q x).1.toNat).take x.n))
          ((ps.flatMap (fun x => if (v.dmaWord t q x).2 || (pieceHostWords x).any h.hub.contains then pieceHostWords x
            else [])).dedup) ∈ u.out ∧
        Changes ([.dmaQ, .parts, .free] ++ logPieces) v u ∧
        RegsKept (edgeRegs 2 ++ logRegs ++ (upto 64).map INT_FN_NOTE_valid.addr) v u))) ∧
  (∀ (s v : State) (f : Fin 64), s.settle = v → s.boot.phase = .running ∨ s.boot.phase = .recovery → s.fnEnabled f = true →
    (f.val ≠ 0 → ∃ t, exec (.functionLevelReset f) s = .next t ∧
      t.bound.get f = bits (t.reg (PART_BIND_f.addr (f / 16))).toNat (4 * (f % 16)) 4 ∧
      (∀ k < 4, t.on HIF_RQ_CFG_enable (4 * f + k) = false ∧ t.rings.get (4 * f + k) = default) ∧ t.cqs.get f = {} ∧
      (∀ e : Fin 4, ∀ d ∈ t.dmaQ.get e, d.fn ≠ f.val) ∧ f.val ∉ t.masked ∧
      (∀ i ∈ slots, (v.req i).live = true → (v.req i).vf = f.val → (t.req i).flr = true) ∧
      (∀ i ∈ slots, (v.req i).st = .arriving → (v.req i).vf = f.val → (t.req i).st = .free) ∧
      (∀ g, g ≠ f.val → t.bound.get g = v.bound.get g ∧ t.cqs.get g = v.cqs.get g) ∧
      Changes ([.rings, .cqs, .dmaQ, .cfgSpace, .masked, .wins, .bound] ++ listPieces) v t) ∧
    (f.val = 0 → ∃ t, exec (.functionLevelReset f) s = .next t ∧ (∀ p < 16, t.pstate p = 0) ∧ t.vfEnable = false ∧ t.numVfs = 0 ∧
      (∀ i < 256, t.on HIF_RQ_CFG_enable i = false) ∧ ∀ g < 64, g ∉ t.masked)) ∧
  (∀ (s : State) (f : Fin 64) (reg : Nat) (v : W32), reg < 1024 →
    (s.boot.phase = .running → 2 ≤ s.rd PWR_STATUS_state 0 →
      (s.fnEnabled f = false → ∃ t, exec (.configRequest f true reg v) s = .next t ∧ Emits (.unsupported f) s t ∧ Changes [.out] s t) ∧
      (s.fnEnabled f = true →
        (∃ t, exec (.configRequest f false reg v) s = .next t ∧
          Emits (.config f false (mget (Config.configDefault f reg) s.cfgSpace (f * 1024 + reg))) s t ∧ Changes [.out] s t) ∧
        ∃ t, exec (.configRequest f true reg v) s = .next t ∧ mget (Config.configDefault f reg) t.cfgSpace (f * 1024 + reg) = v ∧
          Emits (.config f false 0) s t ∧ (∀ k, k ≠ f * 1024 + reg → ∀ d, mget d t.cfgSpace k = mget d s.cfgSpace k) ∧
          Changes [.cfgSpace, .masked, .vfEnable, .numVfs, .msixPend, .out] s t)) ∧
    (s.boot.phase = .held → ∀ w, ∃ t, exec (.configRequest f w reg v) s = .next t ∧ (.config f true 0) ∈ t.out)) ∧
  (∀ (s : State) (src : Src) (k j : Nat) (w : Bool) (c : Instr) (m : MgmtMsg), s.serves src (HIF_RMT_CMD_read.addr 0) = true →
    s.rd HIF_RMT_ADDR_device 0 = k → s.fwdPort k = j → c = (if w then .rmtWrite src else .rmtRead src) →
    m = (if w then .write (8 * s.rd HIF_RMT_ADDR_offset 0) (s.reg (HIF_RMT_DATA_data.addr 0)) else
      .read (8 * s.rd HIF_RMT_ADDR_offset 0)) →
    (s.on HIF_RMT_STATUS_busy 0 = true → exec c s = .next s) ∧
    (s.on HIF_RMT_STATUS_busy 0 = false → s.fwdUp k = true → ∃ t, exec c s = .next t ∧ t.rmt = some ⟨k, w, s.dt⟩ ∧
      t.on HIF_RMT_STATUS_busy 0 = true ∧
      (t.port j).egress = (s.port j).egress ++ (Config.mgmtCells m).map (fun c => ctlCell 3 (c.1 % 65536) c.2.1 c.2.2) ∧
      Changes [.regs, .rmt, .ports] s t ∧ RegsKept [HIF_RMT_STATUS_busy.addr 0] s t) ∧
    (s.on HIF_RMT_STATUS_busy 0 = false → s.fwdUp k = false → ∃ t, exec c s = .next t ∧ t.rmtDone 1 ∧ Changes [.regs, .rmt] s t ∧
      RegsKept [HIF_RMT_STATUS_busy.addr 0] s t)) ∧
  (∀ (s : State) (r : Rmt), s.rmt = some r →
    (r.since + 100000 ≤ s.dt → ∃ t, exec .rmtTimeout s = .next t ∧ t.rmtDone 2 ∧ Changes [.regs, .rmt] s t ∧
      RegsKept [HIF_RMT_STATUS_busy.addr 0] s t) ∧
    (s.dt < r.since + 100000 → exec .rmtTimeout s = .next s)) ∧
  (∀ (s u : State) (j : Fin 16) (c : LCell) (cs : List LCell) (m : MgmtMsg), 4 ≤ s.portState j → s.portState j ≤ 6 →
    bit (s.rd SVC_QUAR_quarantined 0) (12 + j) = false → (s.port j).turn c = true → c.typ = 3 → (s.port j).mgmt ++ [c] = cs →
    Config.mgmtMsg cs = m → (s.takeCell j c).updPort j (fun x => { x with mgmt := [] }) = u →
    (m = .more → ∃ t, exec (.mgmtCell j c) s = .next t ∧ (t.port j).mgmt = cs ∧ Changes [.ports] s t) ∧
    (m = .other → (∃ i < 16, i ≠ j.val ∧ 4 ≤ s.portState i ∧ s.portState i ≤ 7) → ∃ t i, exec (.mgmtCell j c) s = .next t ∧
      i < 16 ∧ i ≠ j.val ∧ 4 ≤ s.portState i ∧ s.portState i ≤ 7 ∧ (t.port i).egress = (s.port i).egress ++ cs ∧
      (t.port j).mgmt = [] ∧ (∀ k, k ≠ i → t.port k = u.port k) ∧ Changes [.ports, .free] s t) ∧
    (∀ v r, m = .answer v → s.rmt = some r → s.fwdPort r.dev = j.val → ∃ t, exec (.mgmtCell j c) s = .next t ∧
      t.rmtDone (if v.isSome then 0 else 3) ∧ (∀ x, v = some x → r.write = false → t.reg (HIF_RMT_DATA_data.addr 0) = x) ∧
      Changes [.regs, .rmt, .ports] s t ∧ RegsKept [HIF_RMT_STATUS_busy.addr 0, HIF_RMT_DATA_data.addr 0] s t) ∧
    (∀ off, m = .read off → s.reaches .core = true → regAccessOk off 8 = true →
      (s.serve .core off = .now → ∃ t, exec (.mgmtCell j c) s = .next t ∧ (t.port j).egress = (s.port j).egress ++
        (Config.mgmtCells (.answer (u.readBy .core off 8))).map (fun c => ctlCell 3 (c.1 % 65536) c.2.1 c.2.2) ∧
        (t.port j).mgmt = [] ∧ Changes [.ports] s t) ∧
      (s.serve .core off = .held → exec (.mgmtCell j c) s = .next { u with
        heldAccess := u.heldAccess ++ [{ src := .core, off := off, write := none, port := some j.val }] })) ∧
    (∀ off v a, m = .write off v → s.serves .core off = true → regAccessOk off 8 = true → s.writeOff .core off = some a →
      needsRow a 8 v = false → exec (.mgmtCell j c) s = .next ((u.regWrite a 8 v).sendMgmt j (.answer (some v)))) ∧
    (∀ k addr bytes, m = .record k addr bytes → 0 ∉ s.masked → ∃ t, exec (.mgmtCell j c) s = .next t ∧
      t.out = s.out ++ [.hostWrite addr bytes [], .msix 0 (64 + k % 64)] ∧ Changes [.ports, .out] s t) ∧
    (∀ addr bytes, m = .status addr bytes → ∃ t, exec (.mgmtCell j c) s = .next t ∧ t.out = s.out ++ [.hostWrite addr bytes []] ∧
      Changes [.ports, .out] s t) ∧
    (∀ fn ring bytes prompt, m = .entry fn ring bytes prompt →
      exec (.mgmtCell j c) s = .next ((u.managed (u.bound.get fn)).entry fn ring ⟨fn, ring, bytes, prompt, 0⟩)))


/-! ### Management and attestation -/

/-- Management over MCTP, and attestation requests. A control message is answered with the boot status, a platform request with
its sensor's reading, and an SPDM request by its code and content; an answer that needs the identity is an error without it;
a message on I3C may wake the package and nothing else of the part changes. A function's attestation request is queued, or
sets lost while its request is busy. -/
def Obligations.ManagementAnswers : Prop :=
  (∀ (s : State) (i3c : Bool) (msg : List Byte), msg.length ≤ 64 →
    (s.controlServed i3c = true → ∃ t, exec (.mctpControl i3c msg) s = .next t ∧
      t.out = s.out ++ [.mctp i3c (Config.mctpEncode (leBytes 8 (s.reg (BOOT_STATUS_state.addr 0)).toNat ++ msg))] ∧
      Changes [.regs, .out] s t ∧ RegsKept [PWR_STATUS_state.addr 0] s t) ∧
    (s.controlServed i3c = false → exec (.mctpControl i3c msg) s = .next s)) ∧
  (∀ (s : State) (i3c : Bool) (n : Nat), n < 19 →
    (s.mgmtRuns = true → ∃ t, exec (.pldmRequest i3c n) s = .next t ∧
      t.out = s.out ++ [.mctp i3c (Config.mctpEncode (leBytes 2 n ++ leBytes 2 (if n < 17 then s.rd PWR_ZONE_temp n
        else if n = 17 then s.rd PWR_PKG_TEMP_temp 0 else s.rd PWR_INPUT_watts 0)))] ∧
      Changes [.regs, .out] s t ∧ RegsKept [PWR_STATUS_state.addr 0] s t) ∧
    (s.mgmtRuns = false → exec (.pldmRequest i3c n) s = .next s)) ∧
  (∀ (s : State) (i3c : Bool) (nonce : W256) (offered : List Nat) (offset length : Nat) (c : Instr) (code : Nat)
      (content digest : List Byte), digest = leBytes 64 (sha3 s.boot.chain).toNat →
    ((c, code, content) = (.getVersion i3c, 0x84, [0x13]) ∨ (c, code, content) = (.getCapabilities i3c, 0xE1, []) ∨
      (c, code, content) = (.negotiateAlgorithms i3c offered, 0xE3, (offered.filter (fun a => a == 1 || a == 2)).flatMap (leBytes 1)) ∨
      (c, code, content) = (.getDigests i3c, 0x81, digest) ∨
      (c, code, content) = (.getCertificate i3c offset length, 0x82, (s.boot.chain.drop offset).take length) ∨
      (s.on BOOT_STATUS_identityOk 0 = true ∧
        ((c, code, content) = (.challenge i3c nonce, 0x83, digest ++ leBytes 32 nonce.toNat ++
          Config.sign s.boot.fuses.identitySeed 2 (sha3 (Config.spdmEncode 0x83 (digest ++ leBytes 32 nonce.toNat)))) ∨
        (c, code, content) = (.getMeasurements i3c nonce, 0xE0, s.report 0xFF nonce))) ∨
      (s.on BOOT_STATUS_identityOk 0 = false ∧
        ((c, code, content) = (.challenge i3c nonce, 0x7F, []) ∨ (c, code, content) = (.getMeasurements i3c nonce, 0x7F, [])))) →
    (s.mgmtRuns = true → ∃ t, exec c s = .next t ∧ t.out = s.out ++ [.mctp i3c (Config.spdmEncode code content)] ∧
      Changes [.regs, .out] s t ∧ RegsKept [PWR_STATUS_state.addr 0] s t) ∧
    (s.mgmtRuns = false → exec c s = .next s)) ∧
  (∀ (s : State) (src : Src) (f : Fin 64) (nonce : W256), ownFn src f = true →
    s.serves src (viewOff src f BOOT_ATTEST_CMD_start) = true → s.boot.phase = .running →
    (s.on BOOT_ATTEST_STATUS_busy f = false → ∃ t, exec (.attestRequest src f nonce) s = .next t ∧
      t.boot.attest = s.boot.attest ++ [(f.val, s.rd BOOT_ATTEST_ADDR_addr f, nonce)] ∧ t.on BOOT_ATTEST_STATUS_busy f = true ∧
      { t.boot with attest := s.boot.attest } = s.boot ∧ Changes [.regs, .boot] s t ∧
      RegsKept [BOOT_ATTEST_STATUS_busy.addr f] s t) ∧
    (s.on BOOT_ATTEST_STATUS_busy f = true → ∃ t, exec (.attestRequest src f nonce) s = .next t ∧
      t.on BOOT_ATTEST_STATUS_lost f = true ∧ Changes [.regs] s t ∧ RegsKept [BOOT_ATTEST_STATUS_lost.addr f] s t))

/-! ### Repair -/

/-- Fences, self-tests and spares. FENCE_QUARTER fences a quarter that nobody holds at once, halts a partition that loads or
runs on it, and waits for one on its way out; UNFENCE_QUARTER needs a fence and no failed test; BIST zeroes the Vat banks
and records what it found; SUBSTITUTE puts a unit of a fenced quarter on a free spare; FENCE_DIE turns a die off with its
ports and halts what loads or runs on it, UNFENCE_DIE turns it on where its links train; an op that names no command ends with ARG. While a repair runs these commands are ignored. -/
def Obligations.FencesAndSparesAct : Prop :=
  (∀ (s : State) (src : Src) (q : Fin 16) (d : Fin 4) (b tr : Bool) (u : Fin 8) (lanes : List (Nat × Nat × Nat)) (c : Instr),
    s.serves src (INT_REPAIR_CMD_op.addr 0) = true → s.on INT_REPAIR_STATUS_busy 0 = true → lanesOk lanes = true →
    c = .fenceQuarter src q ∨ c = .unfenceQuarter src q ∨ c = .bist src q ∨ c = .substitute src q b u ∨ c = .fenceDie src d ∨
      c = .unfenceDie src d ⟨tr, lanes⟩ → exec c s = .next s) ∧
  (∀ (s : State) (src : Src) (q : Fin 16), s.repairs src →
    ((s.q q).svc = .none → s.holder q = none → ∃ t, exec (.fenceQuarter src q) s = .next t ∧ t.repairDone 0 ∧ t.seenRepair ∧
      t.q q = { s.q q with
        svc := .fenced
        bistRun := false
        bistPass := false
        power := if (s.q q).power = .off ∧ bit s.dieFence (q / 4) = false then .waking else (s.q q).power } ∧
      (∀ k, k ≠ q.val → t.q k = s.q k) ∧ StkKept (s.wcb.map (·.word)) s t ∧
      Changes ([.quarters, .stk, .stkCode, .wcb, .held, .parts, .repair] ++ logPieces) s t ∧
      RegsKept (repairRegs ++ (upto 64).map INT_FN_NOTE_valid.addr) s t) ∧
    (∀ p : Fin 16, (s.q q).svc = .none → s.holder q = some p.val → (∀ k < 16, k ≠ p.val → bit (s.rd PART_STATUS_held k) q = false) →
      (s.pstate p = 1 ∨ s.pstate p = 2 → ∃ t, exec (.fenceQuarter src q) s = .next t ∧ t.pstate p = 0 ∧
        t.on PART_STATUS_halted p = true ∧ (t.q q).svc = .fenced ∧ t.repairDone 0 ∧ Changes haltPieces s t) ∧
      (s.pstate p = 3 ∨ s.pstate p = 4 ∨ s.pstate p = 7 → ∃ t, exec (.fenceQuarter src q) s = .next t ∧
        Starts ⟨1, 1 + 16 * q, q, s.frameNow, none⟩ t ∧ Changes [.regs, .repair] s t ∧
        RegsKept cmdRepairRegs s t)) ∧
    ((s.q q).svc ≠ .none → ∃ t, exec (.fenceQuarter src q) s = .next t ∧ Refused (if (s.q q).svc = .fenced then 0 else 1) s t) ∧
    ((s.q q).svc = .fenced → ((s.q q).bistRun = true → (s.q q).bistPass = true) → (s.q q).linkBad = false →
      bit s.dieFence (q / 4) = false → ∃ t, exec (.unfenceQuarter src q) s = .next t ∧
        t.q q = { s.q q with svc := .none, unheldSince := s.dt } ∧ (∀ k, k ≠ q.val → t.q k = s.q k) ∧
        (if (s.q q).power = .waking then Starts ⟨2, 2 + 16 * q, q, s.frameNow, none⟩ t else t.repairDone 0) ∧
        Changes [.regs, .quarters, .repair] s t ∧ RegsKept cmdRepairRegs s t) ∧
    ((s.q q).svc ≠ .fenced ∨ ((s.q q).bistRun = true ∧ (s.q q).bistPass = false) →
      ∃ t, exec (.unfenceQuarter src q) s = .next t ∧ Refused 1 s t) ∧
    ((s.q q).svc = .fenced → bit s.dieFence (q / 4) = false → ∃ t, exec (.bist src q) s = .next t ∧
      t.q q = { s.q q with svc := .test } ∧ (∀ k, k ≠ q.val → t.q k = s.q k) ∧ t.on INT_BIST_done q = false ∧
      Starts ⟨3, 3 + 16 * q, q, s.frameNow, none⟩ t ∧ Changes [.regs, .quarters, .repair] s t ∧
      RegsKept (INT_BIST_done.addr q :: cmdRepairRegs) s t) ∧
    ((s.q q).svc ≠ .fenced → ∃ t, exec (.bist src q) s = .next t ∧ Refused 1 s t) ∧
    (∀ u : Fin 8, (s.q q).svc = .fenced → u.val < 4 →
      (s.on INT_SPARE_pressUsed (q / 4) = false → 3 * (q.val / 4) ∉ s.badSpares → ∃ t, exec (.substitute src q false u) s = .next t ∧
        t.on INT_SPARE_pressUsed (q / 4) = true ∧ t.rd INT_SPARE_pressFor (q / 4) = 4 * (q.val % 4) + u.val ∧ t.repairDone 0 ∧
        t.seenRepair ∧ Listed 4 (subWord q false u) s t ∧ Changes ([.repair, .boot] ++ logPieces) s t ∧
        RegsKept ([INT_SPARE_pressUsed.addr (q / 4), BOOT_STATUS_listFull.addr 0] ++ repairRegs) s t) ∧
      (s.on INT_SPARE_pressUsed (q / 4) = true ∨ 3 * (q.val / 4) ∈ s.badSpares → ∃ t, exec (.substitute src q false u) s = .next t ∧
        t.repairDone 2 ∧ t.seenRepair ∧ Changes (.repair :: logPieces) s t ∧ RegsKept repairRegs s t)) ∧
    (∀ u : Fin 8, (s.q q).svc = .fenced → s.on INT_SPARE_burin0Used (q / 4) = false → 3 * (q.val / 4) + 1 ∉ s.badSpares →
      ∃ t, exec (.substitute src q true u) s = .next t ∧ t.on INT_SPARE_burin0Used (q / 4) = true ∧
        t.rd INT_SPARE_burin0For (q / 4) = 8 * (q.val % 4) + u.val ∧ t.repairDone 0 ∧ Listed 4 (subWord q true u) s t ∧
        Changes ([.repair, .boot] ++ logPieces) s t ∧
        RegsKept ([INT_SPARE_burin0Used.addr (q / 4), BOOT_STATUS_listFull.addr 0] ++ repairRegs) s t) ∧
    (∀ op : Fin 16, op.val = 0 ∨ 11 ≤ op.val → ∃ t, exec (.repairCmdInvalid src op) s = .next t ∧ Refused 5 s t)) ∧
  (∀ (s : State) (q : Fin 16) (r : BistResult) (cmd since : Nat), s.memWf → s.repair = some ⟨3, cmd, q, since, none⟩ → r.press < 16 →
    r.burin < 256 → r.spareBurin < 4 → ∃ t, exec (.bistComplete q r) s = .next t ∧ t.repairDone 0 ∧
      t.q q = { s.q q with svc := .fenced, bistRun := true, bistPass := bistGood r } ∧ (∀ k, k ≠ q.val → t.q k = s.q k) ∧
      (∀ a, a / 2 ^ 26 = q.val → mget 0 t.vat a = 0) ∧ (∀ a, a / 2 ^ 26 ≠ q.val → mget 0 t.vat a = mget 0 s.vat a) ∧
      t.on INT_BIST_done q = true ∧ t.on INT_BIST_pass q = bistGood r ∧ t.rd INT_BIST_press q = r.press ∧ t.rd INT_BIST_burin q = r.burin ∧
      t.on INT_BIST_vat q = r.vat ∧ t.on INT_BIST_churn q = r.churn ∧ t.on INT_BIST_dma q = r.dma ∧ t.on INT_BIST_checker q = r.checker ∧
      Changes ([.quarters, .vat, .vatCode, .badSpares, .repair] ++ logPieces) s t ∧ RegsKept (INT_BIST_done.addr q :: doneRepairRegs) s t) ∧
  (∀ (s : State) (src : Src) (d : Fin 4) (tr : Bool) (lanes : List (Nat × Nat × Nat)), s.repairs src → lanesOk lanes = true →
    (bit s.dieFence d = false → (∀ i < 4, s.holder (4 * d + i) = none) → ∃ t, exec (.fenceDie src d) s = .next t ∧
      bit t.dieFence d = true ∧ t.repairDone 0 ∧ t.seenRepair ∧ Listed 6 (6 + 2 ^ 8 * d) s t ∧
      (∀ i < 4, (t.q (4 * d + i)).power = .off ∧
        (t.q (4 * d + i)).svc = (if (s.q (4 * d + i)).svc = .none then .fenced else (s.q (4 * d + i)).svc) ∧
        t.portState (4 * d + i) = 0 ∧ t.on LRT_PORT_CTRL_enable (4 * d + i) = false) ∧
      (∀ q, q / 4 ≠ d.val → t.q q = s.q q) ∧ Changes haltPieces s t) ∧
    (bit s.dieFence d = false → ∃ t, exec (.fenceDie src d) s = .next t ∧ Changes haltPieces s t ∧
      ∀ i < 4, ∀ p < 16, s.holder (4 * d + i) = some p → s.pstate p = 1 ∨ s.pstate p = 2 →
        t.pstate p = 0 ∧ t.on PART_STATUS_halted p = true) ∧
    (bit s.dieFence d = true → (∃ t, exec (.fenceDie src d) s = .next t ∧ Refused 0 s t) ∧
      (s.memWf → tr = true → (s.trainLanes lanes (2 * d)).2 = true → (s.trainLanes lanes (2 * d + 1)).2 = true →
        ∃ t, exec (.unfenceDie src d ⟨tr, lanes⟩) s = .next t ∧ t.dieFence = s.dieFence - 2 ^ d.val ∧ t.repairDone 0 ∧
        (∀ i < 4, t.q (4 * d + i) = { s.q (4 * d + i) with power := .on, linkBad := false }) ∧ (∀ q, q / 4 ≠ d.val → t.q q = s.q q) ∧
        (∀ a, a / 2 ^ 28 = d.val → mget 0 t.vat a = 0) ∧ (∀ a, a / 2 ^ 28 ≠ d.val → mget 0 t.vat a = mget 0 s.vat a) ∧
        (∀ e, e / 16 = d.val → t.press.get e = default) ∧ (∀ e, e / 16 ≠ d.val → t.press.get e = s.press.get e) ∧
        (∀ c, c / 2048 = d.val → t.churn.get c = default) ∧ (∀ c, c / 2048 ≠ d.val → t.churn.get c = s.churn.get c) ∧
        (∀ k, k / 2 = d.val → t.on STK_LINK_STATUS_trained k = true ∧ ∀ g < 64, bit (t.rd STK_LANE_SPARE_spareUsed k) g =
          (bit (s.rd STK_LANE_SPARE_spareUsed k) g || lanes.any (fun l => l.1 == k && l.2.1 == g))) ∧
        Changes [.regs, .dieFence, .quarters, .vat, .vatCode, .press, .churn, .seqs, .repair] s t ∧
        RegsKept (cmdRepairRegs ++ [2 * d.val, 2 * d.val + 1].flatMap (fun k => [STK_LINK_STATUS_trained.addr k,
          STK_LANE_SPARE_spareUsed.addr k])) s t) ∧
      (tr = false ∨ (s.trainLanes lanes (2 * d)).2 = false ∨ (s.trainLanes lanes (2 * d + 1)).2 = false →
        ∃ t, exec (.unfenceDie src d ⟨tr, lanes⟩) s = .next t ∧ t.repairDone 1 ∧ bit (t.rd INT_CLASS_SEEN_class 0) 2 = true ∧
        Changes (.repair :: logPieces) s t ∧ RegsKept repairRegs s t)) ∧
    (bit s.dieFence d = false → ∃ t, exec (.unfenceDie src d ⟨tr, lanes⟩) s = .next t ∧ Refused 1 s t))

/-- Retirement, region initialisation and refetch. RETIRE starts the copy of a row, or retires a page that nobody maps, or a bank
or half of a fenced quarter; the copy's words are corrected or marked poisoned and the row goes to a spare; a region is
initialised to zero after 512 frames; a refetch from the host writes the region's words, one from a peer opens a window for
them, and its check ends it and the hold on the mapping partition's requests. -/
def Obligations.RetirementAndRefetchAct : Prop :=
  (∀ (s : State) (src : Src) (g : Fin 4) (q half : Fin 16) (region : Fin 16384) (bank : Fin 512) (cmd : Nat), s.repairs src →
    cmd = retireWord g q half region bank →
    (g.val = 0 → s.halfUp half = true → (s.rowMap.filter (fun e => e.1 == half.val && e.2.1 == bank.val)).length < 32 →
      ∃ t, exec (.retire src g q half region bank) s = .next t ∧ Starts ⟨5, cmd, half, s.frameNow, none⟩ t ∧
        t.rowCopy = some ⟨half, bank, bits (s.rd INT_REPAIR_ARG_arg 0) 0 15, s.frameNow⟩ ∧ Changes [.regs, .rowCopy, .repair] s t ∧
        RegsKept cmdRepairRegs s t) ∧
    (g.val = 0 → s.halfUp half = true → 32 ≤ (s.rowMap.filter (fun e => e.1 == half.val && e.2.1 == bank.val)).length →
      ∃ t, exec (.retire src g q half region bank) s = .next t ∧ t.repairDone 2 ∧ Changes (.repair :: logPieces) s t ∧
        RegsKept repairRegs s t) ∧
    (g.val = 0 → s.halfUp half = false → ∃ t, exec (.retire src g q half region bank) s = .next t ∧ Refused 1 s t) ∧
    (g.val = 1 → s.mapped half region = none → ∃ t, exec (.retire src g q half region bank) s = .next t ∧ t.repairDone 0 ∧
      t.seenRepair ∧ Listed 5 cmd s t ∧ t.region half region = { s.region half region with retired := true } ∧
      (∀ k, k ≠ regionKey half region → t.regions.get k = s.regions.get k) ∧ Changes ([.regions, .repair, .boot] ++ logPieces) s t ∧
      RegsKept (BOOT_STATUS_listFull.addr 0 :: repairRegs) s t) ∧
    (g.val = 1 → (s.mapped half region).isSome = true → ∃ t, exec (.retire src g q half region bank) s = .next t ∧ Refused 1 s t) ∧
    (g.val = 2 → (s.q q).svc = .fenced → ∃ t, exec (.retire src g q half region bank) s = .next t ∧ t.repairDone 0 ∧ t.seenRepair ∧
      Listed 5 cmd s t ∧ q.val * 512 + bank.val ∈ t.badBanks ∧ (∀ pail < 4096, (t.region q (bankRegion bank pail)).retired = true) ∧
      Changes ([.regions, .badBanks, .repair, .boot] ++ logPieces) s t ∧ RegsKept (BOOT_STATUS_listFull.addr 0 :: repairRegs) s t) ∧
    (g.val = 3 → s.memWf → (s.q q).svc = .fenced → ∃ t, exec (.retire src g q half region bank) s = .next t ∧ t.repairDone 0 ∧ t.seenRepair ∧
      Listed 5 cmd s t ∧ t.q q = { s.q q with svc := .retired, power := .off } ∧ (∀ a, stkHalf a = q.val → mget 0 t.stk a = 0) ∧
      (∀ a, stkHalf a ≠ q.val → mget 0 t.stk a = mget 0 s.stk a) ∧
      Changes ([.quarters, .stk, .stkCode, .repair, .boot] ++ logPieces) s t ∧ RegsKept (BOOT_STATUS_listFull.addr 0 :: repairRegs) s t) ∧
    (2 ≤ g.val → (s.q q).svc ≠ .fenced → ∃ t, exec (.retire src g q half region bank) s = .next t ∧ Refused 1 s t)) ∧
  (∀ (s u : State) (c : RowCopy), s.settle = u → u.rowCopy = some c →
    (∀ r : Repair, u.repair = some r → c.since + 128 ≤ u.frameNow → ∃ t, exec .rowCopySwitch s = .next t ∧ t.repairDone 0 ∧
      t.seenRepair ∧ t.rowCopy = none ∧ t.rowMap = u.rowMap ++ [(c.half, c.bank, c.row)] ∧ Listed 5 r.cmd u t ∧
      (∀ a ∈ dramRow c.half c.bank c.row, sealedKind (u.kindAt a) = true → t.stkWord a = (u.stkEcc a).data ∧
        t.stkCodeAt a = eccCode (u.stkEcc a).data ((u.stkEcc a).poison || (u.stkEcc a).res == .uncorrectable)) ∧
      (∀ p, ∀ pg ∈ (t.pool p).withheld, pg ∈ (u.pool p).withheld) ∧ StkKept (dramRow c.half c.bank c.row) u t ∧
      Changes ([.stk, .stkCode, .rowMap, .rowCopy, .parts, .pools, .repair, .boot] ++ logPieces) u t) ∧
    (u.frameNow < c.since + 128 → exec .rowCopySwitch s = .next u)) ∧
  (∀ (s : State) (c : RowCopy), s.rowCopy = some c →
    (c.since + 2 ^ 20 ≤ s.frameNow → ∃ t, exec .rowCopyTimeout s = .next t ∧ t.repairDone 6 ∧ t.rowCopy = none ∧
      Changes [.regs, .rowCopy, .repair] s t ∧ RegsKept [INT_REPAIR_STATUS_busy.addr 0] s t) ∧
    (s.frameNow < c.since + 2 ^ 20 → exec .rowCopyTimeout s = .next s)) ∧
  (∀ (s : State) (src : Src) (half : Fin 16) (region : Fin 16384), s.repairs src →
    (s.mapped half region = none → s.halfUp half = true → ∃ t, exec (.regionInit src half region) s = .next t ∧
      Starts ⟨8, 8 + 2 ^ 16 * half + 2 ^ 20 * region, regionKey half region, s.frameNow, none⟩ t ∧ Changes [.regs, .repair] s t ∧
      RegsKept cmdRepairRegs s t) ∧
    ((s.mapped half region).isSome = true ∨ s.halfUp half = false → ∃ t, exec (.regionInit src half region) s = .next t ∧
      Refused 1 s t) ∧
    (∀ j, bits (s.rd INT_REPAIR_ARG_arg 0) 0 4 = j →
      (j / 4 ≠ half.val / 4 → ∃ t, exec (.refetchPeer src half region) s = .next t ∧ Refused 5 s t) ∧
      (j / 4 = half.val / 4 → s.halfUp half = false ∨ sealedKind (s.kindOf half region) = false →
        ∃ t, exec (.refetchPeer src half region) s = .next t ∧ Refused 1 s t) ∧
      (j / 4 = half.val / 4 → s.halfUp half = true → sealedKind (s.kindOf half region) = true →
        (∀ n l k, s.freeWins (half / 4) = n :: l → s.portState j = 6 → k = winKey (half / 4) n →
          ∃ t, exec (.refetchPeer src half region) s = .next t ∧
            Starts ⟨10, 10 + 2 ^ 16 * half + 2 ^ 20 * region, regionKey half region, s.frameNow, some (j, k)⟩ t ∧
            (t.win k).state = 1 ∧ (t.win k).mask = 2 ^ (j % 4) ∧ (t.win k).fp = s.reg (LRT_PORT_PEER_fingerprint.addr j) ∧
            (t.win k).owner = (s.mapped half region).getD 0 ∧ (t.win k).desc = refetchDesc half region ∧ (t.win k).bytes = 0 ∧
            (∀ i, i ≠ k → t.win i = s.win i) ∧ Changes [.regs, .wins, .repair] s t ∧ RegsKept cmdRepairRegs s t) ∧
        (s.freeWins (half / 4) = [] ∨ s.portState j ≠ 6 → ∃ t, exec (.refetchPeer src half region) s = .next t ∧ t.repairDone 3 ∧
          t.seenRepair ∧ Changes (.repair :: logPieces) s t ∧ RegsKept repairRegs s t)))) ∧
  (∀ (s u : State) (src : Src) (half : Fin 16) (region : Fin 16384) (h : HostData) (w : Nat → W256), s.settle = u → u.repairs src →
    h.bytes.length = 2 ^ 21 ∨ h.failAfter.isSome = true → (∀ i, w i = BitVec.ofNat 256 (leAt h.bytes (32 * i) 32)) →
    (u.rd INT_REPAIR_ARG_arg 0 % 4096 ≠ 0 → ∃ t, exec (.refetchHost src half region h) s = .next t ∧ Refused 5 u t) ∧
    (u.rd INT_REPAIR_ARG_arg 0 % 4096 = 0 → u.halfUp half = false → ∃ t, exec (.refetchHost src half region h) s = .next t ∧
      Refused 1 u t) ∧
    (u.rd INT_REPAIR_ARG_arg 0 % 4096 = 0 → u.halfUp half = true → bit (u.rd SVC_QUAR_quarantined 0) 11 = true →
      ∃ t, exec (.refetchHost src half region h) s = .next t ∧ t.repairDone 3 ∧ t.seenRepair ∧ Changes (.repair :: logPieces) u t ∧
        RegsKept repairRegs u t) ∧
    (u.rd INT_REPAIR_ARG_arg 0 % 4096 = 0 → u.halfUp half = true → bit (u.rd SVC_QUAR_quarantined 0) 11 = false →
      sealedKind (u.kindOf half region) = true →
      (h.failAfter = none → h.poisoned = [] → h.hub = [] → ∃ t, exec (.refetchHost src half region h) s = .next t ∧
        Starts ⟨9, 9 + 2 ^ 16 * half + 2 ^ 20 * region, regionKey half region, u.frameNow, none⟩ t ∧
        (∀ i < 65536, t.stkWord (regionKey half region * 2 ^ 21 + 32 * i) = w i ∧
          t.stkCodeAt (regionKey half region * 2 ^ 21 + 32 * i) = eccCode (w i) false) ∧
        (∀ a, a / 2 ^ 21 ≠ regionKey half region → mget 0 t.stk a = mget 0 u.stk a) ∧
        Changes [.regs, .stk, .stkCode, .wcb, .held, .repair] u t ∧ RegsKept cmdRepairRegs u t) ∧
      (∀ n < 65536, h.failAfter = some n → (∀ i < n, i ∉ h.poisoned ∧ i ∉ h.hub) →
        ∃ t, exec (.refetchHost src half region h) s = .next t ∧ t.repairDone 3 ∧ t.seenRepair ∧
        (∀ i < n, t.stkWord (regionKey half region * 2 ^ 21 + 32 * i) = w i) ∧
        (∀ a, a / 2 ^ 21 ≠ regionKey half region → mget 0 t.stk a = mget 0 u.stk a) ∧
        Changes ([.stk, .stkCode, .wcb, .held, .repair] ++ logPieces) u t ∧ RegsKept repairRegs u t) ∧
      (∀ n < 65536, h.failAfter = none → n ∈ h.poisoned ∨ n ∈ h.hub → (∀ i < n, i ∉ h.poisoned ∧ i ∉ h.hub) →
        ∃ t, exec (.refetchHost src half region h) s = .next t ∧ t.repairDone 3 ∧ t.seenRepair ∧
        (∀ i ≤ n, t.stkWord (regionKey half region * 2 ^ 21 + 32 * i) = w i) ∧
        t.stkCodeAt (regionKey half region * 2 ^ 21 + 32 * n) = eccCode (w n) true ∧
        (∀ i, n < i → t.stkWord (regionKey half region * 2 ^ 21 + 32 * i) = u.stkWord (regionKey half region * 2 ^ 21 + 32 * i)) ∧
        (∀ a, a / 2 ^ 21 ≠ regionKey half region → mget 0 t.stk a = mget 0 u.stk a) ∧
        Changes ([.stk, .stkCode, .wcb, .held, .repair] ++ logPieces) u t ∧ RegsKept repairRegs u t))) ∧
  (∀ (s u : State) (r : Repair), s.settle = u → u.repair = some r →
    (r.op = 8 → u.memWf → r.since + 512 ≤ u.frameNow → u.kindOf (r.arg / 16384) (r.arg % 16384) ≠ 0 →
      ∃ t, exec .regionInitDone s = .next t ∧ t.repairDone 0 ∧ (∀ a, a / 2 ^ 21 = r.arg → mget 0 t.stk a = 0) ∧
        (∀ a, a / 2 ^ 21 ≠ r.arg → mget 0 t.stk a = mget 0 u.stk a) ∧
        Changes [.regs, .stk, .stkCode, .wcb, .held, .repair] u t ∧ RegsKept [INT_REPAIR_STATUS_busy.addr 0] u t) ∧
    (r.op = 8 → u.frameNow < r.since + 512 → exec .regionInitDone s = .next u) ∧
    (r.op = 9 ∨ r.op = 10 → u.refetchArrived r = true → r.since + 512 ≤ u.frameNow → mwf default u.reqs = true →
      ((∀ i < 65536, (u.stkEcc (r.arg * 2 ^ 21 + 32 * i)).res ≠ .uncorrectable) → ∃ t, exec .refetchVerify s = .next t ∧
        t.repairDone 0 ∧ t.stk = u.stk ∧ (∀ p, u.mapped (r.arg / 16384) (r.arg % 16384) = some p →
          (∀ k ∈ (t.part p).faults, regionFault (r.arg / 16384) (r.arg % 16384) k = false ∧ k ∈ (u.part p).faults) ∧
          ∀ i ∈ slots, (u.req i).part = p → (t.req i).heldFor =
            (u.req i).heldFor.filter (fun k => !regionFault (r.arg / 16384) (r.arg % 16384) k)) ∧
        Changes ([.reqs, .parts, .wins, .repair] ++ logPieces) u t) ∧
      ((∃ i < 65536, (u.stkEcc (r.arg * 2 ^ 21 + 32 * i)).res = .uncorrectable) → ∃ t, exec .refetchVerify s = .next t ∧
        t.repairDone 4 ∧ t.stk = u.stk ∧ t.reqs = u.reqs)) ∧
    (r.op = 9 ∨ r.op = 10 → u.refetchArrived r = false ∨ u.frameNow < r.since + 512 → exec .refetchVerify s = .next u))

/-- The scrub engine and the log's head. A scrub takes the next sealed word of its bank, or the next word of its Vat bank; a word
that is not clean is rewritten, in stack memory by a held rewrite; INT_LOG_HEAD marks entries as read unless it would pass
tail. -/
def Obligations.ScrubsAndLogHeadAct : Prop :=
  (∀ (s u : State) (half : Fin 16) (bank : Fin 512) (k n a : Nat), s.settle = u → u.scrubs = true → u.rd INT_SCRUB_CFG_stackInterval 0 ≠ 0 →
    u.bankScrubbed half bank = true → k = half * 512 + bank → u.nextSealed half bank (u.scrubStk.get k) = some n →
    a = stkAddr half bank (n / 512) (n % 512) →
    ((u.stkEcc a).res = .clean → ∃ t, exec (.scrubStackWord half bank) s = .next t ∧ t.scrubStk.get k = n + 1 ∧
      (∀ i, i ≠ k → t.scrubStk.get i = u.scrubStk.get i) ∧ Changes [.scrubStk] u t) ∧
    ((u.stkEcc a).res ≠ .clean → ∃ t, exec (.scrubStackWord half bank) s = .next t ∧ t.scrubStk.get k = n + 1 ∧
      t.held = u.held.filter (fun h => !(h.scrub && h.word == a)) ++ [⟨a, (u.stkEcc a).data,
        eccCode (u.stkEcc a).data ((u.stkEcc a).poison || (u.stkEcc a).res == .uncorrectable), fullMask, true, none, 0⟩] ∧
      (∀ i, i ≠ k → t.scrubStk.get i = u.scrubStk.get i) ∧ Changes ([.scrubStk, .held, .parts] ++ logPieces) u t ∧ OnlyReadRegs u t)) ∧
  (∀ (s u : State) (bank : Fin 4096) (w a : Nat), s.settle = u → u.scrubs = true → u.rd INT_SCRUB_CFG_vatInterval 0 ≠ 0 →
    u.vatScrubbed (bank / 256) = true → u.scrubVat.get bank = w → w < 6144 → a = bank / 256 * 2 ^ 26 + w * 8192 + bank % 256 * 32 →
    ∃ t, exec (.scrubVatWord bank) s = .next t ∧ t.scrubVat.get bank = (w + 1) % 6144 ∧
      ((u.vatEcc a).res = .clean → t.vat = u.vat) ∧
      ((u.vatEcc a).res ≠ .clean → t.vatWord a = (u.vatEcc a).data ∧
        t.vatCodeAt a = eccCode (u.vatEcc a).data ((u.vatEcc a).poison || (u.vatEcc a).res == .uncorrectable)) ∧
      VatWordsKept [a] u t ∧ (∀ i, i ≠ bank.val → t.scrubVat.get i = u.scrubVat.get i) ∧
      Changes ([.vat, .vatCode, .scrubVat, .vatLaps] ++ logPieces) u t ∧ RegsKept (INT_SCRUB_STATUS_vatSweeps.addr 0 :: logRegs) u t) ∧
  (∀ (s : State) (src : Src) (v : W64) (n : Nat), s.serves src (INT_LOG_HEAD_head.addr 0) = true →
    n = (v.toNat % 1024 + 1024 - s.rd INT_LOG_HEAD_head 0) % 1024 →
    (n ≤ s.rd INT_LOG_STATUS_unread 0 → ∃ t, exec (.logHeadWrite src v) s = .next t ∧ t.rd INT_LOG_HEAD_head 0 = v.toNat % 1024 ∧
      t.rd INT_LOG_STATUS_unread 0 = s.rd INT_LOG_STATUS_unread 0 - n ∧ Changes [.regs] s t ∧
      RegsKept [INT_LOG_HEAD_head.addr 0, INT_LOG_STATUS_unread.addr 0] s t) ∧
    (s.rd INT_LOG_STATUS_unread 0 < n → exec (.logHeadWrite src v) s = .next s))

/-! ### Supply, temperature, trips -/

/-- Supply readings, windows and temperature. A reading of 30 V or more stands in PWR_INPUT, one below takes
the part's power; one that enters another row logs SUPPLY, an abnormal one sets supply; one
above the effective cap raises L_p, and a window below 0.9 of it lowers L_p; a window wholly below 36 V or above 60 V starts a
shutdown. A zone reading stands in its register with its state; a hot and not falling zone raises L_t, one at its shutdown
threshold starts a shutdown, an optical one takes its engine's ports down; a cool window lowers L_t. -/
def Obligations.SupplyAndTemperatureAct : Prop :=
  (∀ (s : State) (v a w row c : Nat), s.aon.powered = true → 3000 ≤ v → v < 65536 → a < 65536 → w < 65536 → row = supplyRowOf v →
    c = (if v < 4050 then Nat.min (100 * s.rd PWR_CFG_capW 0) (119 * v) else 100 * s.rd PWR_CFG_capW 0) →
    ∃ t, exec (.supplyReading v a w) s = .next t ∧ t.rd PWR_INPUT_volts 0 = v ∧ t.rd PWR_INPUT_amps 0 = a ∧
      t.rd PWR_INPUT_watts 0 = w ∧ t.pwr.supplyRow = row ∧
      (row ≠ s.pwr.supplyRow → bit (t.rd INT_CLASS_SEEN_class 0) 11 = true ∧ (row ≠ 0 → t.on PWR_STATUS_supply 0 = true)) ∧
      (c < 100 * w → t.on PWR_STATUS_cap 0 = true ∧ (s.rd PWR_STATUS_levelP 0 < 4 →
        t.rd PWR_STATUS_levelP 0 = s.rd PWR_STATUS_levelP 0 + 1 ∧
        t.rd PWR_STATUS_level 0 = Nat.max (s.rd PWR_STATUS_levelT 0) (s.rd PWR_STATUS_levelP 0 + 1))) ∧
      (100 * w ≤ c ∨ 4 ≤ s.rd PWR_STATUS_levelP 0 → t.rd PWR_STATUS_levelP 0 = s.rd PWR_STATUS_levelP 0 ∧
        t.rd PWR_STATUS_level 0 = s.rd PWR_STATUS_level 0 ∧ t.ports = s.ports ∧ t.groups = s.groups) ∧
      t.rd PWR_STATUS_state 0 = s.rd PWR_STATUS_state 0 ∧ Changes ([.pwr, .ports, .groups] ++ logPieces) s t ∧
      RegsKept powerRegs s t) ∧
  (∀ (s : State) (v a w : Nat), s.aon.powered = true → v < 3000 → a < 65536 → w < 65536 →
    exec (.supplyReading v a w) s = exec .powerLoss s) ∧
  (∀ s : State,
    (s.pwr.anySupply = true → s.rd PWR_STATUS_state 0 = 1 ∨ s.rd PWR_STATUS_state 0 = 2 → s.pwr.allLow = true ∨ s.pwr.allHigh = true →
      ∃ t, exec .supplyWindowEnd s = .next t ∧ ShutsDown s t ∧ t.pwr.anySupply = false ∧
        (s.pwr.allHigh = true → t.on PWR_STATUS_supply 0 = true)) ∧
    (s.pwr.anySupply = false ∨ s.rd PWR_STATUS_state 0 = 0 ∨ (s.pwr.allLow = false ∧ s.pwr.allHigh = false) →
      ∃ t, exec .supplyWindowEnd s = .next t ∧ t.pwr.anySupply = false ∧ t.pwr.allLow = true ∧ t.pwr.allHigh = true ∧
        t.pwr.overVolt = (s.pwr.overVolt && (s.pwr.anyHigh || !s.pwr.anySupply)) ∧ Changes [.pwr] s t) ∧
    (∀ (c : Instr) (ok : Bool) (f other : Fld),
      (c = .limiterWindowEnd ∧ ok = s.pwr.allUnder ∧ f = PWR_STATUS_levelP ∧ other = PWR_STATUS_levelT) ∨
        (c = .thermalWindowEnd ∧ ok = s.pwr.allCool ∧ f = PWR_STATUS_levelT ∧ other = PWR_STATUS_levelP) →
      (ok = true → s.rd f 0 ≠ 0 → ∃ t, exec c s = .next t ∧ t.rd f 0 = s.rd f 0 - 1 ∧
        t.rd PWR_STATUS_level 0 = Nat.max (s.rd f 0 - 1) (s.rd other 0) ∧ t.rd other 0 = s.rd other 0 ∧
        Changes [.regs, .pwr, .ports, .groups, .msixPend, .out] s t ∧
        RegsKept [PWR_STATUS_state.addr 0, DEV_IRQ_CAUSE_cause.addr 0] s t) ∧
      (ok = false ∨ s.rd f 0 = 0 → ∃ t, exec c s = .next t ∧ Changes [.pwr] s t))) ∧
  (∀ (s : State) (z : Fin 17) (r : Int) (c st : Nat), s.aon.powered = true → -32768 ≤ r → r < 32768 → zoneClass z = c →
    zoneNext c (s.rd PWR_ZONE_state z) r = st → s.rd PWR_STATUS_state 0 ≠ 4 →
    ∃ t, exec (.zoneReading z r) s = .next t ∧ t.rd PWR_ZONE_temp z = (BitVec.ofInt 16 r).toNat ∧ t.rd PWR_ZONE_state z = st ∧
      t.rd PWR_ZONE_stamp z = s.dt % 2 ^ 32 ∧ (t.zones.get z).prev = some r ∧
      (s.rd PWR_ZONE_state z = 0 → st ≠ 0 → t.on PWR_STATUS_warning 0 = true ∧ bit (t.rd INT_CLASS_SEEN_class 0) 11 = true) ∧
      (c ≠ 2 → zoneReaches c r 0 2 = true → (∀ x, (s.zones.get z).prev = some x → x ≤ r) → s.rd PWR_STATUS_levelT 0 < 4 →
        t.rd PWR_STATUS_levelT 0 = s.rd PWR_STATUS_levelT 0 + 1 ∧ t.on PWR_STATUS_throttle 0 = true ∧
        t.rd PWR_STATUS_level 0 = Nat.max (s.rd PWR_STATUS_levelT 0 + 1) (s.rd PWR_STATUS_levelP 0)) ∧
      (c ≠ 2 → zoneReaches c r 0 3 = true → s.rd PWR_STATUS_state 0 = 1 ∨ s.rd PWR_STATUS_state 0 = 2 → ShutsDown s t) ∧
      (c ≠ 2 → zoneReaches c r 0 2 = false → zoneReaches c r 0 3 = false → t.rd PWR_STATUS_levelT 0 = s.rd PWR_STATUS_levelT 0 ∧
        t.rd PWR_STATUS_state 0 = s.rd PWR_STATUS_state 0 ∧ t.parts = s.parts ∧ t.ports = s.ports) ∧
      (c = 2 → ∀ i < 4, (t.port (4 * (z - 12) + i)).heldDown = (st == 3) ∧
        (st = 3 → 2 ≤ s.portState (4 * (z - 12) + i) → t.portState (4 * (z - 12) + i) = 1)) ∧ t.vat = s.vat)

/-- The end of a shutdown and the trips. At the end of its grace every partition that is not closing its windows is EMPTY, and a
part with nothing left to send is TRIPPED with every quarter OFF; a hard trip does so at once, logs it, sets hard_trip and
drives thermtrip_n; the loss of the reference is a hard trip, or holds a booting part in reset; the loss of power leaves the
fuses and the image alone. -/
def Obligations.TripsAct : Prop :=
  (∀ (s : State) (t0 : Nat), s.pwr.shutAt = some t0 → s.rd PWR_STATUS_state 0 = 3 →
    (s.dt < t0 + 200000 → exec .shutdownGraceEnd s = .next s) ∧
    (t0 + 200000 ≤ s.dt → ∃ t, exec .shutdownGraceEnd s = .next t ∧
      (∀ p < 16, (s.part p).closing = none → t.pstate p = 0) ∧
      ((∀ p < 16, s.pstate p = 0) → (∀ j < 16, s.portState j < 6 ∨ ∀ c ∈ (s.port j).egress, ¬ (c.typ = 2 ∧ c.aux = 5)) →
        t.rd PWR_STATUS_state 0 = 4 ∧ t.pwr.shutAt = none ∧ t.pwr.tripPin = false ∧ AllOff t))) ∧
  (∀ s : State, s.aon.powered = true →
    (s.rd PWR_STATUS_state 0 = 4 → exec .hardTrip s = .next s) ∧
    (s.rd PWR_STATUS_state 0 ≠ 4 → ∃ t, exec .hardTrip s = .next t ∧ t.rd PWR_STATUS_state 0 = 4 ∧ t.on PWR_STATUS_hardTrip 0 = true ∧
      t.thermtripLow = true ∧ bit (t.rd INT_CLASS_SEEN_class 0) 11 = true ∧ AllOff t ∧ (∀ p < 16, t.pstate p = 0) ∧
      (∀ i ∈ slots, (t.req i).st = .free) ∧ (∀ j < 16, 5 ≤ s.portState j → s.portState j ≤ 7 → t.portState j = 1) ∧
      (∀ f < 64, (t.cqs.get f).waiting = [])) ∧
    (s.aon.refLost = true → exec .refclkLoss s = .next s) ∧
    (s.aon.refLost = false → ∃ t, exec .refclkLoss s = .next t ∧ t.aon.refLost = true ∧ t.aon.slewPpm.natAbs ≤ 50000 ∧
      (s.boot.phase = .held → t.boot.phase = .refHeld ∧ Changes [.aon, .boot, .free] s t) ∧
      (s.boot.phase ≠ .held → s.rd PWR_STATUS_state 0 ≠ 4 → t.rd PWR_STATUS_state 0 = 4 ∧ AllOff t ∧ ∀ p < 16, t.pstate p = 0))) ∧
  (∀ s : State, ∃ t, exec .powerLoss s = .next t ∧ t.aon.powered = false ∧ t.boot.fuses = s.boot.fuses ∧
    t.boot.copyA = s.boot.copyA ∧ t.boot.copyB = s.boot.copyB ∧ t.boot.list = s.boot.list ∧ t.boot.chain = s.boot.chain ∧
    t.out = s.out ∧ Changes [.dt, .aon, .boot, .fuses, .free, .pending, .out] State.reset t)

/-! ### Dormant and wake -/

/-- Dormant and wake. A quiet AWAKE package enters Dormant on command or after idling, its quarters OFF, its Vat lost and its UP
ports in LOW; in any other case DORMANT sets dormant_refused. A wake command or an enabled wake event starts a wake of a Dormant
package; its end makes it AWAKE and takes the quarters of stacks that did not re-lock out of service, and the accesses held for it are served. A quarter that wakes has
a Vat, Press buffers and churns of zeros, and the last one a load waits for completes it; one that idles long enough goes OFF. -/
def Obligations.DormantAndWakeAct : Prop :=
  (∀ (s : State) (src : Src) (ms : Nat) (c : Instr), s.rd PWR_CFG_autoDormantMs 0 = ms →
    ((c = .dormant src ∧ s.serves src (PWR_CMD_op.addr 0) = true) ∨
      (c = .autoDormant ∧ ms ≠ 0 ∧ s.aon.idleSince + 100000 * ms ≤ s.dt)) →
    (s.rd PWR_STATUS_state 0 = 2 → s.quiet = true → s.on INT_REPAIR_STATUS_busy 0 = false → ∃ t, exec c s = .next t ∧
      t.rd PWR_STATUS_state 0 = 0 ∧ AllOff t ∧ StkKept (s.wcb.map (·.word)) s t ∧
      (∀ j < 16, t.portState j = (if 5 ≤ s.portState j ∧ s.portState j ≤ 7 then 4 else s.portState j)) ∧
      Changes ([.quarters, .vat, .vatCode, .stk, .stkCode, .wcb, .held, .parts, .cqs, .ports, .free] ++ logPieces) s t) ∧
    (c = .dormant src → s.rd PWR_STATUS_state 0 = 0 → exec c s = .next s) ∧
    (c = .dormant src → s.rd PWR_STATUS_state 0 ≠ 0 → s.rd PWR_STATUS_state 0 ≠ 2 ∨ s.quiet = false ∨ s.on INT_REPAIR_STATUS_busy 0 = true →
      ∃ t, exec c s = .next t ∧ t.on PWR_STATUS_dormantRefused 0 = true ∧ Changes [.regs] s t ∧ RegsKept [PWR_STATUS_state.addr 0] s t)) ∧
  (∀ (s : State) (src : Src) (k : Fin 4) (c : Instr), ((c = .wake src ∧ s.serves src (PWR_CMD_op.addr 0) = true) ∨
      (c = .wakeEvent k ∧ bit (s.rd PWR_WAKE_CFG_src 0) k = true ∧
        (k.val = 3 → s.rd PWR_WAKE_AT_dt 0 ≠ 0 ∧ s.rd PWR_WAKE_AT_dt 0 ≤ s.dt))) →
    (s.rd PWR_STATUS_state 0 = 0 → s.pwr.overVolt = false → ∃ t, exec c s = .next t ∧ t.rd PWR_STATUS_state 0 = 1 ∧
      Changes [.regs] s t ∧ RegsKept [PWR_STATUS_state.addr 0] s t) ∧
    (s.rd PWR_STATUS_state 0 ≠ 0 ∨ s.pwr.overVolt = true → exec c s = .next s)) ∧
  (∀ (s : State) (k : Fin 4), bit (s.rd PWR_WAKE_CFG_src 0) k = false → exec (.wakeEvent k) s = .next s) ∧
  (∀ (s : State) (badPress badStack : List Nat), s.rd PWR_STATUS_state 0 = 1 → s.boot.phase = .running →
    (∀ l ∈ badPress, l < 6) → (∀ k ∈ badStack, k < 8) →
    (s.heldAccess = [] → ∃ t, exec (.wakeComplete badPress badStack) s = .next t ∧
      t.rd PWR_STATUS_state 0 = 2 ∧ t.aon.idleSince = s.dt ∧
      (∀ k ∈ badStack, ∀ i < 2, (t.q (2 * k + i)).linkBad = true ∧ (t.q (2 * k + i)).svc ≠ .none) ∧
      (badPress = [] → badStack = [] → s.rd PWR_WAKE_CFG_resume 0 = 0 → (∀ q < 16, t.q q = (if (s.q q).svc = .fenced ∧
          (s.q q).power = .off ∧ bit s.dieFence (q / 4) = false then { s.q q with power := .waking } else s.q q)) ∧
        Changes [.regs, .aon, .quarters] s t ∧ RegsKept [PWR_STATUS_state.addr 0] s t)) ∧
    (∀ (src : Src) (off size a : Nat) (v : W64) (w : State),
      s.heldAccess = [{ src := src, off := off, write := some (size, v), port := none }] →
      { s.awake badPress badStack with heldAccess := [] } = w → w.serves src off = true → w.writeOff src off = some a →
      needsRow a size v = false → exec (.wakeComplete badPress badStack) s = .next (w.regWrite a size v))) ∧
  (∀ (s : State) (q : Fin 16), s.memWf →
    ((s.q q).power ≠ .waking → exec (.quarterWakeDone q) s = .next s) ∧
    ((s.q q).power = .waking → s.pcmd = none → (∀ k < 16, s.pstate k ≠ 6) → ∃ t, exec (.quarterWakeDone q) s = .next t ∧
      t.q q = { s.q q with power := .on } ∧ (∀ k, k ≠ q.val → t.q k = s.q k) ∧ (∀ a, a / 2 ^ 26 = q.val → mget 0 t.vat a = 0) ∧
      (∀ a, a / 2 ^ 26 ≠ q.val → mget 0 t.vat a = mget 0 s.vat a) ∧
      (∀ e, t.press.get e = (if e / 4 = q.val then default else s.press.get e)) ∧
      (∀ c, t.churn.get c = (if c / 512 = q.val then default else s.churn.get c)) ∧
      (∀ r, s.repair = some r → r.op = 2 → r.arg = q.val → t.repairDone 0) ∧
      Changes [.regs, .quarters, .vat, .vatCode, .press, .churn, .seqs, .repair] s t ∧ RegsKept [INT_REPAIR_STATUS_busy.addr 0] s t) ∧
    (∀ (p : Fin 16) (img : PlateImage), (s.q q).power = .waking → s.pcmd = some ⟨1, p, some img, .waking⟩ → (∀ k < 16, s.pstate k ≠ 6) →
      (∀ k ∈ s.maskOf p, k ≠ q.val → (s.q k).power = .on) → ∃ t, exec (.quarterWakeDone q) s = .next t ∧ t.pcmdDone 0 ∧
        (t.part p).starting = true ∧ (t.part p).waking = false ∧ t.aon.plateLoaded = true ∧
        (∀ k ∈ plateRegions img (s.part p).bind, (p.val, k) ∈ t.maps) ∧ t.stk = s.stk) ∧
    (∀ us, s.rd PWR_CFG_idleOffUs 0 = us → us ≠ 0 → s.holder q = none → (s.q q).svc = .none → (s.q q).power = .on →
      ((s.q q).unheldSince + 100 * us ≤ s.dt → ∃ t, exec (.quarterIdleOff q) s = .next t ∧ t.q q = { s.q q with power := .off } ∧
        (∀ k, k ≠ q.val → t.q k = s.q k) ∧ (∀ a, a / 2 ^ 26 = q.val → mget 0 t.vat a = 0) ∧
        (∀ a, a / 2 ^ 26 ≠ q.val → mget 0 t.vat a = mget 0 s.vat a) ∧ StkKept (s.wcb.map (·.word)) s t ∧
        (∀ e ∈ t.wcb, stkHalf e.word ≠ q.val) ∧
        Changes ([.quarters, .vat, .vatCode, .stk, .stkCode, .wcb, .held, .parts] ++ logPieces) s t) ∧
      (s.dt < (s.q q).unheldSince + 100 * us → exec (.quarterIdleOff q) s = .next s)))

/-! ### Resets and boot -/

/-- The resets. A cold reset clears the stacks and starts device time at 0, a warm reset keeps the time and what the stacks hold
and counts itself, and both boot by what they find; without the reference the part waits in reset. The start watchdog marks
the running copy bad and leads to a warm reset. A boot during which a compute or DRAM zone reaches its shutdown threshold ends
TRIPPED. A part held in reset boots when it is released, one that waits for the
reference when that comes back, and a TRIPPED one that has cooled leaves TRIPPED then. -/
def Obligations.ResetsAct : Prop :=
  (∀ (s : State) (src : Src) (f : BootFindings) (c : Instr), findingsOk f = true →
    (c = .coldReset f ∨ (c = .resetColdCmd src f ∧ s.serves src (BOOT_RESET_CMD_op.addr 0) = true)) →
    (s.aon.refLost = true → ∃ t, exec c s = .next t ∧ t.boot.phase = .refHeld ∧ t.dt = 0 ∧ t.regs = State.reset.regs ∧
      t.vat = [] ∧ t.stk = [] ∧ t.boot.fuses = s.boot.fuses ∧ t.boot.copyA = s.boot.copyA ∧ t.boot.copyB = s.boot.copyB) ∧
    (s.aon.refLost = false → ∃ t, exec c s = .next t ∧ t.dt = 0 ∧ Boots f (fun _ => false) s t ∧
      (f.fuseBad ≠ none → t.vat = [] ∧ t.stk = [] ∧ t.parts = []))) ∧
  (∀ (s : State) (src : Src) (f : BootFindings) (c : Instr), findingsOk f = true → s.aon.powered = true →
    (s.boot.phase = .running ∨ s.boot.phase = .recovery →
      (c = .warmReset f ∨ (c = .resetWarmCmd src f ∧ s.serves src (BOOT_RESET_CMD_op.addr 0) = true)) → s.aon.refLost = false →
      ∃ t, exec c s = .next t ∧ t.dt = s.dt ∧ Boots f s.badSlot s t ∧
        (f.fuseBad ≠ none → t.rd BOOT_STATUS_warmResets 0 = Nat.min (2 ^ 32 - 1) (s.rd BOOT_STATUS_warmResets 0 + 1) ∧
          t.vat = [] ∧ t.parts = [] ∧ t.regions = s.regions ∧ t.rowMap = s.rowMap ∧ t.boot.fuses = s.boot.fuses ∧
          (∀ i < 2, t.badSlot i = s.badSlot i) ∧
          StkKept (s.wcb.map (·.word) ++ s.held.map (·.word)) s t)) ∧
    (s.boot.phase = .held ∨ s.boot.phase = .failed → exec (.warmReset f) s = .next s)) ∧
  (∀ (s : State) (f : BootFindings) (k : Nat), findingsOk f = true → s.aon.powered = true → s.aon.refLost = false →
    s.boot.phase = .running → s.rd BOOT_STATUS_copy 0 = k → ∃ t, exec (.startWatchdog f) s = .next t ∧ t.dt = s.dt ∧
      Boots f (fun i => i == k || s.badSlot i) s t ∧ (f.fuseBad ≠ none → t.badSlot k = true ∧
        t.rd BOOT_STATUS_warmResets 0 = Nat.min (2 ^ 32 - 1) (s.rd BOOT_STATUS_warmResets 0 + 1))) ∧
  (∀ (s : State) (f : BootFindings), findingsOk f = true →
    (s.aon.powered = true → s.boot.phase = .held → s.aon.refLost = false → ∃ t, exec (.resetRelease f) s = .next t ∧ t.dt = s.dt ∧
      Boots f s.badSlot s t) ∧
    (s.aon.powered = false ∨ s.boot.phase ≠ .held ∨ s.aon.refLost = true → exec (.resetRelease f) s = .next s) ∧
    (s.aon.refLost = false → exec (.refclkRestored f) s = .next s) ∧
    (s.aon.refLost = true → s.boot.phase = .refHeld → s.aon.powered = true → ∃ t, exec (.refclkRestored f) s = .next t ∧ t.dt = 0 ∧
      t.aon.refLost = false ∧ Boots f (fun _ => false) s t) ∧
    (s.aon.refLost = true → s.boot.phase ≠ .refHeld → s.rd PWR_STATUS_state 0 = 4 → ∃ t, exec (.refclkRestored f) s = .next t ∧
      t.aon.refLost = false ∧ t.aon.slewPpm = 0 ∧
      t.rd PWR_STATUS_state 0 = (if 4050 ≤ s.rd PWR_INPUT_volts 0 ∧ s.rd PWR_INPUT_volts 0 ≤ 5700 ∧
        (upto 17).all (fun z => decide (s.zoneTemp z < zoneWarn (zoneClass z) - 48)) = true then 0 else 4) ∧
      Changes [.regs, .aon, .pwr] s t ∧ RegsKept [PWR_STATUS_state.addr 0] s t))

/-- The boot's choice of a copy (R358): among the copies not marked bad it takes one that passes every check, the higher sequence
first and copy A on a tie, the other copy where the first fails check 8 or 9; where none remains the part enters RECOVERY, else
it boots with the copy chosen. -/
def Obligations.BootChoosesTheCopy : Prop :=
  (∀ (s : State) (slot : Nat) (c : ImageCopy), s.chooses s.badSlot slot c → (s.pickSlot s.slotOrder).2 = some slot) ∧
  (∀ (s : State) (f : BootFindings), findingsOk f = true → f.fuseBad = none → s.boot.fuses.revoke % 4 ≠ 3 → s.aon.powered = true →
    s.aon.refLost = false → s.boot.phase = .held →
    ((∀ slot < 2, ∀ c, s.copyAt slot = some c → s.badSlot slot = true ∨ s.boot.fuses.copyCause c ≠ 0) →
      ∃ t, exec (.resetRelease f) s = .next t ∧ t.boot.phase = .recovery ∧ t.rd BOOT_STATUS_state 0 = 2) ∧
    (∀ slot c, s.chooses s.badSlot slot c → f.hot = none → f.hubBad = false → c.records = [] →
      ∃ t, exec (.resetRelease f) s = .next t ∧ t.boot.phase = .running ∧ t.rd BOOT_STATUS_copy 0 = slot))


/-! ### Updates and fuses -/

/-- The update commands. An image that is aligned, fetched, good in the length given and of a higher sequence is programmed into the slot that does
not run, which fails check 8 until it reads back right; each fuse command programs its fuses or ends with its cause; a record
slot takes the bytes given. While an update runs every command is lost. -/
def Obligations.UpdatesAct : Prop :=
  (∀ (s : State) (src : Src) (img : Option ImageCopy) (h : Option W512) (b : Option (List Byte)) (c : Instr),
    s.serves src (BOOT_UPDATE_CMD_op.addr 0) = true → s.on BOOT_UPDATE_STATUS_busy 0 = true → s.boot.phase = .running →
    c = .updateImage src img ∨ c = .commitSvn src ∨ c = .fuseOwnerKey src h ∨ c = .requireOwner src ∨ c = .revokeVendorSlot src ∨
      c = .disableDebug src ∨ c = .writeRecordArea src b → ∃ t, exec c s = .next t ∧ t.on BOOT_UPDATE_STATUS_lost 0 = true ∧
      Changes [.regs] s t ∧ RegsKept [BOOT_UPDATE_STATUS_busy.addr 0] s t) ∧
  (∀ (s : State) (src : Src) (img c : ImageCopy) (slot : Nat), s.updates src → img.cut (s.rd BOOT_UPDATE_LEN_len 0) = c →
    slot = (if s.on BOOT_STATUS_copy 0 = true then 0 else 1) →
    (s.rd BOOT_UPDATE_ADDR_addr 0 % 4096 ≠ 0 → ∃ t, exec (.updateImage src (some img)) s = .next t ∧ Ended 2 0 s t) ∧
    (s.rd BOOT_UPDATE_ADDR_addr 0 % 4096 = 0 → (∃ t, exec (.updateImage src none) s = .next t ∧ Ended 3 0 s t) ∧
      (s.fetchOpen = false → ∃ t, exec (.updateImage src (some img)) s = .next t ∧ Ended 3 0 s t) ∧
      (s.fetchOpen = true →
        (s.boot.fuses.copyCause c ≠ 0 → ∃ t, exec (.updateImage src (some img)) s = .next t ∧ Ended 4 (s.boot.fuses.copyCause c) s t) ∧
        (s.boot.fuses.copyCause c = 0 →
          (∀ x, s.runningCopy = some x → c.sequence ≤ x.sequence → ∃ t, exec (.updateImage src (some img)) s = .next t ∧ Ended 5 0 s t) ∧
          ((∀ x, s.runningCopy = some x → x.sequence < c.sequence) → ∃ t, exec (.updateImage src (some img)) s = .next t ∧
            t.boot.update = some (slot, c) ∧ (t.copyAt slot).map t.boot.fuses.copyCause = some 8 ∧
            t.copyAt slot = some { c with torn := true } ∧ t.copyAt (1 - slot) = s.copyAt (1 - slot) ∧
            t.on BOOT_UPDATE_STATUS_busy 0 = true ∧ Changes [.regs, .boot] s t ∧ RegsKept [BOOT_UPDATE_STATUS_busy.addr 0] s t))))) ∧
  (∀ (s : State) (c : ImageCopy) (slot : Nat), slot < 2 → s.boot.update = some (slot, c) →
    (∃ t, exec (.imageUpdateDone true) s = .next t ∧ t.boot.update = none ∧ t.copyAt slot = some c ∧
      t.copyAt (1 - slot) = s.copyAt (1 - slot) ∧ t.updateDone 0 0 ∧ Changes [.regs, .boot] s t ∧
      RegsKept [BOOT_UPDATE_STATUS_busy.addr 0] s t) ∧
    (∃ t, exec (.imageUpdateDone false) s = .next t ∧ t.boot.update = none ∧ t.copyAt slot = s.copyAt slot ∧ t.updateDone 6 0 ∧
      Changes [.regs, .boot] s t ∧ RegsKept [BOOT_UPDATE_STATUS_busy.addr 0] s t)) ∧
  (∀ (s : State) (src : Src) (f : Fuses), s.updates src → s.boot.fuses = f →
    (∀ c, s.runningCopy = some c →
      (f.svn < c.svn → ∃ t, exec (.commitSvn src) s = .next t ∧ Fused { f with svn := Nat.min 64 c.svn } s t) ∧
      (c.svn ≤ f.svn → ∃ t, exec (.commitSvn src) s = .next t ∧ Ended 1 0 s t) ∧
      (f.ownerFused = true → f.ownerOk c = true → ∃ t, exec (.requireOwner src) s = .next t ∧ Fused { f with ownerRequired := true } s t) ∧
      (f.ownerFused = false ∨ f.ownerOk c = false → ∃ t, exec (.requireOwner src) s = .next t ∧ Ended 1 0 s t) ∧
      (∀ k h, s.rd BOOT_UPDATE_LEN_len 0 % 2 = k → h = (if k = 0 then f.vendor0 else f.vendor1) →
        (c.vendorKeySha = h → ∃ t, exec (.revokeVendorSlot src) s = .next t ∧ Ended 1 0 s t) ∧
        (c.vendorKeySha ≠ h → ∃ t, exec (.revokeVendorSlot src) s = .next t ∧ Fused { f with revoke := f.revoke ||| 2 ^ k } s t))) ∧
    (∀ h : W512, s.rd BOOT_UPDATE_ADDR_addr 0 % 4096 = 0 → s.fetchOpen = true →
      (f.ownerFused = false → ∃ t, exec (.fuseOwnerKey src (some h)) s = .next t ∧
        Fused { f with ownerHash := h, ownerFused := true } s t) ∧
      (f.ownerFused = true → ∃ t, exec (.fuseOwnerKey src (some h)) s = .next t ∧ Ended 1 0 s t)) ∧
    (∃ t, exec (.disableDebug src) s = .next t ∧ Fused { f with debugDisable := true } s t) ∧
    (∀ op : Fin 16, op.val = 0 ∨ op.val = 2 ∨ 9 ≤ op.val → ∃ t, exec (.updateCmdInvalid src op) s = .next t ∧ Ended 2 0 s t)) ∧
  (∀ (s : State) (src : Src) (b : List Byte) (item size : Nat), s.updates src → s.rd BOOT_UPDATE_ADDR_addr 0 % 4096 = 0 →
    s.fetchOpen = true → bits (s.rd BOOT_UPDATE_LEN_len 0) 40 2 = item → bits (s.rd BOOT_UPDATE_LEN_len 0) 0 40 = size →
    size ≤ b.length →
    (item ≤ 2 → size ≤ recordSlot item → ∃ t, exec (.writeRecordArea src (some b)) s = .next t ∧ t.updateDone 0 0 ∧
      (item = 0 → { t.boot with chain := s.boot.chain } = s.boot ∧ t.boot.chain = b.take size) ∧
      (item = 1 → { t.boot with endorsement := s.boot.endorsement } = s.boot ∧ t.boot.endorsement = b.take size) ∧
      (item = 2 → { t.boot with list := s.boot.list } = s.boot ∧ t.on BOOT_STATUS_listFull 0 = false) ∧
      Changes [.regs, .boot, .free] s t ∧ RegsKept [BOOT_UPDATE_STATUS_busy.addr 0, BOOT_STATUS_listFull.addr 0] s t) ∧
    (item ≤ 2 → recordSlot item < size → ∃ t, exec (.writeRecordArea src (some b)) s = .next t ∧ Ended 1 0 s t) ∧
    (item = 3 → ∃ t, exec (.writeRecordArea src (some b)) s = .next t ∧ Ended 2 0 s t))

/-! ### Every command -/

/-- No command touches the queue: after a step from any state exactly the front command is gone (the model's form, log 3). -/
def Obligations.OnlyTheFrontCommandIsTaken : Prop :=
  (∀ (c : Instr) (s t : State), exec c s = .next t → t.pending = s.pending) ∧
  (∀ s t : State, step s = .next t → t.pending = s.pending.tail)

/-- The memories keep their canonical form through every step. -/
def Obligations.MemoriesStayCanonical : Prop := ∀ s t : State, s.memWf → step s = .next t → t.memWf

/-- Through every step, a reset or a loss of power among them, the fuses only gain: the security version grows up to 64, revoked
slots stay revoked, a fused owner, the owner requirement and a disabled debug stay, the vendor hashes never change. -/
def Obligations.FusesAreOneWay : Prop :=
  ∀ s t : State, s.boot.fuses.svn ≤ 64 → step s = .next t → FusesGrow s.boot.fuses t.boot.fuses

/-- The state after reset meets what every step keeps: memories in canonical form, listing nothing; a security version within
the fuses; nothing queued. -/
def Obligations.ResetMeetsTheInvariants : Prop :=
  State.reset.memWf ∧ State.reset.vat = [] ∧ State.reset.stk = [] ∧ State.reset.boot.fuses.svn ≤ 64 ∧ State.reset.pending = []
end

