-- ==== Sys2Proof/Laws/Bits.lean ====
section
/-! SUPPORT. Bit fields: a field read after it is set, and a field apart from it. -/

namespace Sys2Proof

/-- The parts of a number around a field. -/
theorem setBits_eq (x lo wid v : Nat) :
    setBits x lo wid v = x / 2 ^ (lo + wid) * 2 ^ (lo + wid) + (v % 2 ^ wid) * 2 ^ lo + x % 2 ^ lo := by
  unfold setBits bits
  have h1 : x = x / 2 ^ lo * 2 ^ lo + x % 2 ^ lo := (Nat.div_add_mod' x (2 ^ lo)).symm
  have h2 : x / 2 ^ lo = x / 2 ^ lo / 2 ^ wid * 2 ^ wid + x / 2 ^ lo % 2 ^ wid := (Nat.div_add_mod' _ (2 ^ wid)).symm
  have h3 : x / 2 ^ lo / 2 ^ wid = x / 2 ^ (lo + wid) := by rw [Nat.div_div_eq_div_mul, Nat.pow_add]
  have h4 : x / 2 ^ lo * 2 ^ lo = x / 2 ^ (lo + wid) * 2 ^ (lo + wid) + x / 2 ^ lo % 2 ^ wid * 2 ^ lo := by
    conv_lhs => rw [h2, h3]
    rw [Nat.add_mul, Nat.mul_assoc, ← Nat.pow_add, Nat.add_comm wid lo]
  omega

/-- A field reads as what it was set to, at its width. -/
theorem bits_setBits_same (x lo wid v : Nat) : bits (setBits x lo wid v) lo wid = v % 2 ^ wid := by
  rw [setBits_eq, bits]
  have hl : x % 2 ^ lo < 2 ^ lo := Nat.mod_lt _ (Nat.two_pow_pos lo)
  have : x / 2 ^ (lo + wid) * 2 ^ (lo + wid) + (v % 2 ^ wid) * 2 ^ lo + x % 2 ^ lo =
      x % 2 ^ lo + (x / 2 ^ (lo + wid) * 2 ^ wid + v % 2 ^ wid) * 2 ^ lo := by
    rw [Nat.add_mul, Nat.mul_assoc, ← Nat.pow_add, Nat.add_comm wid lo]; omega
  rw [this, Nat.add_mul_div_right _ _ (Nat.two_pow_pos lo), Nat.div_eq_of_lt hl, Nat.zero_add,
    Nat.mul_add_mod_self_right, Nat.mod_mod]

/-- A field below or above the one that is set reads as before. -/
theorem bits_setBits_apart (x lo wid v lo' wid' : Nat) (h : lo' + wid' ≤ lo ∨ lo + wid ≤ lo') :
    bits (setBits x lo wid v) lo' wid' = bits x lo' wid' := by
  rw [setBits_eq]
  unfold bits
  have hl : x % 2 ^ lo < 2 ^ lo := Nat.mod_lt _ (Nat.two_pow_pos lo)
  rcases h with h | h
  · obtain ⟨e, rfl⟩ := Nat.exists_eq_add_of_le h
    rw [← Nat.mod_mul_right_div_self, ← Nat.mod_mul_right_div_self, ← Nat.pow_add]
    congr 1
    have h1 : 2 ^ (lo' + wid' + e + wid) = 2 ^ (lo' + wid') * 2 ^ (e + wid) := by rw [← Nat.pow_add]; congr 1; omega
    have h2 : 2 ^ (lo' + wid' + e) = 2 ^ (lo' + wid') * 2 ^ e := by rw [← Nat.pow_add]
    rw [h1, h2]
    generalize x / (2 ^ (lo' + wid') * 2 ^ (e + wid)) = a
    generalize v % 2 ^ wid = b
    have h3 : a * (2 ^ (lo' + wid') * 2 ^ (e + wid)) + b * (2 ^ (lo' + wid') * 2 ^ e) + x % (2 ^ (lo' + wid') * 2 ^ e) =
        x % (2 ^ (lo' + wid') * 2 ^ e) + 2 ^ (lo' + wid') * (a * 2 ^ (e + wid) + b * 2 ^ e) := by ring
    rw [h3, Nat.add_mul_mod_self_left, Nat.mod_mul_right_mod]
  · obtain ⟨e, rfl⟩ := Nat.exists_eq_add_of_le h
    congr 1
    rw [Nat.pow_add 2 (lo + wid) e, ← Nat.div_div_eq_div_mul, ← Nat.div_div_eq_div_mul]
    congr 1
    have hv : (v % 2 ^ wid) * 2 ^ lo + x % 2 ^ lo < 2 ^ (lo + wid) := by
      have := Nat.mod_lt v (Nat.two_pow_pos wid)
      have h5 : (v % 2 ^ wid + 1) * 2 ^ lo ≤ 2 ^ wid * 2 ^ lo := Nat.mul_le_mul_right _ this
      rw [Nat.pow_add, Nat.mul_comm (2 ^ lo)]
      have h6 : (v % 2 ^ wid + 1) * 2 ^ lo = v % 2 ^ wid * 2 ^ lo + 2 ^ lo := by ring
      omega
    rw [Nat.add_assoc, Nat.add_comm, Nat.add_mul_div_right _ _ (Nat.two_pow_pos _), Nat.div_eq_of_lt hv, Nat.zero_add]

/-- A field set in a 64-bit number leaves a 64-bit number. -/
theorem setBits_lt (x lo wid v : Nat) (hx : x < 2 ^ 64) (h : lo + wid ≤ 64) : setBits x lo wid v < 2 ^ 64 := by
  rw [setBits_eq]
  obtain ⟨e, he⟩ := Nat.exists_eq_add_of_le h
  have hl : x % 2 ^ lo < 2 ^ lo := Nat.mod_lt _ (Nat.two_pow_pos lo)
  have hv : (v % 2 ^ wid) * 2 ^ lo + x % 2 ^ lo < 2 ^ (lo + wid) := by
    have := Nat.mod_lt v (Nat.two_pow_pos wid)
    have h5 : (v % 2 ^ wid + 1) * 2 ^ lo ≤ 2 ^ wid * 2 ^ lo := Nat.mul_le_mul_right _ this
    rw [Nat.pow_add, Nat.mul_comm (2 ^ lo)]
    have h6 : (v % 2 ^ wid + 1) * 2 ^ lo = v % 2 ^ wid * 2 ^ lo + 2 ^ lo := by ring
    omega
  have hx' : x / 2 ^ (lo + wid) < 2 ^ e := by
    rw [Nat.div_lt_iff_lt_mul (Nat.two_pow_pos _), ← Nat.pow_add, Nat.add_comm e, ← he]; exact hx
  have h7 : (x / 2 ^ (lo + wid) + 1) * 2 ^ (lo + wid) ≤ 2 ^ e * 2 ^ (lo + wid) := Nat.mul_le_mul_right _ hx'
  have h8 : (2 : Nat) ^ 64 = 2 ^ e * 2 ^ (lo + wid) := by rw [← Nat.pow_add, Nat.add_comm e, ← he]
  have h9 : (x / 2 ^ (lo + wid) + 1) * 2 ^ (lo + wid) = x / 2 ^ (lo + wid) * 2 ^ (lo + wid) + 2 ^ (lo + wid) := by ring
  omega

/-- A field of a set field reads at most its width. -/
theorem bits_lt (x lo wid : Nat) : bits x lo wid < 2 ^ wid := Nat.mod_lt _ (Nat.two_pow_pos wid)

end Sys2Proof
end

