-- ==== Sys2Proof/Laws/Map.lean ====
section
/-! SUPPORT. Sparse maps: a read after a write, at the key written and at every other key; the canonical form is kept. -/

namespace Sys2Proof

/-- Entries at or below a key are skipped when they are dropped. -/
theorem mget_dropWhile {α : Type} (d : α) (k k' : Nat) (h : k ≤ k') (ne : k ≠ k') :
    ∀ m : NMap α, mget d (m.dropWhile (fun e => decide (e.1 ≤ k))) k' = mget d m k'
  | [] => rfl
  | (j, v) :: t => by
    by_cases hj : j ≤ k
    · have hjk : j < k' := by omega
      simp [List.dropWhile, hj, mget, hjk, mget_dropWhile d k k' h ne t]
    · simp [List.dropWhile, hj]

/-- After the drop nothing is listed at or below the key. -/
theorem mget_dropWhile_le {α : Type} (d : α) (k k' : Nat) (h : k' ≤ k) :
    ∀ m : NMap α, mget d (m.dropWhile (fun e => decide (e.1 ≤ k))) k' = d
  | [] => rfl
  | (j, v) :: t => by
    by_cases hj : j ≤ k
    · simp [List.dropWhile, hj, mget_dropWhile_le d k k' h t]
    · have h1 : ¬ j < k' := by omega
      have h2 : ¬ j = k' := by omega
      simp [List.dropWhile, hj, mget, h1, h2]

/-- The key written reads as the value written. -/
@[simp] theorem mget_mset_same {α : Type} [DecidableEq α] (d v : α) (k : Nat) :
    ∀ m : NMap α, mget d (mset d m k v) k = v
  | [] => by
    by_cases h : v = d <;> simp [mset, mget, h]
  | (j, w) :: t => by
    by_cases h1 : j < k
    · simp [mset, h1, mget, mget_mset_same d v k t]
    · by_cases h2 : j = k
      · by_cases h3 : v = d
        · simp [mset, h2, h3, mget_dropWhile_le]
        · simp [mset, h2, h3, mget]
      · by_cases h3 : v = d <;> simp [mset, h1, h2, h3, mget]

/-- Every other key reads as before, whatever its own default is. -/
theorem mget_mset_ne {α : Type} [DecidableEq α] (d d' v : α) (k k' : Nat) (h : k' ≠ k) :
    ∀ m : NMap α, mget d' (mset d m k v) k' = mget d' m k'
  | [] => by
    by_cases h3 : v = d
    · simp [mset, h3]
    · by_cases h4 : k < k' <;> simp [mset, h3, mget, h4, Ne.symm h]
  | (j, w) :: t => by
    by_cases h1 : j < k
    · simp [mset, h1, mget, mget_mset_ne d d' v k k' h t]
    · by_cases h2 : j = k
      · subst h2
        by_cases h3 : v = d
        · by_cases h4 : j < k'
          · simp [mset, h3, mget, h4, mget_dropWhile d' j k' (by omega) (by omega)]
          · have h5 : k' ≤ j := by omega
            simp [mset, h3, mget, h4, Ne.symm h, mget_dropWhile_le d' j k' h5]
        · simp [mset, h3, mget, Ne.symm h]
      · by_cases h3 : v = d
        · simp [mset, h1, h2, h3]
        · by_cases h4 : k < k'
          · simp [mset, h1, h2, h3, mget, h4]
          · have h5 : ¬ j < k' := by omega
            have h6 : ¬ j = k' := by omega
            simp [mset, h1, h2, h3, mget, h4, h5, h6, Ne.symm h]

@[simp] theorem NMap.get_set_same {α : Type} [DecidableEq α] [Inhabited α] (m : NMap α) (k : Nat) (v : α) :
    NMap.get (NMap.set m k v) k = v := mget_mset_same _ _ _ _

theorem NMap.get_set_ne {α : Type} [DecidableEq α] [Inhabited α] (m : NMap α) (k k' : Nat) (v : α) (h : k' ≠ k) :
    NMap.get (NMap.set m k v) k' = NMap.get m k' := mget_mset_ne _ _ _ _ _ h _

@[simp] theorem NMap.get_upd_same {α : Type} [DecidableEq α] [Inhabited α] (m : NMap α) (k : Nat) (f : α → α) :
    NMap.get (NMap.upd m k f) k = f (NMap.get m k) := mget_mset_same _ _ _ _

theorem NMap.get_upd_ne {α : Type} [DecidableEq α] [Inhabited α] (m : NMap α) (k k' : Nat) (f : α → α) (h : k' ≠ k) :
    NMap.get (NMap.upd m k f) k' = NMap.get m k' := mget_mset_ne _ _ _ _ _ h _

/-! ### The canonical form -/

/-- A form that starts at `lo` starts at any lower bound. -/
theorem mwfFrom_mono {α : Type} [DecidableEq α] (d : α) (lo lo' : Nat) (h : lo' ≤ lo) :
    ∀ m : NMap α, mwfFrom d lo m = true → mwfFrom d lo' m = true
  | [], _ => rfl
  | (j, v) :: t, hm => by
    simp only [mwfFrom, Bool.and_eq_true, decide_eq_true_eq] at hm ⊢
    exact ⟨⟨by omega, hm.1.2⟩, hm.2⟩

/-- Nothing is dropped from a map that starts above the key. -/
theorem dropWhile_mwfFrom {α : Type} [DecidableEq α] (d : α) (k : Nat) :
    ∀ m : NMap α, mwfFrom d (k + 1) m = true → m.dropWhile (fun e => decide (e.1 ≤ k)) = m
  | [], _ => rfl
  | (j, v) :: t, hm => by
    simp only [mwfFrom, Bool.and_eq_true, decide_eq_true_eq] at hm
    have : ¬ j ≤ k := by omega
    simp [List.dropWhile, this]

/-- A write keeps the canonical form from a bound at or below its key. -/
theorem mwfFrom_mset {α : Type} [DecidableEq α] (d v : α) (k : Nat) :
    ∀ (lo : Nat) (m : NMap α), lo ≤ k → mwfFrom d lo m = true → mwfFrom d lo (mset d m k v) = true
  | lo, [], hk, _ => by
    by_cases h : v = d <;> simp [mset, mwfFrom, h, hk]
  | lo, (j, w) :: t, hk, hm => by
    have hm' := hm
    simp only [mwfFrom, Bool.and_eq_true, decide_eq_true_eq] at hm
    obtain ⟨⟨h1, h2⟩, h3⟩ := hm
    by_cases hj : j < k
    · simp [mset, hj, mwfFrom, h1, h2, mwfFrom_mset d v k (j + 1) t (by omega) h3]
    · by_cases hjk : j = k
      · subst hjk
        by_cases hv : v = d
        · simp [mset, hv, dropWhile_mwfFrom d j t h3, mwfFrom_mono d (j + 1) lo (by omega) t h3]
        · simp [mset, hv, mwfFrom, h1, h3]
      · have hkj : k + 1 ≤ j := by omega
        by_cases hv : v = d
        · simp [mset, hj, hjk, hv, mwfFrom, h1, h2, h3]
        · simp [mset, hj, hjk, hv, mwfFrom, hk, hkj, h2, h3]

/-- A write keeps the canonical form. -/
theorem mwf_mset {α : Type} [DecidableEq α] (d v : α) (k : Nat) (m : NMap α) (h : mwf d m = true) :
    mwf d (mset d m k v) = true := mwfFrom_mset d v k 0 m (by omega) h

/-- Entries chosen by key keep the canonical form. -/
theorem mwfFrom_keep {α : Type} [DecidableEq α] (d : α) (p : Nat → Bool) :
    ∀ (lo : Nat) (m : NMap α), mwfFrom d lo m = true → mwfFrom d lo (m.keep p) = true
  | _, [], _ => rfl
  | lo, (j, w) :: t, hm => by
    simp only [mwfFrom, Bool.and_eq_true, decide_eq_true_eq] at hm
    obtain ⟨⟨h1, h2⟩, h3⟩ := hm
    have ih := mwfFrom_keep d p (j + 1) t h3
    by_cases hp : p j
    · simp only [NMap.keep, List.filter, hp, mwfFrom, Bool.and_eq_true, decide_eq_true_eq]
      exact ⟨⟨h1, h2⟩, ih⟩
    · simp only [NMap.keep, List.filter, hp]
      exact mwfFrom_mono d (j + 1) lo (by omega) _ ih

theorem mwf_keep {α : Type} [DecidableEq α] (d : α) (p : Nat → Bool) (m : NMap α) (h : mwf d m = true) :
    mwf d (m.keep p) = true := mwfFrom_keep d p 0 m h

/-- A canonical map lists no default: reading equal at every key means equal maps. -/
theorem mget_below {α : Type} [DecidableEq α] (d : α) :
    ∀ (lo k : Nat) (m : NMap α), mwfFrom d lo m = true → k < lo → mget d m k = d
  | _, _, [], _, _ => rfl
  | lo, k, (j, v) :: t, hm, hk => by
    simp only [mwfFrom, Bool.and_eq_true, decide_eq_true_eq] at hm
    have h1 : ¬ j < k := by omega
    have h2 : ¬ j = k := by omega
    simp [mget, h1, h2]

end Sys2Proof
end

