-- ==== Sys2Proof/Laws/State.lean ====
section
/-! SUPPORT. The named updates of the state, field by field: what each leaves as it was, and what a read of what it
writes gives. -/

namespace Sys2Proof.Machine

open Sys2Proof

/-! ### setReg -/

@[simp] theorem State.setReg_pending (s : State) (a : Nat) (v : W64) : (s.setReg a v).pending = s.pending := rfl
@[simp] theorem State.setReg_aon (s : State) (a : Nat) (v : W64) : (s.setReg a v).aon = s.aon := rfl
@[simp] theorem State.setReg_grid (s : State) (a : Nat) (v : W64) : (s.setReg a v).grid = s.grid := rfl
@[simp] theorem State.setReg_quarters (s : State) (a : Nat) (v : W64) : (s.setReg a v).quarters = s.quarters := rfl
@[simp] theorem State.setReg_dieFence (s : State) (a : Nat) (v : W64) : (s.setReg a v).dieFence = s.dieFence := rfl
@[simp] theorem State.setReg_vat (s : State) (a : Nat) (v : W64) : (s.setReg a v).vat = s.vat := rfl
@[simp] theorem State.setReg_vatCode (s : State) (a : Nat) (v : W64) : (s.setReg a v).vatCode = s.vatCode := rfl
@[simp] theorem State.setReg_work (s : State) (a : Nat) (v : W64) : (s.setReg a v).work = s.work := rfl
@[simp] theorem State.setReg_plateT (s : State) (a : Nat) (v : W64) : (s.setReg a v).plateT = s.plateT := rfl
@[simp] theorem State.setReg_slotCfg (s : State) (a : Nat) (v : W64) : (s.setReg a v).slotCfg = s.slotCfg := rfl
@[simp] theorem State.setReg_stk (s : State) (a : Nat) (v : W64) : (s.setReg a v).stk = s.stk := rfl
@[simp] theorem State.setReg_stkCode (s : State) (a : Nat) (v : W64) : (s.setReg a v).stkCode = s.stkCode := rfl
@[simp] theorem State.setReg_regions (s : State) (a : Nat) (v : W64) : (s.setReg a v).regions = s.regions := rfl
@[simp] theorem State.setReg_maps (s : State) (a : Nat) (v : W64) : (s.setReg a v).maps = s.maps := rfl
@[simp] theorem State.setReg_wcb (s : State) (a : Nat) (v : W64) : (s.setReg a v).wcb = s.wcb := rfl
@[simp] theorem State.setReg_held (s : State) (a : Nat) (v : W64) : (s.setReg a v).held = s.held := rfl
@[simp] theorem State.setReg_cellSeq (s : State) (a : Nat) (v : W64) : (s.setReg a v).cellSeq = s.cellSeq := rfl
@[simp] theorem State.setReg_refill (s : State) (a : Nat) (v : W64) : (s.setReg a v).refill = s.refill := rfl
@[simp] theorem State.setReg_rowMap (s : State) (a : Nat) (v : W64) : (s.setReg a v).rowMap = s.rowMap := rfl
@[simp] theorem State.setReg_rowCopy (s : State) (a : Nat) (v : W64) : (s.setReg a v).rowCopy = s.rowCopy := rfl
@[simp] theorem State.setReg_badBanks (s : State) (a : Nat) (v : W64) : (s.setReg a v).badBanks = s.badBanks := rfl
@[simp] theorem State.setReg_lanes (s : State) (a : Nat) (v : W64) : (s.setReg a v).lanes = s.lanes := rfl
@[simp] theorem State.setReg_press (s : State) (a : Nat) (v : W64) : (s.setReg a v).press = s.press := rfl
@[simp] theorem State.setReg_burin (s : State) (a : Nat) (v : W64) : (s.setReg a v).burin = s.burin := rfl
@[simp] theorem State.setReg_churn (s : State) (a : Nat) (v : W64) : (s.setReg a v).churn = s.churn := rfl
@[simp] theorem State.setReg_seqs (s : State) (a : Nat) (v : W64) : (s.setReg a v).seqs = s.seqs := rfl
@[simp] theorem State.setReg_parts (s : State) (a : Nat) (v : W64) : (s.setReg a v).parts = s.parts := rfl
@[simp] theorem State.setReg_bound (s : State) (a : Nat) (v : W64) : (s.setReg a v).bound = s.bound := rfl
@[simp] theorem State.setReg_pcmd (s : State) (a : Nat) (v : W64) : (s.setReg a v).pcmd = s.pcmd := rfl
@[simp] theorem State.setReg_measStart (s : State) (a : Nat) (v : W64) : (s.setReg a v).measStart = s.measStart := rfl
@[simp] theorem State.setReg_measEnd (s : State) (a : Nat) (v : W64) : (s.setReg a v).measEnd = s.measEnd := rfl
@[simp] theorem State.setReg_measOn (s : State) (a : Nat) (v : W64) : (s.setReg a v).measOn = s.measOn := rfl
@[simp] theorem State.setReg_measNext (s : State) (a : Nat) (v : W64) : (s.setReg a v).measNext = s.measNext := rfl
@[simp] theorem State.setReg_reqs (s : State) (a : Nat) (v : W64) : (s.setReg a v).reqs = s.reqs := rfl
@[simp] theorem State.setReg_pools (s : State) (a : Nat) (v : W64) : (s.setReg a v).pools = s.pools := rfl
@[simp] theorem State.setReg_rings (s : State) (a : Nat) (v : W64) : (s.setReg a v).rings = s.rings := rfl
@[simp] theorem State.setReg_cqs (s : State) (a : Nat) (v : W64) : (s.setReg a v).cqs = s.cqs := rfl
@[simp] theorem State.setReg_dmaQ (s : State) (a : Nat) (v : W64) : (s.setReg a v).dmaQ = s.dmaQ := rfl
@[simp] theorem State.setReg_cfgSpace (s : State) (a : Nat) (v : W64) : (s.setReg a v).cfgSpace = s.cfgSpace := rfl
@[simp] theorem State.setReg_masked (s : State) (a : Nat) (v : W64) : (s.setReg a v).masked = s.masked := rfl
@[simp] theorem State.setReg_vfEnable (s : State) (a : Nat) (v : W64) : (s.setReg a v).vfEnable = s.vfEnable := rfl
@[simp] theorem State.setReg_numVfs (s : State) (a : Nat) (v : W64) : (s.setReg a v).numVfs = s.numVfs := rfl
@[simp] theorem State.setReg_msixPend (s : State) (a : Nat) (v : W64) : (s.setReg a v).msixPend = s.msixPend := rfl
@[simp] theorem State.setReg_rmt (s : State) (a : Nat) (v : W64) : (s.setReg a v).rmt = s.rmt := rfl
@[simp] theorem State.setReg_heldAccess (s : State) (a : Nat) (v : W64) : (s.setReg a v).heldAccess = s.heldAccess := rfl
@[simp] theorem State.setReg_ports (s : State) (a : Nat) (v : W64) : (s.setReg a v).ports = s.ports := rfl
@[simp] theorem State.setReg_wins (s : State) (a : Nat) (v : W64) : (s.setReg a v).wins = s.wins := rfl
@[simp] theorem State.setReg_groups (s : State) (a : Nat) (v : W64) : (s.setReg a v).groups = s.groups := rfl
@[simp] theorem State.setReg_sendings (s : State) (a : Nat) (v : W64) : (s.setReg a v).sendings = s.sendings := rfl
@[simp] theorem State.setReg_ptp (s : State) (a : Nat) (v : W64) : (s.setReg a v).ptp = s.ptp := rfl
@[simp] theorem State.setReg_log (s : State) (a : Nat) (v : W64) : (s.setReg a v).log = s.log := rfl
@[simp] theorem State.setReg_repair (s : State) (a : Nat) (v : W64) : (s.setReg a v).repair = s.repair := rfl
@[simp] theorem State.setReg_scrubStk (s : State) (a : Nat) (v : W64) : (s.setReg a v).scrubStk = s.scrubStk := rfl
@[simp] theorem State.setReg_scrubVat (s : State) (a : Nat) (v : W64) : (s.setReg a v).scrubVat = s.scrubVat := rfl
@[simp] theorem State.setReg_stkLaps (s : State) (a : Nat) (v : W64) : (s.setReg a v).stkLaps = s.stkLaps := rfl
@[simp] theorem State.setReg_vatLaps (s : State) (a : Nat) (v : W64) : (s.setReg a v).vatLaps = s.vatLaps := rfl
@[simp] theorem State.setReg_badSpares (s : State) (a : Nat) (v : W64) : (s.setReg a v).badSpares = s.badSpares := rfl
@[simp] theorem State.setReg_zones (s : State) (a : Nat) (v : W64) : (s.setReg a v).zones = s.zones := rfl
@[simp] theorem State.setReg_pwr (s : State) (a : Nat) (v : W64) : (s.setReg a v).pwr = s.pwr := rfl
@[simp] theorem State.setReg_boot (s : State) (a : Nat) (v : W64) : (s.setReg a v).boot = s.boot := rfl
@[simp] theorem State.setReg_out (s : State) (a : Nat) (v : W64) : (s.setReg a v).out = s.out := rfl
@[simp] theorem State.setReg_free (s : State) (a : Nat) (v : W64) : (s.setReg a v).free = s.free := rfl

/-! ### wr -/

@[simp] theorem State.wr_pending (s : State) (f : Fld) (i v : Nat) : (s.wr f i v).pending = s.pending := rfl
@[simp] theorem State.wr_aon (s : State) (f : Fld) (i v : Nat) : (s.wr f i v).aon = s.aon := rfl
@[simp] theorem State.wr_grid (s : State) (f : Fld) (i v : Nat) : (s.wr f i v).grid = s.grid := rfl
@[simp] theorem State.wr_quarters (s : State) (f : Fld) (i v : Nat) : (s.wr f i v).quarters = s.quarters := rfl
@[simp] theorem State.wr_dieFence (s : State) (f : Fld) (i v : Nat) : (s.wr f i v).dieFence = s.dieFence := rfl
@[simp] theorem State.wr_vat (s : State) (f : Fld) (i v : Nat) : (s.wr f i v).vat = s.vat := rfl
@[simp] theorem State.wr_vatCode (s : State) (f : Fld) (i v : Nat) : (s.wr f i v).vatCode = s.vatCode := rfl
@[simp] theorem State.wr_work (s : State) (f : Fld) (i v : Nat) : (s.wr f i v).work = s.work := rfl
@[simp] theorem State.wr_plateT (s : State) (f : Fld) (i v : Nat) : (s.wr f i v).plateT = s.plateT := rfl
@[simp] theorem State.wr_slotCfg (s : State) (f : Fld) (i v : Nat) : (s.wr f i v).slotCfg = s.slotCfg := rfl
@[simp] theorem State.wr_stk (s : State) (f : Fld) (i v : Nat) : (s.wr f i v).stk = s.stk := rfl
@[simp] theorem State.wr_stkCode (s : State) (f : Fld) (i v : Nat) : (s.wr f i v).stkCode = s.stkCode := rfl
@[simp] theorem State.wr_regions (s : State) (f : Fld) (i v : Nat) : (s.wr f i v).regions = s.regions := rfl
@[simp] theorem State.wr_maps (s : State) (f : Fld) (i v : Nat) : (s.wr f i v).maps = s.maps := rfl
@[simp] theorem State.wr_wcb (s : State) (f : Fld) (i v : Nat) : (s.wr f i v).wcb = s.wcb := rfl
@[simp] theorem State.wr_held (s : State) (f : Fld) (i v : Nat) : (s.wr f i v).held = s.held := rfl
@[simp] theorem State.wr_cellSeq (s : State) (f : Fld) (i v : Nat) : (s.wr f i v).cellSeq = s.cellSeq := rfl
@[simp] theorem State.wr_refill (s : State) (f : Fld) (i v : Nat) : (s.wr f i v).refill = s.refill := rfl
@[simp] theorem State.wr_rowMap (s : State) (f : Fld) (i v : Nat) : (s.wr f i v).rowMap = s.rowMap := rfl
@[simp] theorem State.wr_rowCopy (s : State) (f : Fld) (i v : Nat) : (s.wr f i v).rowCopy = s.rowCopy := rfl
@[simp] theorem State.wr_badBanks (s : State) (f : Fld) (i v : Nat) : (s.wr f i v).badBanks = s.badBanks := rfl
@[simp] theorem State.wr_lanes (s : State) (f : Fld) (i v : Nat) : (s.wr f i v).lanes = s.lanes := rfl
@[simp] theorem State.wr_press (s : State) (f : Fld) (i v : Nat) : (s.wr f i v).press = s.press := rfl
@[simp] theorem State.wr_burin (s : State) (f : Fld) (i v : Nat) : (s.wr f i v).burin = s.burin := rfl
@[simp] theorem State.wr_churn (s : State) (f : Fld) (i v : Nat) : (s.wr f i v).churn = s.churn := rfl
@[simp] theorem State.wr_seqs (s : State) (f : Fld) (i v : Nat) : (s.wr f i v).seqs = s.seqs := rfl
@[simp] theorem State.wr_parts (s : State) (f : Fld) (i v : Nat) : (s.wr f i v).parts = s.parts := rfl
@[simp] theorem State.wr_bound (s : State) (f : Fld) (i v : Nat) : (s.wr f i v).bound = s.bound := rfl
@[simp] theorem State.wr_pcmd (s : State) (f : Fld) (i v : Nat) : (s.wr f i v).pcmd = s.pcmd := rfl
@[simp] theorem State.wr_measStart (s : State) (f : Fld) (i v : Nat) : (s.wr f i v).measStart = s.measStart := rfl
@[simp] theorem State.wr_measEnd (s : State) (f : Fld) (i v : Nat) : (s.wr f i v).measEnd = s.measEnd := rfl
@[simp] theorem State.wr_measOn (s : State) (f : Fld) (i v : Nat) : (s.wr f i v).measOn = s.measOn := rfl
@[simp] theorem State.wr_measNext (s : State) (f : Fld) (i v : Nat) : (s.wr f i v).measNext = s.measNext := rfl
@[simp] theorem State.wr_reqs (s : State) (f : Fld) (i v : Nat) : (s.wr f i v).reqs = s.reqs := rfl
@[simp] theorem State.wr_pools (s : State) (f : Fld) (i v : Nat) : (s.wr f i v).pools = s.pools := rfl
@[simp] theorem State.wr_rings (s : State) (f : Fld) (i v : Nat) : (s.wr f i v).rings = s.rings := rfl
@[simp] theorem State.wr_cqs (s : State) (f : Fld) (i v : Nat) : (s.wr f i v).cqs = s.cqs := rfl
@[simp] theorem State.wr_dmaQ (s : State) (f : Fld) (i v : Nat) : (s.wr f i v).dmaQ = s.dmaQ := rfl
@[simp] theorem State.wr_cfgSpace (s : State) (f : Fld) (i v : Nat) : (s.wr f i v).cfgSpace = s.cfgSpace := rfl
@[simp] theorem State.wr_masked (s : State) (f : Fld) (i v : Nat) : (s.wr f i v).masked = s.masked := rfl
@[simp] theorem State.wr_vfEnable (s : State) (f : Fld) (i v : Nat) : (s.wr f i v).vfEnable = s.vfEnable := rfl
@[simp] theorem State.wr_numVfs (s : State) (f : Fld) (i v : Nat) : (s.wr f i v).numVfs = s.numVfs := rfl
@[simp] theorem State.wr_msixPend (s : State) (f : Fld) (i v : Nat) : (s.wr f i v).msixPend = s.msixPend := rfl
@[simp] theorem State.wr_rmt (s : State) (f : Fld) (i v : Nat) : (s.wr f i v).rmt = s.rmt := rfl
@[simp] theorem State.wr_heldAccess (s : State) (f : Fld) (i v : Nat) : (s.wr f i v).heldAccess = s.heldAccess := rfl
@[simp] theorem State.wr_ports (s : State) (f : Fld) (i v : Nat) : (s.wr f i v).ports = s.ports := rfl
@[simp] theorem State.wr_wins (s : State) (f : Fld) (i v : Nat) : (s.wr f i v).wins = s.wins := rfl
@[simp] theorem State.wr_groups (s : State) (f : Fld) (i v : Nat) : (s.wr f i v).groups = s.groups := rfl
@[simp] theorem State.wr_sendings (s : State) (f : Fld) (i v : Nat) : (s.wr f i v).sendings = s.sendings := rfl
@[simp] theorem State.wr_ptp (s : State) (f : Fld) (i v : Nat) : (s.wr f i v).ptp = s.ptp := rfl
@[simp] theorem State.wr_log (s : State) (f : Fld) (i v : Nat) : (s.wr f i v).log = s.log := rfl
@[simp] theorem State.wr_repair (s : State) (f : Fld) (i v : Nat) : (s.wr f i v).repair = s.repair := rfl
@[simp] theorem State.wr_scrubStk (s : State) (f : Fld) (i v : Nat) : (s.wr f i v).scrubStk = s.scrubStk := rfl
@[simp] theorem State.wr_scrubVat (s : State) (f : Fld) (i v : Nat) : (s.wr f i v).scrubVat = s.scrubVat := rfl
@[simp] theorem State.wr_stkLaps (s : State) (f : Fld) (i v : Nat) : (s.wr f i v).stkLaps = s.stkLaps := rfl
@[simp] theorem State.wr_vatLaps (s : State) (f : Fld) (i v : Nat) : (s.wr f i v).vatLaps = s.vatLaps := rfl
@[simp] theorem State.wr_badSpares (s : State) (f : Fld) (i v : Nat) : (s.wr f i v).badSpares = s.badSpares := rfl
@[simp] theorem State.wr_zones (s : State) (f : Fld) (i v : Nat) : (s.wr f i v).zones = s.zones := rfl
@[simp] theorem State.wr_pwr (s : State) (f : Fld) (i v : Nat) : (s.wr f i v).pwr = s.pwr := rfl
@[simp] theorem State.wr_boot (s : State) (f : Fld) (i v : Nat) : (s.wr f i v).boot = s.boot := rfl
@[simp] theorem State.wr_out (s : State) (f : Fld) (i v : Nat) : (s.wr f i v).out = s.out := rfl
@[simp] theorem State.wr_free (s : State) (f : Fld) (i v : Nat) : (s.wr f i v).free = s.free := rfl

/-! ### emit -/

@[simp] theorem State.emit_pending (s : State) (o : Out) : (s.emit o).pending = s.pending := rfl
@[simp] theorem State.emit_regs (s : State) (o : Out) : (s.emit o).regs = s.regs := rfl
@[simp] theorem State.emit_aon (s : State) (o : Out) : (s.emit o).aon = s.aon := rfl
@[simp] theorem State.emit_grid (s : State) (o : Out) : (s.emit o).grid = s.grid := rfl
@[simp] theorem State.emit_quarters (s : State) (o : Out) : (s.emit o).quarters = s.quarters := rfl
@[simp] theorem State.emit_dieFence (s : State) (o : Out) : (s.emit o).dieFence = s.dieFence := rfl
@[simp] theorem State.emit_vat (s : State) (o : Out) : (s.emit o).vat = s.vat := rfl
@[simp] theorem State.emit_vatCode (s : State) (o : Out) : (s.emit o).vatCode = s.vatCode := rfl
@[simp] theorem State.emit_work (s : State) (o : Out) : (s.emit o).work = s.work := rfl
@[simp] theorem State.emit_plateT (s : State) (o : Out) : (s.emit o).plateT = s.plateT := rfl
@[simp] theorem State.emit_slotCfg (s : State) (o : Out) : (s.emit o).slotCfg = s.slotCfg := rfl
@[simp] theorem State.emit_stk (s : State) (o : Out) : (s.emit o).stk = s.stk := rfl
@[simp] theorem State.emit_stkCode (s : State) (o : Out) : (s.emit o).stkCode = s.stkCode := rfl
@[simp] theorem State.emit_regions (s : State) (o : Out) : (s.emit o).regions = s.regions := rfl
@[simp] theorem State.emit_maps (s : State) (o : Out) : (s.emit o).maps = s.maps := rfl
@[simp] theorem State.emit_wcb (s : State) (o : Out) : (s.emit o).wcb = s.wcb := rfl
@[simp] theorem State.emit_held (s : State) (o : Out) : (s.emit o).held = s.held := rfl
@[simp] theorem State.emit_cellSeq (s : State) (o : Out) : (s.emit o).cellSeq = s.cellSeq := rfl
@[simp] theorem State.emit_refill (s : State) (o : Out) : (s.emit o).refill = s.refill := rfl
@[simp] theorem State.emit_rowMap (s : State) (o : Out) : (s.emit o).rowMap = s.rowMap := rfl
@[simp] theorem State.emit_rowCopy (s : State) (o : Out) : (s.emit o).rowCopy = s.rowCopy := rfl
@[simp] theorem State.emit_badBanks (s : State) (o : Out) : (s.emit o).badBanks = s.badBanks := rfl
@[simp] theorem State.emit_lanes (s : State) (o : Out) : (s.emit o).lanes = s.lanes := rfl
@[simp] theorem State.emit_press (s : State) (o : Out) : (s.emit o).press = s.press := rfl
@[simp] theorem State.emit_burin (s : State) (o : Out) : (s.emit o).burin = s.burin := rfl
@[simp] theorem State.emit_churn (s : State) (o : Out) : (s.emit o).churn = s.churn := rfl
@[simp] theorem State.emit_seqs (s : State) (o : Out) : (s.emit o).seqs = s.seqs := rfl
@[simp] theorem State.emit_parts (s : State) (o : Out) : (s.emit o).parts = s.parts := rfl
@[simp] theorem State.emit_bound (s : State) (o : Out) : (s.emit o).bound = s.bound := rfl
@[simp] theorem State.emit_pcmd (s : State) (o : Out) : (s.emit o).pcmd = s.pcmd := rfl
@[simp] theorem State.emit_measStart (s : State) (o : Out) : (s.emit o).measStart = s.measStart := rfl
@[simp] theorem State.emit_measEnd (s : State) (o : Out) : (s.emit o).measEnd = s.measEnd := rfl
@[simp] theorem State.emit_measOn (s : State) (o : Out) : (s.emit o).measOn = s.measOn := rfl
@[simp] theorem State.emit_measNext (s : State) (o : Out) : (s.emit o).measNext = s.measNext := rfl
@[simp] theorem State.emit_reqs (s : State) (o : Out) : (s.emit o).reqs = s.reqs := rfl
@[simp] theorem State.emit_pools (s : State) (o : Out) : (s.emit o).pools = s.pools := rfl
@[simp] theorem State.emit_rings (s : State) (o : Out) : (s.emit o).rings = s.rings := rfl
@[simp] theorem State.emit_cqs (s : State) (o : Out) : (s.emit o).cqs = s.cqs := rfl
@[simp] theorem State.emit_dmaQ (s : State) (o : Out) : (s.emit o).dmaQ = s.dmaQ := rfl
@[simp] theorem State.emit_cfgSpace (s : State) (o : Out) : (s.emit o).cfgSpace = s.cfgSpace := rfl
@[simp] theorem State.emit_masked (s : State) (o : Out) : (s.emit o).masked = s.masked := rfl
@[simp] theorem State.emit_vfEnable (s : State) (o : Out) : (s.emit o).vfEnable = s.vfEnable := rfl
@[simp] theorem State.emit_numVfs (s : State) (o : Out) : (s.emit o).numVfs = s.numVfs := rfl
@[simp] theorem State.emit_msixPend (s : State) (o : Out) : (s.emit o).msixPend = s.msixPend := rfl
@[simp] theorem State.emit_rmt (s : State) (o : Out) : (s.emit o).rmt = s.rmt := rfl
@[simp] theorem State.emit_heldAccess (s : State) (o : Out) : (s.emit o).heldAccess = s.heldAccess := rfl
@[simp] theorem State.emit_ports (s : State) (o : Out) : (s.emit o).ports = s.ports := rfl
@[simp] theorem State.emit_wins (s : State) (o : Out) : (s.emit o).wins = s.wins := rfl
@[simp] theorem State.emit_groups (s : State) (o : Out) : (s.emit o).groups = s.groups := rfl
@[simp] theorem State.emit_sendings (s : State) (o : Out) : (s.emit o).sendings = s.sendings := rfl
@[simp] theorem State.emit_ptp (s : State) (o : Out) : (s.emit o).ptp = s.ptp := rfl
@[simp] theorem State.emit_log (s : State) (o : Out) : (s.emit o).log = s.log := rfl
@[simp] theorem State.emit_repair (s : State) (o : Out) : (s.emit o).repair = s.repair := rfl
@[simp] theorem State.emit_scrubStk (s : State) (o : Out) : (s.emit o).scrubStk = s.scrubStk := rfl
@[simp] theorem State.emit_scrubVat (s : State) (o : Out) : (s.emit o).scrubVat = s.scrubVat := rfl
@[simp] theorem State.emit_stkLaps (s : State) (o : Out) : (s.emit o).stkLaps = s.stkLaps := rfl
@[simp] theorem State.emit_vatLaps (s : State) (o : Out) : (s.emit o).vatLaps = s.vatLaps := rfl
@[simp] theorem State.emit_badSpares (s : State) (o : Out) : (s.emit o).badSpares = s.badSpares := rfl
@[simp] theorem State.emit_zones (s : State) (o : Out) : (s.emit o).zones = s.zones := rfl
@[simp] theorem State.emit_pwr (s : State) (o : Out) : (s.emit o).pwr = s.pwr := rfl
@[simp] theorem State.emit_boot (s : State) (o : Out) : (s.emit o).boot = s.boot := rfl
@[simp] theorem State.emit_free (s : State) (o : Out) : (s.emit o).free = s.free := rfl

/-! ### drawn -/

@[simp] theorem State.drawn_pending (s : State) : (s.drawn).pending = s.pending := rfl
@[simp] theorem State.drawn_regs (s : State) : (s.drawn).regs = s.regs := rfl
@[simp] theorem State.drawn_aon (s : State) : (s.drawn).aon = s.aon := rfl
@[simp] theorem State.drawn_grid (s : State) : (s.drawn).grid = s.grid := rfl
@[simp] theorem State.drawn_quarters (s : State) : (s.drawn).quarters = s.quarters := rfl
@[simp] theorem State.drawn_dieFence (s : State) : (s.drawn).dieFence = s.dieFence := rfl
@[simp] theorem State.drawn_vat (s : State) : (s.drawn).vat = s.vat := rfl
@[simp] theorem State.drawn_vatCode (s : State) : (s.drawn).vatCode = s.vatCode := rfl
@[simp] theorem State.drawn_work (s : State) : (s.drawn).work = s.work := rfl
@[simp] theorem State.drawn_plateT (s : State) : (s.drawn).plateT = s.plateT := rfl
@[simp] theorem State.drawn_slotCfg (s : State) : (s.drawn).slotCfg = s.slotCfg := rfl
@[simp] theorem State.drawn_stk (s : State) : (s.drawn).stk = s.stk := rfl
@[simp] theorem State.drawn_stkCode (s : State) : (s.drawn).stkCode = s.stkCode := rfl
@[simp] theorem State.drawn_regions (s : State) : (s.drawn).regions = s.regions := rfl
@[simp] theorem State.drawn_maps (s : State) : (s.drawn).maps = s.maps := rfl
@[simp] theorem State.drawn_wcb (s : State) : (s.drawn).wcb = s.wcb := rfl
@[simp] theorem State.drawn_held (s : State) : (s.drawn).held = s.held := rfl
@[simp] theorem State.drawn_cellSeq (s : State) : (s.drawn).cellSeq = s.cellSeq := rfl
@[simp] theorem State.drawn_refill (s : State) : (s.drawn).refill = s.refill := rfl
@[simp] theorem State.drawn_rowMap (s : State) : (s.drawn).rowMap = s.rowMap := rfl
@[simp] theorem State.drawn_rowCopy (s : State) : (s.drawn).rowCopy = s.rowCopy := rfl
@[simp] theorem State.drawn_badBanks (s : State) : (s.drawn).badBanks = s.badBanks := rfl
@[simp] theorem State.drawn_lanes (s : State) : (s.drawn).lanes = s.lanes := rfl
@[simp] theorem State.drawn_press (s : State) : (s.drawn).press = s.press := rfl
@[simp] theorem State.drawn_burin (s : State) : (s.drawn).burin = s.burin := rfl
@[simp] theorem State.drawn_churn (s : State) : (s.drawn).churn = s.churn := rfl
@[simp] theorem State.drawn_seqs (s : State) : (s.drawn).seqs = s.seqs := rfl
@[simp] theorem State.drawn_parts (s : State) : (s.drawn).parts = s.parts := rfl
@[simp] theorem State.drawn_bound (s : State) : (s.drawn).bound = s.bound := rfl
@[simp] theorem State.drawn_pcmd (s : State) : (s.drawn).pcmd = s.pcmd := rfl
@[simp] theorem State.drawn_measStart (s : State) : (s.drawn).measStart = s.measStart := rfl
@[simp] theorem State.drawn_measEnd (s : State) : (s.drawn).measEnd = s.measEnd := rfl
@[simp] theorem State.drawn_measOn (s : State) : (s.drawn).measOn = s.measOn := rfl
@[simp] theorem State.drawn_measNext (s : State) : (s.drawn).measNext = s.measNext := rfl
@[simp] theorem State.drawn_reqs (s : State) : (s.drawn).reqs = s.reqs := rfl
@[simp] theorem State.drawn_pools (s : State) : (s.drawn).pools = s.pools := rfl
@[simp] theorem State.drawn_rings (s : State) : (s.drawn).rings = s.rings := rfl
@[simp] theorem State.drawn_cqs (s : State) : (s.drawn).cqs = s.cqs := rfl
@[simp] theorem State.drawn_dmaQ (s : State) : (s.drawn).dmaQ = s.dmaQ := rfl
@[simp] theorem State.drawn_cfgSpace (s : State) : (s.drawn).cfgSpace = s.cfgSpace := rfl
@[simp] theorem State.drawn_masked (s : State) : (s.drawn).masked = s.masked := rfl
@[simp] theorem State.drawn_vfEnable (s : State) : (s.drawn).vfEnable = s.vfEnable := rfl
@[simp] theorem State.drawn_numVfs (s : State) : (s.drawn).numVfs = s.numVfs := rfl
@[simp] theorem State.drawn_msixPend (s : State) : (s.drawn).msixPend = s.msixPend := rfl
@[simp] theorem State.drawn_rmt (s : State) : (s.drawn).rmt = s.rmt := rfl
@[simp] theorem State.drawn_heldAccess (s : State) : (s.drawn).heldAccess = s.heldAccess := rfl
@[simp] theorem State.drawn_ports (s : State) : (s.drawn).ports = s.ports := rfl
@[simp] theorem State.drawn_wins (s : State) : (s.drawn).wins = s.wins := rfl
@[simp] theorem State.drawn_groups (s : State) : (s.drawn).groups = s.groups := rfl
@[simp] theorem State.drawn_sendings (s : State) : (s.drawn).sendings = s.sendings := rfl
@[simp] theorem State.drawn_ptp (s : State) : (s.drawn).ptp = s.ptp := rfl
@[simp] theorem State.drawn_log (s : State) : (s.drawn).log = s.log := rfl
@[simp] theorem State.drawn_repair (s : State) : (s.drawn).repair = s.repair := rfl
@[simp] theorem State.drawn_scrubStk (s : State) : (s.drawn).scrubStk = s.scrubStk := rfl
@[simp] theorem State.drawn_scrubVat (s : State) : (s.drawn).scrubVat = s.scrubVat := rfl
@[simp] theorem State.drawn_stkLaps (s : State) : (s.drawn).stkLaps = s.stkLaps := rfl
@[simp] theorem State.drawn_vatLaps (s : State) : (s.drawn).vatLaps = s.vatLaps := rfl
@[simp] theorem State.drawn_badSpares (s : State) : (s.drawn).badSpares = s.badSpares := rfl
@[simp] theorem State.drawn_zones (s : State) : (s.drawn).zones = s.zones := rfl
@[simp] theorem State.drawn_pwr (s : State) : (s.drawn).pwr = s.pwr := rfl
@[simp] theorem State.drawn_boot (s : State) : (s.drawn).boot = s.boot := rfl
@[simp] theorem State.drawn_out (s : State) : (s.drawn).out = s.out := rfl

/-! ### setQ -/

@[simp] theorem State.setQ_pending (s : State) (i : Nat) (f : Quarter → Quarter) : (s.setQ i f).pending = s.pending := rfl
@[simp] theorem State.setQ_regs (s : State) (i : Nat) (f : Quarter → Quarter) : (s.setQ i f).regs = s.regs := rfl
@[simp] theorem State.setQ_aon (s : State) (i : Nat) (f : Quarter → Quarter) : (s.setQ i f).aon = s.aon := rfl
@[simp] theorem State.setQ_grid (s : State) (i : Nat) (f : Quarter → Quarter) : (s.setQ i f).grid = s.grid := rfl
@[simp] theorem State.setQ_dieFence (s : State) (i : Nat) (f : Quarter → Quarter) : (s.setQ i f).dieFence = s.dieFence := rfl
@[simp] theorem State.setQ_vat (s : State) (i : Nat) (f : Quarter → Quarter) : (s.setQ i f).vat = s.vat := rfl
@[simp] theorem State.setQ_vatCode (s : State) (i : Nat) (f : Quarter → Quarter) : (s.setQ i f).vatCode = s.vatCode := rfl
@[simp] theorem State.setQ_work (s : State) (i : Nat) (f : Quarter → Quarter) : (s.setQ i f).work = s.work := rfl
@[simp] theorem State.setQ_plateT (s : State) (i : Nat) (f : Quarter → Quarter) : (s.setQ i f).plateT = s.plateT := rfl
@[simp] theorem State.setQ_slotCfg (s : State) (i : Nat) (f : Quarter → Quarter) : (s.setQ i f).slotCfg = s.slotCfg := rfl
@[simp] theorem State.setQ_stk (s : State) (i : Nat) (f : Quarter → Quarter) : (s.setQ i f).stk = s.stk := rfl
@[simp] theorem State.setQ_stkCode (s : State) (i : Nat) (f : Quarter → Quarter) : (s.setQ i f).stkCode = s.stkCode := rfl
@[simp] theorem State.setQ_regions (s : State) (i : Nat) (f : Quarter → Quarter) : (s.setQ i f).regions = s.regions := rfl
@[simp] theorem State.setQ_maps (s : State) (i : Nat) (f : Quarter → Quarter) : (s.setQ i f).maps = s.maps := rfl
@[simp] theorem State.setQ_wcb (s : State) (i : Nat) (f : Quarter → Quarter) : (s.setQ i f).wcb = s.wcb := rfl
@[simp] theorem State.setQ_held (s : State) (i : Nat) (f : Quarter → Quarter) : (s.setQ i f).held = s.held := rfl
@[simp] theorem State.setQ_cellSeq (s : State) (i : Nat) (f : Quarter → Quarter) : (s.setQ i f).cellSeq = s.cellSeq := rfl
@[simp] theorem State.setQ_refill (s : State) (i : Nat) (f : Quarter → Quarter) : (s.setQ i f).refill = s.refill := rfl
@[simp] theorem State.setQ_rowMap (s : State) (i : Nat) (f : Quarter → Quarter) : (s.setQ i f).rowMap = s.rowMap := rfl
@[simp] theorem State.setQ_rowCopy (s : State) (i : Nat) (f : Quarter → Quarter) : (s.setQ i f).rowCopy = s.rowCopy := rfl
@[simp] theorem State.setQ_badBanks (s : State) (i : Nat) (f : Quarter → Quarter) : (s.setQ i f).badBanks = s.badBanks := rfl
@[simp] theorem State.setQ_lanes (s : State) (i : Nat) (f : Quarter → Quarter) : (s.setQ i f).lanes = s.lanes := rfl
@[simp] theorem State.setQ_press (s : State) (i : Nat) (f : Quarter → Quarter) : (s.setQ i f).press = s.press := rfl
@[simp] theorem State.setQ_burin (s : State) (i : Nat) (f : Quarter → Quarter) : (s.setQ i f).burin = s.burin := rfl
@[simp] theorem State.setQ_churn (s : State) (i : Nat) (f : Quarter → Quarter) : (s.setQ i f).churn = s.churn := rfl
@[simp] theorem State.setQ_seqs (s : State) (i : Nat) (f : Quarter → Quarter) : (s.setQ i f).seqs = s.seqs := rfl
@[simp] theorem State.setQ_parts (s : State) (i : Nat) (f : Quarter → Quarter) : (s.setQ i f).parts = s.parts := rfl
@[simp] theorem State.setQ_bound (s : State) (i : Nat) (f : Quarter → Quarter) : (s.setQ i f).bound = s.bound := rfl
@[simp] theorem State.setQ_pcmd (s : State) (i : Nat) (f : Quarter → Quarter) : (s.setQ i f).pcmd = s.pcmd := rfl
@[simp] theorem State.setQ_measStart (s : State) (i : Nat) (f : Quarter → Quarter) : (s.setQ i f).measStart = s.measStart := rfl
@[simp] theorem State.setQ_measEnd (s : State) (i : Nat) (f : Quarter → Quarter) : (s.setQ i f).measEnd = s.measEnd := rfl
@[simp] theorem State.setQ_measOn (s : State) (i : Nat) (f : Quarter → Quarter) : (s.setQ i f).measOn = s.measOn := rfl
@[simp] theorem State.setQ_measNext (s : State) (i : Nat) (f : Quarter → Quarter) : (s.setQ i f).measNext = s.measNext := rfl
@[simp] theorem State.setQ_reqs (s : State) (i : Nat) (f : Quarter → Quarter) : (s.setQ i f).reqs = s.reqs := rfl
@[simp] theorem State.setQ_pools (s : State) (i : Nat) (f : Quarter → Quarter) : (s.setQ i f).pools = s.pools := rfl
@[simp] theorem State.setQ_rings (s : State) (i : Nat) (f : Quarter → Quarter) : (s.setQ i f).rings = s.rings := rfl
@[simp] theorem State.setQ_cqs (s : State) (i : Nat) (f : Quarter → Quarter) : (s.setQ i f).cqs = s.cqs := rfl
@[simp] theorem State.setQ_dmaQ (s : State) (i : Nat) (f : Quarter → Quarter) : (s.setQ i f).dmaQ = s.dmaQ := rfl
@[simp] theorem State.setQ_cfgSpace (s : State) (i : Nat) (f : Quarter → Quarter) : (s.setQ i f).cfgSpace = s.cfgSpace := rfl
@[simp] theorem State.setQ_masked (s : State) (i : Nat) (f : Quarter → Quarter) : (s.setQ i f).masked = s.masked := rfl
@[simp] theorem State.setQ_vfEnable (s : State) (i : Nat) (f : Quarter → Quarter) : (s.setQ i f).vfEnable = s.vfEnable := rfl
@[simp] theorem State.setQ_numVfs (s : State) (i : Nat) (f : Quarter → Quarter) : (s.setQ i f).numVfs = s.numVfs := rfl
@[simp] theorem State.setQ_msixPend (s : State) (i : Nat) (f : Quarter → Quarter) : (s.setQ i f).msixPend = s.msixPend := rfl
@[simp] theorem State.setQ_rmt (s : State) (i : Nat) (f : Quarter → Quarter) : (s.setQ i f).rmt = s.rmt := rfl
@[simp] theorem State.setQ_heldAccess (s : State) (i : Nat) (f : Quarter → Quarter) : (s.setQ i f).heldAccess = s.heldAccess := rfl
@[simp] theorem State.setQ_ports (s : State) (i : Nat) (f : Quarter → Quarter) : (s.setQ i f).ports = s.ports := rfl
@[simp] theorem State.setQ_wins (s : State) (i : Nat) (f : Quarter → Quarter) : (s.setQ i f).wins = s.wins := rfl
@[simp] theorem State.setQ_groups (s : State) (i : Nat) (f : Quarter → Quarter) : (s.setQ i f).groups = s.groups := rfl
@[simp] theorem State.setQ_sendings (s : State) (i : Nat) (f : Quarter → Quarter) : (s.setQ i f).sendings = s.sendings := rfl
@[simp] theorem State.setQ_ptp (s : State) (i : Nat) (f : Quarter → Quarter) : (s.setQ i f).ptp = s.ptp := rfl
@[simp] theorem State.setQ_log (s : State) (i : Nat) (f : Quarter → Quarter) : (s.setQ i f).log = s.log := rfl
@[simp] theorem State.setQ_repair (s : State) (i : Nat) (f : Quarter → Quarter) : (s.setQ i f).repair = s.repair := rfl
@[simp] theorem State.setQ_scrubStk (s : State) (i : Nat) (f : Quarter → Quarter) : (s.setQ i f).scrubStk = s.scrubStk := rfl
@[simp] theorem State.setQ_scrubVat (s : State) (i : Nat) (f : Quarter → Quarter) : (s.setQ i f).scrubVat = s.scrubVat := rfl
@[simp] theorem State.setQ_stkLaps (s : State) (i : Nat) (f : Quarter → Quarter) : (s.setQ i f).stkLaps = s.stkLaps := rfl
@[simp] theorem State.setQ_vatLaps (s : State) (i : Nat) (f : Quarter → Quarter) : (s.setQ i f).vatLaps = s.vatLaps := rfl
@[simp] theorem State.setQ_badSpares (s : State) (i : Nat) (f : Quarter → Quarter) : (s.setQ i f).badSpares = s.badSpares := rfl
@[simp] theorem State.setQ_zones (s : State) (i : Nat) (f : Quarter → Quarter) : (s.setQ i f).zones = s.zones := rfl
@[simp] theorem State.setQ_pwr (s : State) (i : Nat) (f : Quarter → Quarter) : (s.setQ i f).pwr = s.pwr := rfl
@[simp] theorem State.setQ_boot (s : State) (i : Nat) (f : Quarter → Quarter) : (s.setQ i f).boot = s.boot := rfl
@[simp] theorem State.setQ_out (s : State) (i : Nat) (f : Quarter → Quarter) : (s.setQ i f).out = s.out := rfl
@[simp] theorem State.setQ_free (s : State) (i : Nat) (f : Quarter → Quarter) : (s.setQ i f).free = s.free := rfl

/-! ### updPart -/

@[simp] theorem State.updPart_pending (s : State) (p : Nat) (f : Part → Part) : (s.updPart p f).pending = s.pending := rfl
@[simp] theorem State.updPart_regs (s : State) (p : Nat) (f : Part → Part) : (s.updPart p f).regs = s.regs := rfl
@[simp] theorem State.updPart_aon (s : State) (p : Nat) (f : Part → Part) : (s.updPart p f).aon = s.aon := rfl
@[simp] theorem State.updPart_grid (s : State) (p : Nat) (f : Part → Part) : (s.updPart p f).grid = s.grid := rfl
@[simp] theorem State.updPart_quarters (s : State) (p : Nat) (f : Part → Part) : (s.updPart p f).quarters = s.quarters := rfl
@[simp] theorem State.updPart_dieFence (s : State) (p : Nat) (f : Part → Part) : (s.updPart p f).dieFence = s.dieFence := rfl
@[simp] theorem State.updPart_vat (s : State) (p : Nat) (f : Part → Part) : (s.updPart p f).vat = s.vat := rfl
@[simp] theorem State.updPart_vatCode (s : State) (p : Nat) (f : Part → Part) : (s.updPart p f).vatCode = s.vatCode := rfl
@[simp] theorem State.updPart_work (s : State) (p : Nat) (f : Part → Part) : (s.updPart p f).work = s.work := rfl
@[simp] theorem State.updPart_plateT (s : State) (p : Nat) (f : Part → Part) : (s.updPart p f).plateT = s.plateT := rfl
@[simp] theorem State.updPart_slotCfg (s : State) (p : Nat) (f : Part → Part) : (s.updPart p f).slotCfg = s.slotCfg := rfl
@[simp] theorem State.updPart_stk (s : State) (p : Nat) (f : Part → Part) : (s.updPart p f).stk = s.stk := rfl
@[simp] theorem State.updPart_stkCode (s : State) (p : Nat) (f : Part → Part) : (s.updPart p f).stkCode = s.stkCode := rfl
@[simp] theorem State.updPart_regions (s : State) (p : Nat) (f : Part → Part) : (s.updPart p f).regions = s.regions := rfl
@[simp] theorem State.updPart_maps (s : State) (p : Nat) (f : Part → Part) : (s.updPart p f).maps = s.maps := rfl
@[simp] theorem State.updPart_wcb (s : State) (p : Nat) (f : Part → Part) : (s.updPart p f).wcb = s.wcb := rfl
@[simp] theorem State.updPart_held (s : State) (p : Nat) (f : Part → Part) : (s.updPart p f).held = s.held := rfl
@[simp] theorem State.updPart_cellSeq (s : State) (p : Nat) (f : Part → Part) : (s.updPart p f).cellSeq = s.cellSeq := rfl
@[simp] theorem State.updPart_refill (s : State) (p : Nat) (f : Part → Part) : (s.updPart p f).refill = s.refill := rfl
@[simp] theorem State.updPart_rowMap (s : State) (p : Nat) (f : Part → Part) : (s.updPart p f).rowMap = s.rowMap := rfl
@[simp] theorem State.updPart_rowCopy (s : State) (p : Nat) (f : Part → Part) : (s.updPart p f).rowCopy = s.rowCopy := rfl
@[simp] theorem State.updPart_badBanks (s : State) (p : Nat) (f : Part → Part) : (s.updPart p f).badBanks = s.badBanks := rfl
@[simp] theorem State.updPart_lanes (s : State) (p : Nat) (f : Part → Part) : (s.updPart p f).lanes = s.lanes := rfl
@[simp] theorem State.updPart_press (s : State) (p : Nat) (f : Part → Part) : (s.updPart p f).press = s.press := rfl
@[simp] theorem State.updPart_burin (s : State) (p : Nat) (f : Part → Part) : (s.updPart p f).burin = s.burin := rfl
@[simp] theorem State.updPart_churn (s : State) (p : Nat) (f : Part → Part) : (s.updPart p f).churn = s.churn := rfl
@[simp] theorem State.updPart_seqs (s : State) (p : Nat) (f : Part → Part) : (s.updPart p f).seqs = s.seqs := rfl
@[simp] theorem State.updPart_bound (s : State) (p : Nat) (f : Part → Part) : (s.updPart p f).bound = s.bound := rfl
@[simp] theorem State.updPart_pcmd (s : State) (p : Nat) (f : Part → Part) : (s.updPart p f).pcmd = s.pcmd := rfl
@[simp] theorem State.updPart_measStart (s : State) (p : Nat) (f : Part → Part) : (s.updPart p f).measStart = s.measStart := rfl
@[simp] theorem State.updPart_measEnd (s : State) (p : Nat) (f : Part → Part) : (s.updPart p f).measEnd = s.measEnd := rfl
@[simp] theorem State.updPart_measOn (s : State) (p : Nat) (f : Part → Part) : (s.updPart p f).measOn = s.measOn := rfl
@[simp] theorem State.updPart_measNext (s : State) (p : Nat) (f : Part → Part) : (s.updPart p f).measNext = s.measNext := rfl
@[simp] theorem State.updPart_reqs (s : State) (p : Nat) (f : Part → Part) : (s.updPart p f).reqs = s.reqs := rfl
@[simp] theorem State.updPart_pools (s : State) (p : Nat) (f : Part → Part) : (s.updPart p f).pools = s.pools := rfl
@[simp] theorem State.updPart_rings (s : State) (p : Nat) (f : Part → Part) : (s.updPart p f).rings = s.rings := rfl
@[simp] theorem State.updPart_cqs (s : State) (p : Nat) (f : Part → Part) : (s.updPart p f).cqs = s.cqs := rfl
@[simp] theorem State.updPart_dmaQ (s : State) (p : Nat) (f : Part → Part) : (s.updPart p f).dmaQ = s.dmaQ := rfl
@[simp] theorem State.updPart_cfgSpace (s : State) (p : Nat) (f : Part → Part) : (s.updPart p f).cfgSpace = s.cfgSpace := rfl
@[simp] theorem State.updPart_masked (s : State) (p : Nat) (f : Part → Part) : (s.updPart p f).masked = s.masked := rfl
@[simp] theorem State.updPart_vfEnable (s : State) (p : Nat) (f : Part → Part) : (s.updPart p f).vfEnable = s.vfEnable := rfl
@[simp] theorem State.updPart_numVfs (s : State) (p : Nat) (f : Part → Part) : (s.updPart p f).numVfs = s.numVfs := rfl
@[simp] theorem State.updPart_msixPend (s : State) (p : Nat) (f : Part → Part) : (s.updPart p f).msixPend = s.msixPend := rfl
@[simp] theorem State.updPart_rmt (s : State) (p : Nat) (f : Part → Part) : (s.updPart p f).rmt = s.rmt := rfl
@[simp] theorem State.updPart_heldAccess (s : State) (p : Nat) (f : Part → Part) : (s.updPart p f).heldAccess = s.heldAccess := rfl
@[simp] theorem State.updPart_ports (s : State) (p : Nat) (f : Part → Part) : (s.updPart p f).ports = s.ports := rfl
@[simp] theorem State.updPart_wins (s : State) (p : Nat) (f : Part → Part) : (s.updPart p f).wins = s.wins := rfl
@[simp] theorem State.updPart_groups (s : State) (p : Nat) (f : Part → Part) : (s.updPart p f).groups = s.groups := rfl
@[simp] theorem State.updPart_sendings (s : State) (p : Nat) (f : Part → Part) : (s.updPart p f).sendings = s.sendings := rfl
@[simp] theorem State.updPart_ptp (s : State) (p : Nat) (f : Part → Part) : (s.updPart p f).ptp = s.ptp := rfl
@[simp] theorem State.updPart_log (s : State) (p : Nat) (f : Part → Part) : (s.updPart p f).log = s.log := rfl
@[simp] theorem State.updPart_repair (s : State) (p : Nat) (f : Part → Part) : (s.updPart p f).repair = s.repair := rfl
@[simp] theorem State.updPart_scrubStk (s : State) (p : Nat) (f : Part → Part) : (s.updPart p f).scrubStk = s.scrubStk := rfl
@[simp] theorem State.updPart_scrubVat (s : State) (p : Nat) (f : Part → Part) : (s.updPart p f).scrubVat = s.scrubVat := rfl
@[simp] theorem State.updPart_stkLaps (s : State) (p : Nat) (f : Part → Part) : (s.updPart p f).stkLaps = s.stkLaps := rfl
@[simp] theorem State.updPart_vatLaps (s : State) (p : Nat) (f : Part → Part) : (s.updPart p f).vatLaps = s.vatLaps := rfl
@[simp] theorem State.updPart_badSpares (s : State) (p : Nat) (f : Part → Part) : (s.updPart p f).badSpares = s.badSpares := rfl
@[simp] theorem State.updPart_zones (s : State) (p : Nat) (f : Part → Part) : (s.updPart p f).zones = s.zones := rfl
@[simp] theorem State.updPart_pwr (s : State) (p : Nat) (f : Part → Part) : (s.updPart p f).pwr = s.pwr := rfl
@[simp] theorem State.updPart_boot (s : State) (p : Nat) (f : Part → Part) : (s.updPart p f).boot = s.boot := rfl
@[simp] theorem State.updPart_out (s : State) (p : Nat) (f : Part → Part) : (s.updPart p f).out = s.out := rfl
@[simp] theorem State.updPart_free (s : State) (p : Nat) (f : Part → Part) : (s.updPart p f).free = s.free := rfl

/-! ### updReq -/

@[simp] theorem State.updReq_pending (s : State) (i : Nat) (f : Req → Req) : (s.updReq i f).pending = s.pending := rfl
@[simp] theorem State.updReq_regs (s : State) (i : Nat) (f : Req → Req) : (s.updReq i f).regs = s.regs := rfl
@[simp] theorem State.updReq_aon (s : State) (i : Nat) (f : Req → Req) : (s.updReq i f).aon = s.aon := rfl
@[simp] theorem State.updReq_grid (s : State) (i : Nat) (f : Req → Req) : (s.updReq i f).grid = s.grid := rfl
@[simp] theorem State.updReq_quarters (s : State) (i : Nat) (f : Req → Req) : (s.updReq i f).quarters = s.quarters := rfl
@[simp] theorem State.updReq_dieFence (s : State) (i : Nat) (f : Req → Req) : (s.updReq i f).dieFence = s.dieFence := rfl
@[simp] theorem State.updReq_vat (s : State) (i : Nat) (f : Req → Req) : (s.updReq i f).vat = s.vat := rfl
@[simp] theorem State.updReq_vatCode (s : State) (i : Nat) (f : Req → Req) : (s.updReq i f).vatCode = s.vatCode := rfl
@[simp] theorem State.updReq_work (s : State) (i : Nat) (f : Req → Req) : (s.updReq i f).work = s.work := rfl
@[simp] theorem State.updReq_plateT (s : State) (i : Nat) (f : Req → Req) : (s.updReq i f).plateT = s.plateT := rfl
@[simp] theorem State.updReq_slotCfg (s : State) (i : Nat) (f : Req → Req) : (s.updReq i f).slotCfg = s.slotCfg := rfl
@[simp] theorem State.updReq_stk (s : State) (i : Nat) (f : Req → Req) : (s.updReq i f).stk = s.stk := rfl
@[simp] theorem State.updReq_stkCode (s : State) (i : Nat) (f : Req → Req) : (s.updReq i f).stkCode = s.stkCode := rfl
@[simp] theorem State.updReq_regions (s : State) (i : Nat) (f : Req → Req) : (s.updReq i f).regions = s.regions := rfl
@[simp] theorem State.updReq_maps (s : State) (i : Nat) (f : Req → Req) : (s.updReq i f).maps = s.maps := rfl
@[simp] theorem State.updReq_wcb (s : State) (i : Nat) (f : Req → Req) : (s.updReq i f).wcb = s.wcb := rfl
@[simp] theorem State.updReq_held (s : State) (i : Nat) (f : Req → Req) : (s.updReq i f).held = s.held := rfl
@[simp] theorem State.updReq_cellSeq (s : State) (i : Nat) (f : Req → Req) : (s.updReq i f).cellSeq = s.cellSeq := rfl
@[simp] theorem State.updReq_refill (s : State) (i : Nat) (f : Req → Req) : (s.updReq i f).refill = s.refill := rfl
@[simp] theorem State.updReq_rowMap (s : State) (i : Nat) (f : Req → Req) : (s.updReq i f).rowMap = s.rowMap := rfl
@[simp] theorem State.updReq_rowCopy (s : State) (i : Nat) (f : Req → Req) : (s.updReq i f).rowCopy = s.rowCopy := rfl
@[simp] theorem State.updReq_badBanks (s : State) (i : Nat) (f : Req → Req) : (s.updReq i f).badBanks = s.badBanks := rfl
@[simp] theorem State.updReq_lanes (s : State) (i : Nat) (f : Req → Req) : (s.updReq i f).lanes = s.lanes := rfl
@[simp] theorem State.updReq_press (s : State) (i : Nat) (f : Req → Req) : (s.updReq i f).press = s.press := rfl
@[simp] theorem State.updReq_burin (s : State) (i : Nat) (f : Req → Req) : (s.updReq i f).burin = s.burin := rfl
@[simp] theorem State.updReq_churn (s : State) (i : Nat) (f : Req → Req) : (s.updReq i f).churn = s.churn := rfl
@[simp] theorem State.updReq_seqs (s : State) (i : Nat) (f : Req → Req) : (s.updReq i f).seqs = s.seqs := rfl
@[simp] theorem State.updReq_parts (s : State) (i : Nat) (f : Req → Req) : (s.updReq i f).parts = s.parts := rfl
@[simp] theorem State.updReq_bound (s : State) (i : Nat) (f : Req → Req) : (s.updReq i f).bound = s.bound := rfl
@[simp] theorem State.updReq_pcmd (s : State) (i : Nat) (f : Req → Req) : (s.updReq i f).pcmd = s.pcmd := rfl
@[simp] theorem State.updReq_measStart (s : State) (i : Nat) (f : Req → Req) : (s.updReq i f).measStart = s.measStart := rfl
@[simp] theorem State.updReq_measEnd (s : State) (i : Nat) (f : Req → Req) : (s.updReq i f).measEnd = s.measEnd := rfl
@[simp] theorem State.updReq_measOn (s : State) (i : Nat) (f : Req → Req) : (s.updReq i f).measOn = s.measOn := rfl
@[simp] theorem State.updReq_measNext (s : State) (i : Nat) (f : Req → Req) : (s.updReq i f).measNext = s.measNext := rfl
@[simp] theorem State.updReq_pools (s : State) (i : Nat) (f : Req → Req) : (s.updReq i f).pools = s.pools := rfl
@[simp] theorem State.updReq_rings (s : State) (i : Nat) (f : Req → Req) : (s.updReq i f).rings = s.rings := rfl
@[simp] theorem State.updReq_cqs (s : State) (i : Nat) (f : Req → Req) : (s.updReq i f).cqs = s.cqs := rfl
@[simp] theorem State.updReq_dmaQ (s : State) (i : Nat) (f : Req → Req) : (s.updReq i f).dmaQ = s.dmaQ := rfl
@[simp] theorem State.updReq_cfgSpace (s : State) (i : Nat) (f : Req → Req) : (s.updReq i f).cfgSpace = s.cfgSpace := rfl
@[simp] theorem State.updReq_masked (s : State) (i : Nat) (f : Req → Req) : (s.updReq i f).masked = s.masked := rfl
@[simp] theorem State.updReq_vfEnable (s : State) (i : Nat) (f : Req → Req) : (s.updReq i f).vfEnable = s.vfEnable := rfl
@[simp] theorem State.updReq_numVfs (s : State) (i : Nat) (f : Req → Req) : (s.updReq i f).numVfs = s.numVfs := rfl
@[simp] theorem State.updReq_msixPend (s : State) (i : Nat) (f : Req → Req) : (s.updReq i f).msixPend = s.msixPend := rfl
@[simp] theorem State.updReq_rmt (s : State) (i : Nat) (f : Req → Req) : (s.updReq i f).rmt = s.rmt := rfl
@[simp] theorem State.updReq_heldAccess (s : State) (i : Nat) (f : Req → Req) : (s.updReq i f).heldAccess = s.heldAccess := rfl
@[simp] theorem State.updReq_ports (s : State) (i : Nat) (f : Req → Req) : (s.updReq i f).ports = s.ports := rfl
@[simp] theorem State.updReq_wins (s : State) (i : Nat) (f : Req → Req) : (s.updReq i f).wins = s.wins := rfl
@[simp] theorem State.updReq_groups (s : State) (i : Nat) (f : Req → Req) : (s.updReq i f).groups = s.groups := rfl
@[simp] theorem State.updReq_sendings (s : State) (i : Nat) (f : Req → Req) : (s.updReq i f).sendings = s.sendings := rfl
@[simp] theorem State.updReq_ptp (s : State) (i : Nat) (f : Req → Req) : (s.updReq i f).ptp = s.ptp := rfl
@[simp] theorem State.updReq_log (s : State) (i : Nat) (f : Req → Req) : (s.updReq i f).log = s.log := rfl
@[simp] theorem State.updReq_repair (s : State) (i : Nat) (f : Req → Req) : (s.updReq i f).repair = s.repair := rfl
@[simp] theorem State.updReq_scrubStk (s : State) (i : Nat) (f : Req → Req) : (s.updReq i f).scrubStk = s.scrubStk := rfl
@[simp] theorem State.updReq_scrubVat (s : State) (i : Nat) (f : Req → Req) : (s.updReq i f).scrubVat = s.scrubVat := rfl
@[simp] theorem State.updReq_stkLaps (s : State) (i : Nat) (f : Req → Req) : (s.updReq i f).stkLaps = s.stkLaps := rfl
@[simp] theorem State.updReq_vatLaps (s : State) (i : Nat) (f : Req → Req) : (s.updReq i f).vatLaps = s.vatLaps := rfl
@[simp] theorem State.updReq_badSpares (s : State) (i : Nat) (f : Req → Req) : (s.updReq i f).badSpares = s.badSpares := rfl
@[simp] theorem State.updReq_zones (s : State) (i : Nat) (f : Req → Req) : (s.updReq i f).zones = s.zones := rfl
@[simp] theorem State.updReq_pwr (s : State) (i : Nat) (f : Req → Req) : (s.updReq i f).pwr = s.pwr := rfl
@[simp] theorem State.updReq_boot (s : State) (i : Nat) (f : Req → Req) : (s.updReq i f).boot = s.boot := rfl
@[simp] theorem State.updReq_out (s : State) (i : Nat) (f : Req → Req) : (s.updReq i f).out = s.out := rfl
@[simp] theorem State.updReq_free (s : State) (i : Nat) (f : Req → Req) : (s.updReq i f).free = s.free := rfl

/-! ### updPort -/

@[simp] theorem State.updPort_pending (s : State) (j : Nat) (f : Port → Port) : (s.updPort j f).pending = s.pending := rfl
@[simp] theorem State.updPort_regs (s : State) (j : Nat) (f : Port → Port) : (s.updPort j f).regs = s.regs := rfl
@[simp] theorem State.updPort_aon (s : State) (j : Nat) (f : Port → Port) : (s.updPort j f).aon = s.aon := rfl
@[simp] theorem State.updPort_grid (s : State) (j : Nat) (f : Port → Port) : (s.updPort j f).grid = s.grid := rfl
@[simp] theorem State.updPort_quarters (s : State) (j : Nat) (f : Port → Port) : (s.updPort j f).quarters = s.quarters := rfl
@[simp] theorem State.updPort_dieFence (s : State) (j : Nat) (f : Port → Port) : (s.updPort j f).dieFence = s.dieFence := rfl
@[simp] theorem State.updPort_vat (s : State) (j : Nat) (f : Port → Port) : (s.updPort j f).vat = s.vat := rfl
@[simp] theorem State.updPort_vatCode (s : State) (j : Nat) (f : Port → Port) : (s.updPort j f).vatCode = s.vatCode := rfl
@[simp] theorem State.updPort_work (s : State) (j : Nat) (f : Port → Port) : (s.updPort j f).work = s.work := rfl
@[simp] theorem State.updPort_plateT (s : State) (j : Nat) (f : Port → Port) : (s.updPort j f).plateT = s.plateT := rfl
@[simp] theorem State.updPort_slotCfg (s : State) (j : Nat) (f : Port → Port) : (s.updPort j f).slotCfg = s.slotCfg := rfl
@[simp] theorem State.updPort_stk (s : State) (j : Nat) (f : Port → Port) : (s.updPort j f).stk = s.stk := rfl
@[simp] theorem State.updPort_stkCode (s : State) (j : Nat) (f : Port → Port) : (s.updPort j f).stkCode = s.stkCode := rfl
@[simp] theorem State.updPort_regions (s : State) (j : Nat) (f : Port → Port) : (s.updPort j f).regions = s.regions := rfl
@[simp] theorem State.updPort_maps (s : State) (j : Nat) (f : Port → Port) : (s.updPort j f).maps = s.maps := rfl
@[simp] theorem State.updPort_wcb (s : State) (j : Nat) (f : Port → Port) : (s.updPort j f).wcb = s.wcb := rfl
@[simp] theorem State.updPort_held (s : State) (j : Nat) (f : Port → Port) : (s.updPort j f).held = s.held := rfl
@[simp] theorem State.updPort_cellSeq (s : State) (j : Nat) (f : Port → Port) : (s.updPort j f).cellSeq = s.cellSeq := rfl
@[simp] theorem State.updPort_refill (s : State) (j : Nat) (f : Port → Port) : (s.updPort j f).refill = s.refill := rfl
@[simp] theorem State.updPort_rowMap (s : State) (j : Nat) (f : Port → Port) : (s.updPort j f).rowMap = s.rowMap := rfl
@[simp] theorem State.updPort_rowCopy (s : State) (j : Nat) (f : Port → Port) : (s.updPort j f).rowCopy = s.rowCopy := rfl
@[simp] theorem State.updPort_badBanks (s : State) (j : Nat) (f : Port → Port) : (s.updPort j f).badBanks = s.badBanks := rfl
@[simp] theorem State.updPort_lanes (s : State) (j : Nat) (f : Port → Port) : (s.updPort j f).lanes = s.lanes := rfl
@[simp] theorem State.updPort_press (s : State) (j : Nat) (f : Port → Port) : (s.updPort j f).press = s.press := rfl
@[simp] theorem State.updPort_burin (s : State) (j : Nat) (f : Port → Port) : (s.updPort j f).burin = s.burin := rfl
@[simp] theorem State.updPort_churn (s : State) (j : Nat) (f : Port → Port) : (s.updPort j f).churn = s.churn := rfl
@[simp] theorem State.updPort_seqs (s : State) (j : Nat) (f : Port → Port) : (s.updPort j f).seqs = s.seqs := rfl
@[simp] theorem State.updPort_parts (s : State) (j : Nat) (f : Port → Port) : (s.updPort j f).parts = s.parts := rfl
@[simp] theorem State.updPort_bound (s : State) (j : Nat) (f : Port → Port) : (s.updPort j f).bound = s.bound := rfl
@[simp] theorem State.updPort_pcmd (s : State) (j : Nat) (f : Port → Port) : (s.updPort j f).pcmd = s.pcmd := rfl
@[simp] theorem State.updPort_measStart (s : State) (j : Nat) (f : Port → Port) : (s.updPort j f).measStart = s.measStart := rfl
@[simp] theorem State.updPort_measEnd (s : State) (j : Nat) (f : Port → Port) : (s.updPort j f).measEnd = s.measEnd := rfl
@[simp] theorem State.updPort_measOn (s : State) (j : Nat) (f : Port → Port) : (s.updPort j f).measOn = s.measOn := rfl
@[simp] theorem State.updPort_measNext (s : State) (j : Nat) (f : Port → Port) : (s.updPort j f).measNext = s.measNext := rfl
@[simp] theorem State.updPort_reqs (s : State) (j : Nat) (f : Port → Port) : (s.updPort j f).reqs = s.reqs := rfl
@[simp] theorem State.updPort_pools (s : State) (j : Nat) (f : Port → Port) : (s.updPort j f).pools = s.pools := rfl
@[simp] theorem State.updPort_rings (s : State) (j : Nat) (f : Port → Port) : (s.updPort j f).rings = s.rings := rfl
@[simp] theorem State.updPort_cqs (s : State) (j : Nat) (f : Port → Port) : (s.updPort j f).cqs = s.cqs := rfl
@[simp] theorem State.updPort_dmaQ (s : State) (j : Nat) (f : Port → Port) : (s.updPort j f).dmaQ = s.dmaQ := rfl
@[simp] theorem State.updPort_cfgSpace (s : State) (j : Nat) (f : Port → Port) : (s.updPort j f).cfgSpace = s.cfgSpace := rfl
@[simp] theorem State.updPort_masked (s : State) (j : Nat) (f : Port → Port) : (s.updPort j f).masked = s.masked := rfl
@[simp] theorem State.updPort_vfEnable (s : State) (j : Nat) (f : Port → Port) : (s.updPort j f).vfEnable = s.vfEnable := rfl
@[simp] theorem State.updPort_numVfs (s : State) (j : Nat) (f : Port → Port) : (s.updPort j f).numVfs = s.numVfs := rfl
@[simp] theorem State.updPort_msixPend (s : State) (j : Nat) (f : Port → Port) : (s.updPort j f).msixPend = s.msixPend := rfl
@[simp] theorem State.updPort_rmt (s : State) (j : Nat) (f : Port → Port) : (s.updPort j f).rmt = s.rmt := rfl
@[simp] theorem State.updPort_heldAccess (s : State) (j : Nat) (f : Port → Port) : (s.updPort j f).heldAccess = s.heldAccess := rfl
@[simp] theorem State.updPort_wins (s : State) (j : Nat) (f : Port → Port) : (s.updPort j f).wins = s.wins := rfl
@[simp] theorem State.updPort_groups (s : State) (j : Nat) (f : Port → Port) : (s.updPort j f).groups = s.groups := rfl
@[simp] theorem State.updPort_sendings (s : State) (j : Nat) (f : Port → Port) : (s.updPort j f).sendings = s.sendings := rfl
@[simp] theorem State.updPort_ptp (s : State) (j : Nat) (f : Port → Port) : (s.updPort j f).ptp = s.ptp := rfl
@[simp] theorem State.updPort_log (s : State) (j : Nat) (f : Port → Port) : (s.updPort j f).log = s.log := rfl
@[simp] theorem State.updPort_repair (s : State) (j : Nat) (f : Port → Port) : (s.updPort j f).repair = s.repair := rfl
@[simp] theorem State.updPort_scrubStk (s : State) (j : Nat) (f : Port → Port) : (s.updPort j f).scrubStk = s.scrubStk := rfl
@[simp] theorem State.updPort_scrubVat (s : State) (j : Nat) (f : Port → Port) : (s.updPort j f).scrubVat = s.scrubVat := rfl
@[simp] theorem State.updPort_stkLaps (s : State) (j : Nat) (f : Port → Port) : (s.updPort j f).stkLaps = s.stkLaps := rfl
@[simp] theorem State.updPort_vatLaps (s : State) (j : Nat) (f : Port → Port) : (s.updPort j f).vatLaps = s.vatLaps := rfl
@[simp] theorem State.updPort_badSpares (s : State) (j : Nat) (f : Port → Port) : (s.updPort j f).badSpares = s.badSpares := rfl
@[simp] theorem State.updPort_zones (s : State) (j : Nat) (f : Port → Port) : (s.updPort j f).zones = s.zones := rfl
@[simp] theorem State.updPort_pwr (s : State) (j : Nat) (f : Port → Port) : (s.updPort j f).pwr = s.pwr := rfl
@[simp] theorem State.updPort_boot (s : State) (j : Nat) (f : Port → Port) : (s.updPort j f).boot = s.boot := rfl
@[simp] theorem State.updPort_out (s : State) (j : Nat) (f : Port → Port) : (s.updPort j f).out = s.out := rfl
@[simp] theorem State.updPort_free (s : State) (j : Nat) (f : Port → Port) : (s.updPort j f).free = s.free := rfl

/-! ### updWin -/

@[simp] theorem State.updWin_pending (s : State) (k : Nat) (f : Win → Win) : (s.updWin k f).pending = s.pending := rfl
@[simp] theorem State.updWin_regs (s : State) (k : Nat) (f : Win → Win) : (s.updWin k f).regs = s.regs := rfl
@[simp] theorem State.updWin_aon (s : State) (k : Nat) (f : Win → Win) : (s.updWin k f).aon = s.aon := rfl
@[simp] theorem State.updWin_grid (s : State) (k : Nat) (f : Win → Win) : (s.updWin k f).grid = s.grid := rfl
@[simp] theorem State.updWin_quarters (s : State) (k : Nat) (f : Win → Win) : (s.updWin k f).quarters = s.quarters := rfl
@[simp] theorem State.updWin_dieFence (s : State) (k : Nat) (f : Win → Win) : (s.updWin k f).dieFence = s.dieFence := rfl
@[simp] theorem State.updWin_vat (s : State) (k : Nat) (f : Win → Win) : (s.updWin k f).vat = s.vat := rfl
@[simp] theorem State.updWin_vatCode (s : State) (k : Nat) (f : Win → Win) : (s.updWin k f).vatCode = s.vatCode := rfl
@[simp] theorem State.updWin_work (s : State) (k : Nat) (f : Win → Win) : (s.updWin k f).work = s.work := rfl
@[simp] theorem State.updWin_plateT (s : State) (k : Nat) (f : Win → Win) : (s.updWin k f).plateT = s.plateT := rfl
@[simp] theorem State.updWin_slotCfg (s : State) (k : Nat) (f : Win → Win) : (s.updWin k f).slotCfg = s.slotCfg := rfl
@[simp] theorem State.updWin_stk (s : State) (k : Nat) (f : Win → Win) : (s.updWin k f).stk = s.stk := rfl
@[simp] theorem State.updWin_stkCode (s : State) (k : Nat) (f : Win → Win) : (s.updWin k f).stkCode = s.stkCode := rfl
@[simp] theorem State.updWin_regions (s : State) (k : Nat) (f : Win → Win) : (s.updWin k f).regions = s.regions := rfl
@[simp] theorem State.updWin_maps (s : State) (k : Nat) (f : Win → Win) : (s.updWin k f).maps = s.maps := rfl
@[simp] theorem State.updWin_wcb (s : State) (k : Nat) (f : Win → Win) : (s.updWin k f).wcb = s.wcb := rfl
@[simp] theorem State.updWin_held (s : State) (k : Nat) (f : Win → Win) : (s.updWin k f).held = s.held := rfl
@[simp] theorem State.updWin_cellSeq (s : State) (k : Nat) (f : Win → Win) : (s.updWin k f).cellSeq = s.cellSeq := rfl
@[simp] theorem State.updWin_refill (s : State) (k : Nat) (f : Win → Win) : (s.updWin k f).refill = s.refill := rfl
@[simp] theorem State.updWin_rowMap (s : State) (k : Nat) (f : Win → Win) : (s.updWin k f).rowMap = s.rowMap := rfl
@[simp] theorem State.updWin_rowCopy (s : State) (k : Nat) (f : Win → Win) : (s.updWin k f).rowCopy = s.rowCopy := rfl
@[simp] theorem State.updWin_badBanks (s : State) (k : Nat) (f : Win → Win) : (s.updWin k f).badBanks = s.badBanks := rfl
@[simp] theorem State.updWin_lanes (s : State) (k : Nat) (f : Win → Win) : (s.updWin k f).lanes = s.lanes := rfl
@[simp] theorem State.updWin_press (s : State) (k : Nat) (f : Win → Win) : (s.updWin k f).press = s.press := rfl
@[simp] theorem State.updWin_burin (s : State) (k : Nat) (f : Win → Win) : (s.updWin k f).burin = s.burin := rfl
@[simp] theorem State.updWin_churn (s : State) (k : Nat) (f : Win → Win) : (s.updWin k f).churn = s.churn := rfl
@[simp] theorem State.updWin_seqs (s : State) (k : Nat) (f : Win → Win) : (s.updWin k f).seqs = s.seqs := rfl
@[simp] theorem State.updWin_parts (s : State) (k : Nat) (f : Win → Win) : (s.updWin k f).parts = s.parts := rfl
@[simp] theorem State.updWin_bound (s : State) (k : Nat) (f : Win → Win) : (s.updWin k f).bound = s.bound := rfl
@[simp] theorem State.updWin_pcmd (s : State) (k : Nat) (f : Win → Win) : (s.updWin k f).pcmd = s.pcmd := rfl
@[simp] theorem State.updWin_measStart (s : State) (k : Nat) (f : Win → Win) : (s.updWin k f).measStart = s.measStart := rfl
@[simp] theorem State.updWin_measEnd (s : State) (k : Nat) (f : Win → Win) : (s.updWin k f).measEnd = s.measEnd := rfl
@[simp] theorem State.updWin_measOn (s : State) (k : Nat) (f : Win → Win) : (s.updWin k f).measOn = s.measOn := rfl
@[simp] theorem State.updWin_measNext (s : State) (k : Nat) (f : Win → Win) : (s.updWin k f).measNext = s.measNext := rfl
@[simp] theorem State.updWin_reqs (s : State) (k : Nat) (f : Win → Win) : (s.updWin k f).reqs = s.reqs := rfl
@[simp] theorem State.updWin_pools (s : State) (k : Nat) (f : Win → Win) : (s.updWin k f).pools = s.pools := rfl
@[simp] theorem State.updWin_rings (s : State) (k : Nat) (f : Win → Win) : (s.updWin k f).rings = s.rings := rfl
@[simp] theorem State.updWin_cqs (s : State) (k : Nat) (f : Win → Win) : (s.updWin k f).cqs = s.cqs := rfl
@[simp] theorem State.updWin_dmaQ (s : State) (k : Nat) (f : Win → Win) : (s.updWin k f).dmaQ = s.dmaQ := rfl
@[simp] theorem State.updWin_cfgSpace (s : State) (k : Nat) (f : Win → Win) : (s.updWin k f).cfgSpace = s.cfgSpace := rfl
@[simp] theorem State.updWin_masked (s : State) (k : Nat) (f : Win → Win) : (s.updWin k f).masked = s.masked := rfl
@[simp] theorem State.updWin_vfEnable (s : State) (k : Nat) (f : Win → Win) : (s.updWin k f).vfEnable = s.vfEnable := rfl
@[simp] theorem State.updWin_numVfs (s : State) (k : Nat) (f : Win → Win) : (s.updWin k f).numVfs = s.numVfs := rfl
@[simp] theorem State.updWin_msixPend (s : State) (k : Nat) (f : Win → Win) : (s.updWin k f).msixPend = s.msixPend := rfl
@[simp] theorem State.updWin_rmt (s : State) (k : Nat) (f : Win → Win) : (s.updWin k f).rmt = s.rmt := rfl
@[simp] theorem State.updWin_heldAccess (s : State) (k : Nat) (f : Win → Win) : (s.updWin k f).heldAccess = s.heldAccess := rfl
@[simp] theorem State.updWin_ports (s : State) (k : Nat) (f : Win → Win) : (s.updWin k f).ports = s.ports := rfl
@[simp] theorem State.updWin_groups (s : State) (k : Nat) (f : Win → Win) : (s.updWin k f).groups = s.groups := rfl
@[simp] theorem State.updWin_sendings (s : State) (k : Nat) (f : Win → Win) : (s.updWin k f).sendings = s.sendings := rfl
@[simp] theorem State.updWin_ptp (s : State) (k : Nat) (f : Win → Win) : (s.updWin k f).ptp = s.ptp := rfl
@[simp] theorem State.updWin_log (s : State) (k : Nat) (f : Win → Win) : (s.updWin k f).log = s.log := rfl
@[simp] theorem State.updWin_repair (s : State) (k : Nat) (f : Win → Win) : (s.updWin k f).repair = s.repair := rfl
@[simp] theorem State.updWin_scrubStk (s : State) (k : Nat) (f : Win → Win) : (s.updWin k f).scrubStk = s.scrubStk := rfl
@[simp] theorem State.updWin_scrubVat (s : State) (k : Nat) (f : Win → Win) : (s.updWin k f).scrubVat = s.scrubVat := rfl
@[simp] theorem State.updWin_stkLaps (s : State) (k : Nat) (f : Win → Win) : (s.updWin k f).stkLaps = s.stkLaps := rfl
@[simp] theorem State.updWin_vatLaps (s : State) (k : Nat) (f : Win → Win) : (s.updWin k f).vatLaps = s.vatLaps := rfl
@[simp] theorem State.updWin_badSpares (s : State) (k : Nat) (f : Win → Win) : (s.updWin k f).badSpares = s.badSpares := rfl
@[simp] theorem State.updWin_zones (s : State) (k : Nat) (f : Win → Win) : (s.updWin k f).zones = s.zones := rfl
@[simp] theorem State.updWin_pwr (s : State) (k : Nat) (f : Win → Win) : (s.updWin k f).pwr = s.pwr := rfl
@[simp] theorem State.updWin_boot (s : State) (k : Nat) (f : Win → Win) : (s.updWin k f).boot = s.boot := rfl
@[simp] theorem State.updWin_out (s : State) (k : Nat) (f : Win → Win) : (s.updWin k f).out = s.out := rfl
@[simp] theorem State.updWin_free (s : State) (k : Nat) (f : Win → Win) : (s.updWin k f).free = s.free := rfl

/-! ### updGroup -/

@[simp] theorem State.updGroup_pending (s : State) (p g : Nat) (f : Group → Group) : (s.updGroup p g f).pending = s.pending := rfl
@[simp] theorem State.updGroup_regs (s : State) (p g : Nat) (f : Group → Group) : (s.updGroup p g f).regs = s.regs := rfl
@[simp] theorem State.updGroup_aon (s : State) (p g : Nat) (f : Group → Group) : (s.updGroup p g f).aon = s.aon := rfl
@[simp] theorem State.updGroup_grid (s : State) (p g : Nat) (f : Group → Group) : (s.updGroup p g f).grid = s.grid := rfl
@[simp] theorem State.updGroup_quarters (s : State) (p g : Nat) (f : Group → Group) : (s.updGroup p g f).quarters = s.quarters := rfl
@[simp] theorem State.updGroup_dieFence (s : State) (p g : Nat) (f : Group → Group) : (s.updGroup p g f).dieFence = s.dieFence := rfl
@[simp] theorem State.updGroup_vat (s : State) (p g : Nat) (f : Group → Group) : (s.updGroup p g f).vat = s.vat := rfl
@[simp] theorem State.updGroup_vatCode (s : State) (p g : Nat) (f : Group → Group) : (s.updGroup p g f).vatCode = s.vatCode := rfl
@[simp] theorem State.updGroup_work (s : State) (p g : Nat) (f : Group → Group) : (s.updGroup p g f).work = s.work := rfl
@[simp] theorem State.updGroup_plateT (s : State) (p g : Nat) (f : Group → Group) : (s.updGroup p g f).plateT = s.plateT := rfl
@[simp] theorem State.updGroup_slotCfg (s : State) (p g : Nat) (f : Group → Group) : (s.updGroup p g f).slotCfg = s.slotCfg := rfl
@[simp] theorem State.updGroup_stk (s : State) (p g : Nat) (f : Group → Group) : (s.updGroup p g f).stk = s.stk := rfl
@[simp] theorem State.updGroup_stkCode (s : State) (p g : Nat) (f : Group → Group) : (s.updGroup p g f).stkCode = s.stkCode := rfl
@[simp] theorem State.updGroup_regions (s : State) (p g : Nat) (f : Group → Group) : (s.updGroup p g f).regions = s.regions := rfl
@[simp] theorem State.updGroup_maps (s : State) (p g : Nat) (f : Group → Group) : (s.updGroup p g f).maps = s.maps := rfl
@[simp] theorem State.updGroup_wcb (s : State) (p g : Nat) (f : Group → Group) : (s.updGroup p g f).wcb = s.wcb := rfl
@[simp] theorem State.updGroup_held (s : State) (p g : Nat) (f : Group → Group) : (s.updGroup p g f).held = s.held := rfl
@[simp] theorem State.updGroup_cellSeq (s : State) (p g : Nat) (f : Group → Group) : (s.updGroup p g f).cellSeq = s.cellSeq := rfl
@[simp] theorem State.updGroup_refill (s : State) (p g : Nat) (f : Group → Group) : (s.updGroup p g f).refill = s.refill := rfl
@[simp] theorem State.updGroup_rowMap (s : State) (p g : Nat) (f : Group → Group) : (s.updGroup p g f).rowMap = s.rowMap := rfl
@[simp] theorem State.updGroup_rowCopy (s : State) (p g : Nat) (f : Group → Group) : (s.updGroup p g f).rowCopy = s.rowCopy := rfl
@[simp] theorem State.updGroup_badBanks (s : State) (p g : Nat) (f : Group → Group) : (s.updGroup p g f).badBanks = s.badBanks := rfl
@[simp] theorem State.updGroup_lanes (s : State) (p g : Nat) (f : Group → Group) : (s.updGroup p g f).lanes = s.lanes := rfl
@[simp] theorem State.updGroup_press (s : State) (p g : Nat) (f : Group → Group) : (s.updGroup p g f).press = s.press := rfl
@[simp] theorem State.updGroup_burin (s : State) (p g : Nat) (f : Group → Group) : (s.updGroup p g f).burin = s.burin := rfl
@[simp] theorem State.updGroup_churn (s : State) (p g : Nat) (f : Group → Group) : (s.updGroup p g f).churn = s.churn := rfl
@[simp] theorem State.updGroup_seqs (s : State) (p g : Nat) (f : Group → Group) : (s.updGroup p g f).seqs = s.seqs := rfl
@[simp] theorem State.updGroup_parts (s : State) (p g : Nat) (f : Group → Group) : (s.updGroup p g f).parts = s.parts := rfl
@[simp] theorem State.updGroup_bound (s : State) (p g : Nat) (f : Group → Group) : (s.updGroup p g f).bound = s.bound := rfl
@[simp] theorem State.updGroup_pcmd (s : State) (p g : Nat) (f : Group → Group) : (s.updGroup p g f).pcmd = s.pcmd := rfl
@[simp] theorem State.updGroup_measStart (s : State) (p g : Nat) (f : Group → Group) : (s.updGroup p g f).measStart = s.measStart := rfl
@[simp] theorem State.updGroup_measEnd (s : State) (p g : Nat) (f : Group → Group) : (s.updGroup p g f).measEnd = s.measEnd := rfl
@[simp] theorem State.updGroup_measOn (s : State) (p g : Nat) (f : Group → Group) : (s.updGroup p g f).measOn = s.measOn := rfl
@[simp] theorem State.updGroup_measNext (s : State) (p g : Nat) (f : Group → Group) : (s.updGroup p g f).measNext = s.measNext := rfl
@[simp] theorem State.updGroup_reqs (s : State) (p g : Nat) (f : Group → Group) : (s.updGroup p g f).reqs = s.reqs := rfl
@[simp] theorem State.updGroup_pools (s : State) (p g : Nat) (f : Group → Group) : (s.updGroup p g f).pools = s.pools := rfl
@[simp] theorem State.updGroup_rings (s : State) (p g : Nat) (f : Group → Group) : (s.updGroup p g f).rings = s.rings := rfl
@[simp] theorem State.updGroup_cqs (s : State) (p g : Nat) (f : Group → Group) : (s.updGroup p g f).cqs = s.cqs := rfl
@[simp] theorem State.updGroup_dmaQ (s : State) (p g : Nat) (f : Group → Group) : (s.updGroup p g f).dmaQ = s.dmaQ := rfl
@[simp] theorem State.updGroup_cfgSpace (s : State) (p g : Nat) (f : Group → Group) : (s.updGroup p g f).cfgSpace = s.cfgSpace := rfl
@[simp] theorem State.updGroup_masked (s : State) (p g : Nat) (f : Group → Group) : (s.updGroup p g f).masked = s.masked := rfl
@[simp] theorem State.updGroup_vfEnable (s : State) (p g : Nat) (f : Group → Group) : (s.updGroup p g f).vfEnable = s.vfEnable := rfl
@[simp] theorem State.updGroup_numVfs (s : State) (p g : Nat) (f : Group → Group) : (s.updGroup p g f).numVfs = s.numVfs := rfl
@[simp] theorem State.updGroup_msixPend (s : State) (p g : Nat) (f : Group → Group) : (s.updGroup p g f).msixPend = s.msixPend := rfl
@[simp] theorem State.updGroup_rmt (s : State) (p g : Nat) (f : Group → Group) : (s.updGroup p g f).rmt = s.rmt := rfl
@[simp] theorem State.updGroup_heldAccess (s : State) (p g : Nat) (f : Group → Group) : (s.updGroup p g f).heldAccess = s.heldAccess := rfl
@[simp] theorem State.updGroup_ports (s : State) (p g : Nat) (f : Group → Group) : (s.updGroup p g f).ports = s.ports := rfl
@[simp] theorem State.updGroup_wins (s : State) (p g : Nat) (f : Group → Group) : (s.updGroup p g f).wins = s.wins := rfl
@[simp] theorem State.updGroup_sendings (s : State) (p g : Nat) (f : Group → Group) : (s.updGroup p g f).sendings = s.sendings := rfl
@[simp] theorem State.updGroup_ptp (s : State) (p g : Nat) (f : Group → Group) : (s.updGroup p g f).ptp = s.ptp := rfl
@[simp] theorem State.updGroup_log (s : State) (p g : Nat) (f : Group → Group) : (s.updGroup p g f).log = s.log := rfl
@[simp] theorem State.updGroup_repair (s : State) (p g : Nat) (f : Group → Group) : (s.updGroup p g f).repair = s.repair := rfl
@[simp] theorem State.updGroup_scrubStk (s : State) (p g : Nat) (f : Group → Group) : (s.updGroup p g f).scrubStk = s.scrubStk := rfl
@[simp] theorem State.updGroup_scrubVat (s : State) (p g : Nat) (f : Group → Group) : (s.updGroup p g f).scrubVat = s.scrubVat := rfl
@[simp] theorem State.updGroup_stkLaps (s : State) (p g : Nat) (f : Group → Group) : (s.updGroup p g f).stkLaps = s.stkLaps := rfl
@[simp] theorem State.updGroup_vatLaps (s : State) (p g : Nat) (f : Group → Group) : (s.updGroup p g f).vatLaps = s.vatLaps := rfl
@[simp] theorem State.updGroup_badSpares (s : State) (p g : Nat) (f : Group → Group) : (s.updGroup p g f).badSpares = s.badSpares := rfl
@[simp] theorem State.updGroup_zones (s : State) (p g : Nat) (f : Group → Group) : (s.updGroup p g f).zones = s.zones := rfl
@[simp] theorem State.updGroup_pwr (s : State) (p g : Nat) (f : Group → Group) : (s.updGroup p g f).pwr = s.pwr := rfl
@[simp] theorem State.updGroup_boot (s : State) (p g : Nat) (f : Group → Group) : (s.updGroup p g f).boot = s.boot := rfl
@[simp] theorem State.updGroup_out (s : State) (p g : Nat) (f : Group → Group) : (s.updGroup p g f).out = s.out := rfl
@[simp] theorem State.updGroup_free (s : State) (p g : Nat) (f : Group → Group) : (s.updGroup p g f).free = s.free := rfl

/-! ### Reads of what was written -/

@[simp] theorem State.part_updPart_same (s : State) (p : Nat) (f : Part → Part) : (s.updPart p f).part p = f (s.part p) :=
  NMap.get_upd_same _ _ _
theorem State.part_updPart_ne (s : State) (p p' : Nat) (f : Part → Part) (h : p' ≠ p) : (s.updPart p f).part p' = s.part p' :=
  NMap.get_upd_ne _ _ _ _ h
@[simp] theorem State.req_updReq_same (s : State) (i : Nat) (f : Req → Req) : (s.updReq i f).req i = f (s.req i) :=
  NMap.get_upd_same _ _ _
theorem State.req_updReq_ne (s : State) (i k : Nat) (f : Req → Req) (h : k ≠ i) : (s.updReq i f).req k = s.req k :=
  NMap.get_upd_ne _ _ _ _ h
@[simp] theorem State.q_setQ_same (s : State) (i : Nat) (f : Quarter → Quarter) : (s.setQ i f).q i = f (s.q i) :=
  NMap.get_upd_same _ _ _
theorem State.q_setQ_ne (s : State) (i k : Nat) (f : Quarter → Quarter) (h : k ≠ i) : (s.setQ i f).q k = s.q k :=
  NMap.get_upd_ne _ _ _ _ h
@[simp] theorem State.port_updPort_same (s : State) (j : Nat) (f : Port → Port) : (s.updPort j f).port j = f (s.port j) :=
  NMap.get_upd_same _ _ _
theorem State.port_updPort_ne (s : State) (j k : Nat) (f : Port → Port) (h : k ≠ j) : (s.updPort j f).port k = s.port k :=
  NMap.get_upd_ne _ _ _ _ h
@[simp] theorem State.win_updWin_same (s : State) (k : Nat) (f : Win → Win) : (s.updWin k f).win k = f (s.win k) :=
  NMap.get_upd_same _ _ _
theorem State.win_updWin_ne (s : State) (k i : Nat) (f : Win → Win) (h : i ≠ k) : (s.updWin k f).win i = s.win i :=
  NMap.get_upd_ne _ _ _ _ h
@[simp] theorem State.group_updGroup_same (s : State) (p g : Nat) (f : Group → Group) :
    (s.updGroup p g f).group p g = f (s.group p g) := NMap.get_upd_same _ _ _

/-! ### Registers -/

@[simp] theorem State.reg_setReg_same (s : State) (a : Nat) (v : W64) : (s.setReg a v).reg a = v := mget_mset_same _ _ _ _
theorem State.reg_setReg_ne (s : State) (a b : Nat) (v : W64) (h : b ≠ a) : (s.setReg a v).reg b = s.reg b :=
  mget_mset_ne _ _ _ _ _ h _

/-- A register at another offset keeps its value. -/
theorem State.reg_wr_ne (s : State) (f : Fld) (i v b : Nat) (h : b ≠ f.addr i) : (s.wr f i v).reg b = s.reg b :=
  State.reg_setReg_ne _ _ _ _ h

/-- A field of a register at another offset keeps its value. -/
theorem State.rd_wr_ne (s : State) (f g : Fld) (i j v : Nat) (h : g.addr j ≠ f.addr i) : (s.wr f i v).rd g j = s.rd g j := by
  unfold State.rd
  rw [State.reg_wr_ne _ _ _ _ _ h]

/-- A field reads as the value written, at its width. -/
theorem State.rd_wr_same (s : State) (f : Fld) (i v : Nat) (h : f.lo + f.wid ≤ 64) :
    (s.wr f i v).rd f i = v % 2 ^ f.wid := by
  unfold State.rd State.wr
  rw [State.reg_setReg_same, BitVec.toNat_ofNat, Nat.mod_eq_of_lt (setBits_lt _ _ _ _ (BitVec.isLt _) h), bits_setBits_same]

/-- Another field of the same register keeps its value. -/
theorem State.rd_wr_apart (s : State) (f g : Fld) (i j v : Nat) (ha : g.addr j = f.addr i) (h : f.lo + f.wid ≤ 64)
    (hd : g.lo + g.wid ≤ f.lo ∨ f.lo + f.wid ≤ g.lo) : (s.wr f i v).rd g j = s.rd g j := by
  unfold State.rd State.wr
  rw [ha, State.reg_setReg_same, BitVec.toNat_ofNat, Nat.mod_eq_of_lt (setBits_lt _ _ _ _ (BitVec.isLt _) h),
    bits_setBits_apart _ _ _ _ _ _ hd]

end Sys2Proof.Machine
end

