-- ==== Sys2Proof/Laws/Changes.lean ====
section
/-! SUPPORT. What an operation changes: the relation `Changes` and its rules. -/

namespace Sys2Proof.Machine

open Sys2Proof

/-- Every piece of one list is in another. -/
def subPieces (a b : List Piece) : Bool := a.all (fun x => b.contains x)

theorem mem_of_sub {a b : List Piece} (h : subPieces a b = true) {x : Piece} (hx : x ∈ a) : x ∈ b := by
  have := List.all_eq_true.1 h x hx
  simpa using this

theorem sub_trans {a b c : List Piece} (h : subPieces b c = true) (hab : subPieces a b = true) : subPieces a c = true :=
  List.all_eq_true.2 fun x hx => by
    have := mem_of_sub h (mem_of_sub hab hx)
    simpa using this

theorem Changes.refl (l : List Piece) (s : State) : Changes l s s := fun x _ => by cases x <;> rfl

theorem Piece.same_trans {s t u : State} {x : Piece} (h : x.same s t) (k : x.same t u) : x.same s u := by
  cases x <;> exact Eq.trans h k

theorem Changes.trans {l : List Piece} {s t u : State} (h : Changes l s t) (k : Changes l t u) : Changes l s u :=
  fun x hx => Piece.same_trans (h x hx) (k x hx)

theorem Changes.mono {l m : List Piece} {s t : State} (h : Changes l s t) (hl : subPieces l m = true) : Changes m s t :=
  fun x hx => h x fun hm => hx (mem_of_sub hl hm)

/-- A record update, piece by piece. -/
def Piece.put (b : State) (x1 : NMap W64) (x2 : Aon) (x3 : Grid) (x4 : NMap Quarter) (x5 : Nat) (x6 : NMap Byte) (x7 : NMap W16) (x8 : List PlateEv) (x9 : Nat) (x10 : Nat) (x11 : NMap Byte) (x12 : NMap W16) (x13 : NMap Region) (x14 : List (Nat × Nat)) (x15 : List WcbEntry) (x16 : List Held) (x17 : Nat) (x18 : Option Refill) (x19 : List (Nat × Nat × Nat)) (x20 : Option RowCopy) (x21 : List Nat) (x22 : NMap Nat) (x23 : NMap PressEng) (x24 : NMap Core) (x25 : NMap Churn) (x26 : NMap Seq) (x27 : NMap Part) (x28 : NMap Nat) (x29 : Option PartCmd) (x30 : Nat) (x31 : Nat) (x32 : Bool) (x33 : Option Nat) (x34 : NMap Req) (x35 : NMap Pool) (x36 : NMap Ring) (x37 : NMap Cq) (x38 : NMap (List DmaReq)) (x39 : NMap W32) (x40 : List Nat) (x41 : Bool) (x42 : Nat) (x43 : List Nat) (x44 : Option Rmt) (x45 : List HeldAccess) (x46 : NMap Port) (x47 : NMap Win) (x48 : NMap Group) (x49 : List Sending) (x50 : NMap Ptp) (x51 : NMap LogEntry) (x52 : Option Repair) (x53 : NMap Nat) (x54 : NMap Nat) (x55 : NMap Bool) (x56 : NMap Bool) (x57 : List Nat) (x58 : NMap Zone) (x59 : Pwr) (x60 : Boot) (x61 : List Out) (x62 : Nat) : Piece → Prop
  | .pending => b.pending = b.pending
  | .regs => b.regs = x1
  | .dt => b.aon.dt = x2.dt
  | .aon => { b.aon with dt := 0 } = { x2 with dt := 0 }
  | .grid => b.grid = x3
  | .quarters => b.quarters = x4
  | .dieFence => b.dieFence = x5
  | .vat => b.vat = x6
  | .vatCode => b.vatCode = x7
  | .work => b.work = x8
  | .plateT => b.plateT = x9
  | .slotCfg => b.slotCfg = x10
  | .stk => b.stk = x11
  | .stkCode => b.stkCode = x12
  | .regions => b.regions = x13
  | .maps => b.maps = x14
  | .wcb => b.wcb = x15
  | .held => b.held = x16
  | .cellSeq => b.cellSeq = x17
  | .refill => b.refill = x18
  | .rowMap => b.rowMap = x19
  | .rowCopy => b.rowCopy = x20
  | .badBanks => b.badBanks = x21
  | .lanes => b.lanes = x22
  | .press => b.press = x23
  | .burin => b.burin = x24
  | .churn => b.churn = x25
  | .seqs => b.seqs = x26
  | .parts => b.parts = x27
  | .bound => b.bound = x28
  | .pcmd => b.pcmd = x29
  | .measStart => b.measStart = x30
  | .measEnd => b.measEnd = x31
  | .measOn => b.measOn = x32
  | .measNext => b.measNext = x33
  | .reqs => b.reqs = x34
  | .pools => b.pools = x35
  | .rings => b.rings = x36
  | .cqs => b.cqs = x37
  | .dmaQ => b.dmaQ = x38
  | .cfgSpace => b.cfgSpace = x39
  | .masked => b.masked = x40
  | .vfEnable => b.vfEnable = x41
  | .numVfs => b.numVfs = x42
  | .msixPend => b.msixPend = x43
  | .rmt => b.rmt = x44
  | .heldAccess => b.heldAccess = x45
  | .ports => b.ports = x46
  | .wins => b.wins = x47
  | .groups => b.groups = x48
  | .sendings => b.sendings = x49
  | .ptp => b.ptp = x50
  | .log => b.log = x51
  | .repair => b.repair = x52
  | .scrubStk => b.scrubStk = x53
  | .scrubVat => b.scrubVat = x54
  | .stkLaps => b.stkLaps = x55
  | .vatLaps => b.vatLaps = x56
  | .badSpares => b.badSpares = x57
  | .zones => b.zones = x58
  | .pwr => b.pwr = x59
  | .fuses => b.boot.fuses = x60.fuses
  | .boot => { b.boot with fuses := {} } = { x60 with fuses := {} }
  | .out => b.out = x61
  | .free => b.free = x62

theorem Changes.mk {l : List Piece} {s0 b : State} (h : Changes l s0 b) {x1 x2 x3 x4 x5 x6 x7 x8 x9 x10 x11 x12 x13 x14 x15 x16 x17 x18 x19 x20 x21 x22 x23 x24 x25 x26 x27 x28 x29 x30 x31 x32 x33 x34 x35 x36 x37 x38 x39 x40 x41 x42 x43 x44 x45 x46 x47 x48 x49 x50 x51 x52 x53 x54 x55 x56 x57 x58 x59 x60 x61 x62}
    (k : ∀ x, x ∉ l → Piece.put b x1 x2 x3 x4 x5 x6 x7 x8 x9 x10 x11 x12 x13 x14 x15 x16 x17 x18 x19 x20 x21 x22 x23 x24 x25 x26 x27 x28 x29 x30 x31 x32 x33 x34 x35 x36 x37 x38 x39 x40 x41 x42 x43 x44 x45 x46 x47 x48 x49 x50 x51 x52 x53 x54 x55 x56 x57 x58 x59 x60 x61 x62 x) : Changes l s0 (State.mk (State.pending b) x1 x2 x3 x4 x5 x6 x7 x8 x9 x10 x11 x12 x13 x14 x15 x16 x17 x18 x19 x20 x21 x22 x23 x24 x25 x26 x27 x28 x29 x30 x31 x32 x33 x34 x35 x36 x37 x38 x39 x40 x41 x42 x43 x44 x45 x46 x47 x48 x49 x50 x51 x52 x53 x54 x55 x56 x57 x58 x59 x60 x61 x62) :=
  h.trans fun x hx => by cases x <;> exact k _ hx

theorem Changes.each {l : List Piece} {s0 s : State} {α : Type} {f : State → α → State} {xs : List α} (h : Changes l s0 s)
    (k : ∀ s, Changes l s0 s → ∀ a, Changes l s0 (f s a)) : Changes l s0 (s.each xs f) := by
  unfold State.each
  induction xs generalizing s with
  | nil => exact h
  | cons a t ih => exact ih (k s h a)

theorem Changes.pick {l : List Piece} {s0 a b c : State} {r : EccResult} (ha : Changes l s0 a) (hb : Changes l s0 b)
    (hc : Changes l s0 c) : Changes l s0 (r.pick a b c) := by cases r <;> assumption

theorem Changes.foldl {l : List Piece} {s0 s : State} {α : Type} {f : State → α → State} {xs : List α} (h : Changes l s0 s)
    (k : ∀ s, Changes l s0 s → ∀ a, Changes l s0 (f s a)) : Changes l s0 (xs.foldl f s) := Changes.each h k

theorem Changes.foldl_fst {l : List Piece} {s0 : State} {α β : Type} {f : State × β → α → State × β} {xs : List α}
    {i : State × β} (h : Changes l s0 i.1) (k : ∀ q, Changes l s0 q.1 → ∀ a, Changes l s0 (f q a).1) :
    Changes l s0 (xs.foldl f i).1 := by
  induction xs generalizing i with
  | nil => exact h
  | cons a t ih => exact ih (k i h a)

end Sys2Proof.Machine
end

