-- ==== Sys2Proof/Laws/EffectsCore.lean ====
section
/-! SUPPORT. What each operation may change, as the pieces of the state in `Changes`: memory, registers, events, links, halts. -/

namespace Sys2Proof.Machine

open Sys2Proof

set_option maxRecDepth 4000
set_option linter.all false

theorem State.setReg_ch {pl : List Piece} {s0 : State} {s : State} {a : Nat} {v : W64} (hc : Changes pl s0 s) (hl : subPieces [.regs] pl = true) :
    Changes pl s0 (State.setReg s a v) := by
  unfold State.setReg
  try dsimp only
  repeat' first
    | with_reducible exact hc
    | with_reducible assumption
    | split
    | ((with_reducible refine Changes.mk ?_ ?_); rotate_left; (intro x hx; cases x <;> first | exact (hx (mem_of_sub hl (by decide))).elim | (dsimp only [Piece.put]; done) | (dsimp only [Piece.put]; rfl)))

theorem State.wr_ch {pl : List Piece} {s0 : State} {s : State} {f : Fld} {i v : Nat} (hc : Changes pl s0 s) (hl : subPieces [.regs] pl = true) :
    Changes pl s0 (State.wr s f i v) := by
  unfold State.wr
  try dsimp only
  repeat' first
    | with_reducible exact hc
    | with_reducible assumption
    | with_reducible refine State.setReg_ch ?_ (sub_trans hl rfl)
    | split

theorem State.inc_ch {pl : List Piece} {s0 : State} {s : State} {f : Fld} {i n : Nat} (hc : Changes pl s0 s) (hl : subPieces [.regs] pl = true) :
    Changes pl s0 (State.inc s f i n) := by
  unfold State.inc
  try dsimp only
  repeat' first
    | with_reducible exact hc
    | with_reducible assumption
    | with_reducible refine State.wr_ch ?_ (sub_trans hl rfl)
    | split

theorem State.incSat_ch {pl : List Piece} {s0 : State} {s : State} {f : Fld} {i n : Nat} (hc : Changes pl s0 s) (hl : subPieces [.regs] pl = true) :
    Changes pl s0 (State.incSat s f i n) := by
  unfold State.incSat
  try dsimp only
  repeat' first
    | with_reducible exact hc
    | with_reducible assumption
    | with_reducible refine State.wr_ch ?_ (sub_trans hl rfl)
    | split

theorem State.wrs_ch {pl : List Piece} {s0 : State} {s : State} {i : Nat} {fs : List (Fld × Nat)} (hc : Changes pl s0 s) (hl : subPieces [.regs] pl = true) :
    Changes pl s0 (State.wrs s i fs) := by
  unfold State.wrs
  try dsimp only
  repeat' first
    | with_reducible exact hc
    | with_reducible assumption
    | with_reducible refine State.wr_ch ?_ (sub_trans hl rfl)
    | with_reducible refine Changes.foldl ?_ (fun _ _ _ => ?_)
    | with_reducible refine Changes.foldl_fst ?_ (fun _ _ _ => ?_)
    | split

theorem State.emit_ch {pl : List Piece} {s0 : State} {s : State} {o : Out} (hc : Changes pl s0 s) (hl : subPieces [.out] pl = true) :
    Changes pl s0 (State.emit s o) := by
  unfold State.emit
  try dsimp only
  repeat' first
    | with_reducible exact hc
    | with_reducible assumption
    | split
    | ((with_reducible refine Changes.mk ?_ ?_); rotate_left; (intro x hx; cases x <;> first | exact (hx (mem_of_sub hl (by decide))).elim | (dsimp only [Piece.put]; done) | (dsimp only [Piece.put]; rfl)))

theorem State.drawn_ch {pl : List Piece} {s0 : State} {s : State} (hc : Changes pl s0 s) (hl : subPieces [.free] pl = true) :
    Changes pl s0 (State.drawn s) := by
  unfold State.drawn
  try dsimp only
  repeat' first
    | with_reducible exact hc
    | with_reducible assumption
    | split
    | ((with_reducible refine Changes.mk ?_ ?_); rotate_left; (intro x hx; cases x <;> first | exact (hx (mem_of_sub hl (by decide))).elim | (dsimp only [Piece.put]; done) | (dsimp only [Piece.put]; rfl)))

theorem State.fire_ch {pl : List Piece} {s0 : State} {s : State} {fn vec : Nat} (hc : Changes pl s0 s) (hl : subPieces [.msixPend, .out] pl = true) :
    Changes pl s0 (State.fire s fn vec) := by
  unfold State.fire
  try dsimp only
  repeat' first
    | with_reducible exact hc
    | with_reducible assumption
    | with_reducible refine State.emit_ch ?_ (sub_trans hl rfl)
    | split
    | ((with_reducible refine Changes.mk ?_ ?_); rotate_left; (intro x hx; cases x <;> first | exact (hx (mem_of_sub hl (by decide))).elim | (dsimp only [Piece.put]; done) | (dsimp only [Piece.put]; rfl)))

theorem State.partEvent_ch {pl : List Piece} {s0 : State} {s : State} {b : Nat} (hc : Changes pl s0 s) (hl : subPieces [.regs, .msixPend, .out] pl = true) :
    Changes pl s0 (State.partEvent s b) := by
  unfold State.partEvent
  try dsimp only
  repeat' first
    | with_reducible exact hc
    | with_reducible assumption
    | with_reducible refine State.fire_ch ?_ (sub_trans hl rfl)
    | with_reducible refine State.wr_ch ?_ (sub_trans hl rfl)
    | split

theorem State.fnFlag_ch {pl : List Piece} {s0 : State} {s : State} {fn : Nat} {f : Fld} (hc : Changes pl s0 s) (hl : subPieces [.regs, .msixPend, .out] pl = true) :
    Changes pl s0 (State.fnFlag s fn f) := by
  unfold State.fnFlag
  try dsimp only
  repeat' first
    | with_reducible exact hc
    | with_reducible assumption
    | with_reducible refine State.fire_ch ?_ (sub_trans hl rfl)
    | with_reducible refine State.wr_ch ?_ (sub_trans hl rfl)
    | split

theorem State.classSeen_ch {pl : List Piece} {s0 : State} {s : State} {code : Nat} (hc : Changes pl s0 s) (hl : subPieces [.regs] pl = true) :
    Changes pl s0 (State.classSeen s code) := by
  unfold State.classSeen
  try dsimp only
  repeat' first
    | with_reducible exact hc
    | with_reducible assumption
    | with_reducible refine State.wr_ch ?_ (sub_trans hl rfl)
    | split

theorem State.logEvent_ch {pl : List Piece} {s0 : State} {s : State} {code : Nat} {part : Option Nat} {scrub : Bool} {l : Loc} {detail : Nat} (hc : Changes pl s0 s) (hl : subPieces [.regs, .msixPend, .log, .out] pl = true) :
    Changes pl s0 (State.logEvent s code part scrub l detail) := by
  unfold State.logEvent
  try dsimp only
  repeat' first
    | with_reducible exact hc
    | with_reducible assumption
    | with_reducible refine State.classSeen_ch ?_ (sub_trans hl rfl)
    | with_reducible refine State.partEvent_ch ?_ (sub_trans hl rfl)
    | with_reducible refine State.incSat_ch ?_ (sub_trans hl rfl)
    | with_reducible refine State.wr_ch ?_ (sub_trans hl rfl)
    | split
    | ((with_reducible refine Changes.mk ?_ ?_); rotate_left; (intro x hx; cases x <;> first | exact (hx (mem_of_sub hl (by decide))).elim | (dsimp only [Piece.put]; done) | (dsimp only [Piece.put]; rfl)))

theorem State.parityLog_ch {pl : List Piece} {s0 : State} {s : State} {p : Nat} {l : Loc} {hit : List Nat} (hc : Changes pl s0 s) (hl : subPieces [.regs, .msixPend, .log, .out] pl = true) :
    Changes pl s0 (State.parityLog s p l hit) := by
  unfold State.parityLog
  try dsimp only
  repeat' first
    | with_reducible exact hc
    | with_reducible assumption
    | with_reducible refine State.logEvent_ch ?_ (sub_trans hl rfl)
    | with_reducible refine Changes.foldl ?_ (fun _ _ _ => ?_)
    | with_reducible refine Changes.foldl_fst ?_ (fun _ _ _ => ?_)
    | split

theorem State.fault_ch {pl : List Piece} {s0 : State} {s : State} {code : Nat} {l : Loc} (hc : Changes pl s0 s) (hl : subPieces [.regs, .msixPend, .log, .out] pl = true) :
    Changes pl s0 (State.fault s code l) := by
  unfold State.fault
  try dsimp only
  repeat' first
    | with_reducible exact hc
    | with_reducible assumption
    | with_reducible refine State.logEvent_ch ?_ (sub_trans hl rfl)
    | split

theorem State.setQ_ch {pl : List Piece} {s0 : State} {s : State} {i : Nat} {f : Quarter → Quarter} (hc : Changes pl s0 s) (hl : subPieces [.quarters] pl = true) :
    Changes pl s0 (State.setQ s i f) := by
  unfold State.setQ
  try dsimp only
  repeat' first
    | with_reducible exact hc
    | with_reducible assumption
    | split
    | ((with_reducible refine Changes.mk ?_ ?_); rotate_left; (intro x hx; cases x <;> first | exact (hx (mem_of_sub hl (by decide))).elim | (dsimp only [Piece.put]; done) | (dsimp only [Piece.put]; rfl)))

theorem State.updPart_ch {pl : List Piece} {s0 : State} {s : State} {p : Nat} {f : Part → Part} (hc : Changes pl s0 s) (hl : subPieces [.parts] pl = true) :
    Changes pl s0 (State.updPart s p f) := by
  unfold State.updPart
  try dsimp only
  repeat' first
    | with_reducible exact hc
    | with_reducible assumption
    | split
    | ((with_reducible refine Changes.mk ?_ ?_); rotate_left; (intro x hx; cases x <;> first | exact (hx (mem_of_sub hl (by decide))).elim | (dsimp only [Piece.put]; done) | (dsimp only [Piece.put]; rfl)))

theorem State.vatRaw_ch {pl : List Piece} {s0 : State} {s : State} {a : Nat} {d : W256} {code : W16} (hc : Changes pl s0 s) (hl : subPieces [.vat, .vatCode] pl = true) :
    Changes pl s0 (State.vatRaw s a d code) := by
  unfold State.vatRaw
  try dsimp only
  repeat' first
    | with_reducible exact hc
    | with_reducible assumption
    | split
    | ((with_reducible refine Changes.mk ?_ ?_); rotate_left; (intro x hx; cases x <;> first | exact (hx (mem_of_sub hl (by decide))).elim | (dsimp only [Piece.put]; done) | (dsimp only [Piece.put]; rfl)))

theorem State.vatPut_ch {pl : List Piece} {s0 : State} {s : State} {a : Nat} {d : W256} {poison : Bool} (hc : Changes pl s0 s) (hl : subPieces [.vat, .vatCode] pl = true) :
    Changes pl s0 (State.vatPut s a d poison) := by
  unfold State.vatPut
  try dsimp only
  repeat' first
    | with_reducible exact hc
    | with_reducible assumption
    | with_reducible refine State.vatRaw_ch ?_ (sub_trans hl rfl)
    | split

theorem State.vatLog_ch {pl : List Piece} {s0 : State} {s : State} {a : Nat} {scrub : Bool} (hc : Changes pl s0 s) (hl : subPieces [.regs, .msixPend, .log, .out] pl = true) :
    Changes pl s0 (State.vatLog s a scrub) := by
  unfold State.vatLog
  try dsimp only
  repeat' first
    | with_reducible exact hc
    | with_reducible assumption
    | with_reducible refine State.logEvent_ch ?_ (sub_trans hl rfl)
    | with_reducible refine Changes.pick ?_ ?_ ?_
    | split

theorem State.vatClear_ch {pl : List Piece} {s0 : State} {s : State} {q : Nat} (hc : Changes pl s0 s) (hl : subPieces [.vat, .vatCode] pl = true) :
    Changes pl s0 (State.vatClear s q) := by
  unfold State.vatClear
  try dsimp only
  repeat' first
    | with_reducible exact hc
    | with_reducible assumption
    | split
    | ((with_reducible refine Changes.mk ?_ ?_); rotate_left; (intro x hx; cases x <;> first | exact (hx (mem_of_sub hl (by decide))).elim | (dsimp only [Piece.put]; done) | (dsimp only [Piece.put]; rfl)))

theorem State.quarterClear_ch {pl : List Piece} {s0 : State} {s : State} {q : Nat} (hc : Changes pl s0 s) (hl : subPieces [.vat, .vatCode, .press, .churn, .seqs] pl = true) :
    Changes pl s0 (State.quarterClear s q) := by
  unfold State.quarterClear
  try dsimp only
  repeat' first
    | with_reducible exact hc
    | with_reducible assumption
    | with_reducible refine State.vatClear_ch ?_ (sub_trans hl rfl)
    | split
    | ((with_reducible refine Changes.mk ?_ ?_); rotate_left; (intro x hx; cases x <;> first | exact (hx (mem_of_sub hl (by decide))).elim | (dsimp only [Piece.put]; done) | (dsimp only [Piece.put]; rfl)))

theorem State.edgeUse_ch {pl : List Piece} {s0 : State} {s : State} {cls n : Nat} (hc : Changes pl s0 s) (hl : subPieces [.regs, .free] pl = true) :
    Changes pl s0 (State.edgeUse s cls n) := by
  unfold State.edgeUse
  try dsimp only
  repeat' first
    | with_reducible exact hc
    | with_reducible assumption
    | with_reducible refine State.drawn_ch ?_ (sub_trans hl rfl)
    | with_reducible refine State.inc_ch ?_ (sub_trans hl rfl)
    | split

theorem State.stkRaw_ch {pl : List Piece} {s0 : State} {s : State} {a : Nat} {d : W256} {code : W16} (hc : Changes pl s0 s) (hl : subPieces [.stk, .stkCode] pl = true) :
    Changes pl s0 (State.stkRaw s a d code) := by
  unfold State.stkRaw
  try dsimp only
  repeat' first
    | with_reducible exact hc
    | with_reducible assumption
    | split
    | ((with_reducible refine Changes.mk ?_ ?_); rotate_left; (intro x hx; cases x <;> first | exact (hx (mem_of_sub hl (by decide))).elim | (dsimp only [Piece.put]; done) | (dsimp only [Piece.put]; rfl)))

theorem State.stkPut_ch {pl : List Piece} {s0 : State} {s : State} {a : Nat} {d : W256} {poison : Bool} (hc : Changes pl s0 s) (hl : subPieces [.stk, .stkCode, .held] pl = true) :
    Changes pl s0 (State.stkPut s a d poison) := by
  unfold State.stkPut
  try dsimp only
  repeat' first
    | with_reducible exact hc
    | with_reducible assumption
    | with_reducible refine State.stkRaw_ch ?_ (sub_trans hl rfl)
    | split
    | ((with_reducible refine Changes.mk ?_ ?_); rotate_left; (intro x hx; cases x <;> first | exact (hx (mem_of_sub hl (by decide))).elim | (dsimp only [Piece.put]; done) | (dsimp only [Piece.put]; rfl)))

theorem State.addFault_ch {pl : List Piece} {s0 : State} {s : State} {p k : Nat} (hc : Changes pl s0 s) (hl : subPieces [.parts] pl = true) :
    Changes pl s0 (State.addFault s p k) := by
  unfold State.addFault
  try dsimp only
  repeat' first
    | with_reducible exact hc
    | with_reducible assumption
    | with_reducible refine State.updPart_ch ?_ (sub_trans hl rfl)
    | split

theorem State.repaired_ch {pl : List Piece} {s0 : State} {s : State} {p : Nat} {ks : Nat → Bool} (hc : Changes pl s0 s) (hl : subPieces [.parts, .reqs] pl = true) :
    Changes pl s0 (State.repaired s p ks) := by
  unfold State.repaired
  try dsimp only
  repeat' first
    | with_reducible exact hc
    | with_reducible assumption
    | with_reducible refine State.updPart_ch ?_ (sub_trans hl rfl)
    | with_reducible refine Changes.foldl ?_ (fun _ _ _ => ?_)
    | with_reducible refine Changes.foldl_fst ?_ (fun _ _ _ => ?_)
    | split
    | ((with_reducible refine Changes.mk ?_ ?_); rotate_left; (intro x hx; cases x <;> first | exact (hx (mem_of_sub hl (by decide))).elim | (dsimp only [Piece.put]; done) | (dsimp only [Piece.put]; rfl)))

theorem State.noteRegion_ch {pl : List Piece} {s0 : State} {s : State} {a : Nat} (hc : Changes pl s0 s) (hl : subPieces [.regs, .parts] pl = true) :
    Changes pl s0 (State.noteRegion s a) := by
  unfold State.noteRegion
  try dsimp only
  repeat' first
    | with_reducible exact hc
    | with_reducible assumption
    | with_reducible refine State.addFault_ch ?_ (sub_trans hl rfl)
    | with_reducible refine State.wrs_ch ?_ (sub_trans hl rfl)
    | with_reducible refine State.wr_ch ?_ (sub_trans hl rfl)
    | with_reducible refine Changes.each ?_ (fun _ _ _ => ?_)
    | split

theorem State.trainLanes_ch {pl : List Piece} {s0 : State} {s : State} {lanes : List (Nat × Nat × Nat)} {k : Nat} (hc : Changes pl s0 s) (hl : subPieces [.regs] pl = true) :
    Changes pl s0 (State.trainLanes s lanes k).1 := by
  unfold State.trainLanes
  try dsimp only
  repeat' first
    | with_reducible exact hc
    | with_reducible assumption
    | with_reducible refine State.wr_ch ?_ (sub_trans hl rfl)
    | with_reducible refine Changes.foldl ?_ (fun _ _ _ => ?_)
    | with_reducible refine Changes.foldl_fst ?_ (fun _ _ _ => ?_)
    | split

theorem State.stkLog_ch {pl : List Piece} {s0 : State} {s : State} {a : Nat} {scrub : Bool} (hc : Changes pl s0 s) (hl : subPieces [.regs, .parts, .msixPend, .log, .out] pl = true) :
    Changes pl s0 (State.stkLog s a scrub) := by
  unfold State.stkLog
  try dsimp only
  repeat' first
    | with_reducible exact hc
    | with_reducible assumption
    | with_reducible refine State.noteRegion_ch ?_ (sub_trans hl rfl)
    | with_reducible refine State.logEvent_ch ?_ (sub_trans hl rfl)
    | with_reducible refine Changes.pick ?_ ?_ ?_
    | split

theorem State.stkReadLog_ch {pl : List Piece} {s0 : State} {s : State} {a : Nat} (hc : Changes pl s0 s) (hl : subPieces [.regs, .parts, .msixPend, .log, .out] pl = true) :
    Changes pl s0 (State.stkReadLog s a) := by
  unfold State.stkReadLog
  try dsimp only
  repeat' first
    | with_reducible exact hc
    | with_reducible assumption
    | with_reducible refine State.stkLog_ch ?_ (sub_trans hl rfl)
    | split

theorem State.putSum_ch {pl : List Piece} {s0 : State} {s : State} {half : Nat} {g : Region} {bank row v : Nat} (hc : Changes pl s0 s) (hl : subPieces [.stk, .stkCode] pl = true) :
    Changes pl s0 (State.putSum s half g bank row v) := by
  unfold State.putSum
  try dsimp only
  repeat' first
    | with_reducible exact hc
    | with_reducible assumption
    | with_reducible refine State.stkRaw_ch ?_ (sub_trans hl rfl)
    | split

theorem State.svcLand_ch {pl : List Piece} {s0 : State} {s : State} {a : Nat} {d : W256} {code : W16} (hc : Changes pl s0 s) (hl : subPieces [.stk, .stkCode, .wcb, .held] pl = true) :
    Changes pl s0 (State.svcLand s a d code) := by
  unfold State.svcLand
  try dsimp only
  repeat' first
    | with_reducible exact hc
    | with_reducible assumption
    | with_reducible refine State.stkRaw_ch ?_ (sub_trans hl rfl)
    | split
    | ((with_reducible refine Changes.mk ?_ ?_); rotate_left; (intro x hx; cases x <;> first | exact (hx (mem_of_sub hl (by decide))).elim | (dsimp only [Piece.put]; done) | (dsimp only [Piece.put]; rfl)))

theorem State.wcbLand_ch {pl : List Piece} {s0 : State} {s : State} {e : WcbEntry} (hc : Changes pl s0 s) (hl : subPieces [.regs, .stk, .stkCode, .wcb, .held, .parts, .msixPend, .log, .out] pl = true) :
    Changes pl s0 (State.wcbLand s e) := by
  unfold State.wcbLand
  try dsimp only
  repeat' first
    | with_reducible exact hc
    | with_reducible assumption
    | with_reducible refine State.stkLog_ch ?_ (sub_trans hl rfl)
    | with_reducible refine State.stkRaw_ch ?_ (sub_trans hl rfl)
    | split
    | ((with_reducible refine Changes.mk ?_ ?_); rotate_left; (intro x hx; cases x <;> first | exact (hx (mem_of_sub hl (by decide))).elim | (dsimp only [Piece.put]; done) | (dsimp only [Piece.put]; rfl)))

theorem State.wcbDrain_ch {pl : List Piece} {s0 : State} {s : State} {half : Nat} (hc : Changes pl s0 s) (hl : subPieces [.regs, .stk, .stkCode, .wcb, .held, .parts, .msixPend, .log, .out] pl = true) :
    Changes pl s0 (State.wcbDrain s half) := by
  unfold State.wcbDrain
  try dsimp only
  repeat' first
    | with_reducible exact hc
    | with_reducible assumption
    | with_reducible refine State.wcbLand_ch ?_ (sub_trans hl rfl)
    | with_reducible refine Changes.each ?_ (fun _ _ _ => ?_)
    | split

theorem State.wcbPut_ch {pl : List Piece} {s0 : State} {s : State} {a : Nat} {d : W256} {mask : Nat} (hc : Changes pl s0 s) (hl : subPieces [.regs, .stk, .stkCode, .wcb, .held, .parts, .msixPend, .log, .out] pl = true) :
    Changes pl s0 (State.wcbPut s a d mask) := by
  unfold State.wcbPut
  try dsimp only
  repeat' first
    | with_reducible exact hc
    | with_reducible assumption
    | with_reducible refine State.wcbLand_ch ?_ (sub_trans hl rfl)
    | split
    | ((with_reducible refine Changes.mk ?_ ?_); rotate_left; (intro x hx; cases x <;> first | exact (hx (mem_of_sub hl (by decide))).elim | (dsimp only [Piece.put]; done) | (dsimp only [Piece.put]; rfl)))

theorem State.hold_ch {pl : List Piece} {s0 : State} {s : State} {h : Held} (hc : Changes pl s0 s) (hl : subPieces [.wcb, .held] pl = true) :
    Changes pl s0 (State.hold s h) := by
  unfold State.hold
  try dsimp only
  repeat' first
    | with_reducible exact hc
    | with_reducible assumption
    | split
    | ((with_reducible refine Changes.mk ?_ ?_); rotate_left; (intro x hx; cases x <;> first | exact (hx (mem_of_sub hl (by decide))).elim | (dsimp only [Piece.put]; done) | (dsimp only [Piece.put]; rfl)))

theorem State.svcWrite_ch {pl : List Piece} {s0 : State} {s : State} {a : Nat} {d : W256} {poison : Bool} {mask : Nat} (hc : Changes pl s0 s) (hl : subPieces [.regs, .stk, .stkCode, .wcb, .held, .parts, .msixPend, .log, .out] pl = true) :
    Changes pl s0 (State.svcWrite s a d poison mask) := by
  unfold State.svcWrite
  try dsimp only
  repeat' first
    | with_reducible exact hc
    | with_reducible assumption
    | with_reducible refine State.hold_ch ?_ (sub_trans hl rfl)
    | with_reducible refine State.wcbPut_ch ?_ (sub_trans hl rfl)
    | with_reducible refine State.svcLand_ch ?_ (sub_trans hl rfl)
    | with_reducible refine State.stkRaw_ch ?_ (sub_trans hl rfl)
    | split

theorem State.svcPut_ch {pl : List Piece} {s0 : State} {s : State} {a : Nat} {d : W256} {poison : Bool} (hc : Changes pl s0 s) (hl : subPieces [.regs, .stk, .stkCode, .wcb, .held, .parts, .msixPend, .log, .out] pl = true) :
    Changes pl s0 (State.svcPut s a d poison) := by
  unfold State.svcPut
  try dsimp only
  repeat' first
    | with_reducible exact hc
    | with_reducible assumption
    | with_reducible refine State.svcWrite_ch ?_ (sub_trans hl rfl)
    | split

theorem State.putRow_ch {pl : List Piece} {s0 : State} {s : State} {half bank pail row : Nat} {g : Region} {ws : List (W256 × Bool)} (hc : Changes pl s0 s) (hl : subPieces [.regs, .stk, .stkCode, .wcb, .held, .parts, .msixPend, .log, .out] pl = true) :
    Changes pl s0 (State.putRow s half bank pail row g ws) := by
  unfold State.putRow
  try dsimp only
  repeat' first
    | with_reducible exact hc
    | with_reducible assumption
    | with_reducible refine State.svcPut_ch ?_ (sub_trans hl rfl)
    | with_reducible refine Changes.each ?_ (fun _ _ _ => ?_)
    | split

theorem State.startWake_ch {pl : List Piece} {s0 : State} {s : State} (hc : Changes pl s0 s) (hl : subPieces [.regs] pl = true) :
    Changes pl s0 (State.startWake s) := by
  unfold State.startWake
  try dsimp only
  repeat' first
    | with_reducible exact hc
    | with_reducible assumption
    | with_reducible refine State.wr_ch ?_ (sub_trans hl rfl)
    | split

theorem State.pcieWake_ch {pl : List Piece} {s0 : State} {s : State} (hc : Changes pl s0 s) (hl : subPieces [.regs] pl = true) :
    Changes pl s0 (State.pcieWake s) := by
  unfold State.pcieWake
  try dsimp only
  repeat' first
    | with_reducible exact hc
    | with_reducible assumption
    | with_reducible refine State.startWake_ch ?_ (sub_trans hl rfl)
    | split

theorem State.access_ch {pl : List Piece} {s0 : State} {s : State} {src : Src} {off size : Nat} {val : W64} {f : State → State} (hc : Changes pl s0 s) (hl : subPieces [.regs, .heldAccess] pl = true) (hf : ∀ s, Changes pl s0 s → Changes pl s0 (f s)) :
    Changes pl s0 (State.access s src off size val f) := by
  unfold State.access
  try dsimp only
  repeat' first
    | with_reducible exact hc
    | with_reducible assumption
    | with_reducible refine hf _ ?_
    | with_reducible refine State.startWake_ch ?_ (sub_trans hl rfl)
    | split
    | ((with_reducible refine Changes.mk ?_ ?_); rotate_left; (intro x hx; cases x <;> first | exact (hx (mem_of_sub hl (by decide))).elim | (dsimp only [Piece.put]; done) | (dsimp only [Piece.put]; rfl)))

theorem State.attestAsk_ch {pl : List Piece} {s0 : State} {s : State} {fn : Nat} {nonce : W256} (hc : Changes pl s0 s) (hl : subPieces [.regs, .boot] pl = true) :
    Changes pl s0 (State.attestAsk s fn nonce) := by
  unfold State.attestAsk
  try dsimp only
  repeat' first
    | with_reducible exact hc
    | with_reducible assumption
    | with_reducible refine State.wr_ch ?_ (sub_trans hl rfl)
    | split
    | ((with_reducible refine Changes.mk ?_ ?_); rotate_left; (intro x hx; cases x <;> first | exact (hx (mem_of_sub hl (by decide))).elim | (dsimp only [Piece.put]; done) | (dsimp only [Piece.put]; rfl)))

theorem State.attestServe_ch {pl : List Piece} {s0 : State} {s : State} (hc : Changes pl s0 s) (hl : subPieces [.regs, .boot, .out] pl = true) :
    Changes pl s0 (State.attestServe s) := by
  unfold State.attestServe
  try dsimp only
  repeat' first
    | with_reducible exact hc
    | with_reducible assumption
    | with_reducible refine State.emit_ch ?_ (sub_trans hl rfl)
    | with_reducible refine State.wrs_ch ?_ (sub_trans hl rfl)
    | split
    | ((with_reducible refine Changes.mk ?_ ?_); rotate_left; (intro x hx; cases x <;> first | exact (hx (mem_of_sub hl (by decide))).elim | (dsimp only [Piece.put]; done) | (dsimp only [Piece.put]; rfl)))

theorem State.pcmdBusy_ch {pl : List Piece} {s0 : State} {s : State} (hc : Changes pl s0 s) (hl : subPieces [.regs, .msixPend, .out] pl = true) :
    Changes pl s0 (State.pcmdBusy s) := by
  unfold State.pcmdBusy
  try dsimp only
  repeat' first
    | with_reducible exact hc
    | with_reducible assumption
    | with_reducible refine State.partEvent_ch ?_ (sub_trans hl rfl)
    | with_reducible refine State.wr_ch ?_ (sub_trans hl rfl)
    | split

theorem State.pcmdEnd_ch {pl : List Piece} {s0 : State} {s : State} {cause : Nat} (hc : Changes pl s0 s) (hl : subPieces [.regs, .pcmd, .msixPend, .out] pl = true) :
    Changes pl s0 (State.pcmdEnd s cause) := by
  unfold State.pcmdEnd
  try dsimp only
  repeat' first
    | with_reducible exact hc
    | with_reducible assumption
    | with_reducible refine State.partEvent_ch ?_ (sub_trans hl rfl)
    | with_reducible refine State.wrs_ch ?_ (sub_trans hl rfl)
    | with_reducible refine State.wr_ch ?_ (sub_trans hl rfl)
    | split
    | ((with_reducible refine Changes.mk ?_ ?_); rotate_left; (intro x hx; cases x <;> first | exact (hx (mem_of_sub hl (by decide))).elim | (dsimp only [Piece.put]; done) | (dsimp only [Piece.put]; rfl)))

theorem State.pcmdLost_ch {pl : List Piece} {s0 : State} {s : State} (hc : Changes pl s0 s) (hl : subPieces [.regs, .msixPend, .out] pl = true) :
    Changes pl s0 (State.pcmdLost s) := by
  unfold State.pcmdLost
  try dsimp only
  repeat' first
    | with_reducible exact hc
    | with_reducible assumption
    | with_reducible refine State.partEvent_ch ?_ (sub_trans hl rfl)
    | with_reducible refine State.wr_ch ?_ (sub_trans hl rfl)
    | split

theorem State.repairEnd_ch {pl : List Piece} {s0 : State} {s : State} {cause : Nat} (hc : Changes pl s0 s) (hl : subPieces [.regs, .repair] pl = true) :
    Changes pl s0 (State.repairEnd s cause) := by
  unfold State.repairEnd
  try dsimp only
  repeat' first
    | with_reducible exact hc
    | with_reducible assumption
    | with_reducible refine State.wrs_ch ?_ (sub_trans hl rfl)
    | split
    | ((with_reducible refine Changes.mk ?_ ?_); rotate_left; (intro x hx; cases x <;> first | exact (hx (mem_of_sub hl (by decide))).elim | (dsimp only [Piece.put]; done) | (dsimp only [Piece.put]; rfl)))

theorem State.repairStart_ch {pl : List Piece} {s0 : State} {s : State} {r : Repair} (hc : Changes pl s0 s) (hl : subPieces [.regs, .repair] pl = true) :
    Changes pl s0 (State.repairStart s r) := by
  unfold State.repairStart
  try dsimp only
  repeat' first
    | with_reducible exact hc
    | with_reducible assumption
    | with_reducible refine State.wr_ch ?_ (sub_trans hl rfl)
    | split
    | ((with_reducible refine Changes.mk ?_ ?_); rotate_left; (intro x hx; cases x <;> first | exact (hx (mem_of_sub hl (by decide))).elim | (dsimp only [Piece.put]; done) | (dsimp only [Piece.put]; rfl)))

theorem State.updateEnd_ch {pl : List Piece} {s0 : State} {s : State} {cause detail : Nat} (hc : Changes pl s0 s) (hl : subPieces [.regs] pl = true) :
    Changes pl s0 (State.updateEnd s cause detail) := by
  unfold State.updateEnd
  try dsimp only
  repeat' first
    | with_reducible exact hc
    | with_reducible assumption
    | with_reducible refine State.wrs_ch ?_ (sub_trans hl rfl)
    | split

theorem State.rmtEnd_ch {pl : List Piece} {s0 : State} {s : State} {cause : Nat} (hc : Changes pl s0 s) (hl : subPieces [.regs, .rmt] pl = true) :
    Changes pl s0 (State.rmtEnd s cause) := by
  unfold State.rmtEnd
  try dsimp only
  repeat' first
    | with_reducible exact hc
    | with_reducible assumption
    | with_reducible refine State.wrs_ch ?_ (sub_trans hl rfl)
    | split
    | ((with_reducible refine Changes.mk ?_ ?_); rotate_left; (intro x hx; cases x <;> first | exact (hx (mem_of_sub hl (by decide))).elim | (dsimp only [Piece.put]; done) | (dsimp only [Piece.put]; rfl)))

theorem State.refillEnd_ch {pl : List Piece} {s0 : State} {s : State} {err : Bool} (hc : Changes pl s0 s) (hl : subPieces [.regs, .refill] pl = true) :
    Changes pl s0 (State.refillEnd s err) := by
  unfold State.refillEnd
  try dsimp only
  repeat' first
    | with_reducible exact hc
    | with_reducible assumption
    | with_reducible refine State.wrs_ch ?_ (sub_trans hl rfl)
    | split
    | ((with_reducible refine Changes.mk ?_ ?_); rotate_left; (intro x hx; cases x <;> first | exact (hx (mem_of_sub hl (by decide))).elim | (dsimp only [Piece.put]; done) | (dsimp only [Piece.put]; rfl)))

theorem State.recConflict_ch {pl : List Piece} {s0 : State} {s : State} {p bank T portA portB : Nat} (hc : Changes pl s0 s) (hl : subPieces [.regs] pl = true) :
    Changes pl s0 (State.recConflict s p bank T portA portB) := by
  unfold State.recConflict
  try dsimp only
  repeat' first
    | with_reducible exact hc
    | with_reducible assumption
    | with_reducible refine State.wrs_ch ?_ (sub_trans hl rfl)
    | with_reducible refine State.wr_ch ?_ (sub_trans hl rfl)
    | split

theorem State.recPress_ch {pl : List Piece} {s0 : State} {s : State} {p cause unit T : Nat} (hc : Changes pl s0 s) (hl : subPieces [.regs] pl = true) :
    Changes pl s0 (State.recPress s p cause unit T) := by
  unfold State.recPress
  try dsimp only
  repeat' first
    | with_reducible exact hc
    | with_reducible assumption
    | with_reducible refine State.wrs_ch ?_ (sub_trans hl rfl)
    | with_reducible refine State.wr_ch ?_ (sub_trans hl rfl)
    | split

theorem State.recChurn_ch {pl : List Piece} {s0 : State} {s : State} {p cause half bank B : Nat} (hc : Changes pl s0 s) (hl : subPieces [.regs] pl = true) :
    Changes pl s0 (State.recChurn s p cause half bank B) := by
  unfold State.recChurn
  try dsimp only
  repeat' first
    | with_reducible exact hc
    | with_reducible assumption
    | with_reducible refine State.wrs_ch ?_ (sub_trans hl rfl)
    | with_reducible refine State.wr_ch ?_ (sub_trans hl rfl)
    | split

theorem State.recRowSum_ch {pl : List Piece} {s0 : State} {s : State} {p half bank pail : Nat} (hc : Changes pl s0 s) (hl : subPieces [.regs] pl = true) :
    Changes pl s0 (State.recRowSum s p half bank pail) := by
  unfold State.recRowSum
  try dsimp only
  repeat' first
    | with_reducible exact hc
    | with_reducible assumption
    | with_reducible refine State.wrs_ch ?_ (sub_trans hl rfl)
    | with_reducible refine State.wr_ch ?_ (sub_trans hl rfl)
    | split

theorem State.updPort_ch {pl : List Piece} {s0 : State} {s : State} {j : Nat} {f : Port → Port} (hc : Changes pl s0 s) (hl : subPieces [.ports] pl = true) :
    Changes pl s0 (State.updPort s j f) := by
  unfold State.updPort
  try dsimp only
  repeat' first
    | with_reducible exact hc
    | with_reducible assumption
    | split
    | ((with_reducible refine Changes.mk ?_ ?_); rotate_left; (intro x hx; cases x <;> first | exact (hx (mem_of_sub hl (by decide))).elim | (dsimp only [Piece.put]; done) | (dsimp only [Piece.put]; rfl)))

theorem State.setPortState_ch {pl : List Piece} {s0 : State} {s : State} {j st : Nat} (hc : Changes pl s0 s) (hl : subPieces [.regs, .ports] pl = true) :
    Changes pl s0 (State.setPortState s j st) := by
  unfold State.setPortState
  try dsimp only
  repeat' first
    | with_reducible exact hc
    | with_reducible assumption
    | with_reducible refine State.updPort_ch ?_ (sub_trans hl rfl)
    | with_reducible refine State.wr_ch ?_ (sub_trans hl rfl)
    | split

theorem State.egress_ch {pl : List Piece} {s0 : State} {s : State} {j : Nat} {c : LCell} (hc : Changes pl s0 s) (hl : subPieces [.ports] pl = true) :
    Changes pl s0 (State.egress s j c) := by
  unfold State.egress
  try dsimp only
  repeat' first
    | with_reducible exact hc
    | with_reducible assumption
    | with_reducible refine State.updPort_ch ?_ (sub_trans hl rfl)
    | split

theorem State.updWin_ch {pl : List Piece} {s0 : State} {s : State} {k : Nat} {f : Win → Win} (hc : Changes pl s0 s) (hl : subPieces [.wins] pl = true) :
    Changes pl s0 (State.updWin s k f) := by
  unfold State.updWin
  try dsimp only
  repeat' first
    | with_reducible exact hc
    | with_reducible assumption
    | split
    | ((with_reducible refine Changes.mk ?_ ?_); rotate_left; (intro x hx; cases x <;> first | exact (hx (mem_of_sub hl (by decide))).elim | (dsimp only [Piece.put]; done) | (dsimp only [Piece.put]; rfl)))

theorem State.closeWin_ch {pl : List Piece} {s0 : State} {s : State} {k : Nat} (hc : Changes pl s0 s) (hl : subPieces [.wins] pl = true) :
    Changes pl s0 (State.closeWin s k) := by
  unfold State.closeWin
  try dsimp only
  repeat' first
    | with_reducible exact hc
    | with_reducible assumption
    | with_reducible refine State.updWin_ch ?_ (sub_trans hl rfl)
    | split

theorem State.updGroup_ch {pl : List Piece} {s0 : State} {s : State} {p g : Nat} {f : Group → Group} (hc : Changes pl s0 s) (hl : subPieces [.groups] pl = true) :
    Changes pl s0 (State.updGroup s p g f) := by
  unfold State.updGroup
  try dsimp only
  repeat' first
    | with_reducible exact hc
    | with_reducible assumption
    | split
    | ((with_reducible refine Changes.mk ?_ ?_); rotate_left; (intro x hx; cases x <;> first | exact (hx (mem_of_sub hl (by decide))).elim | (dsimp only [Piece.put]; done) | (dsimp only [Piece.put]; rfl)))

theorem State.sendLinks_ch {pl : List Piece} {s0 : State} {s : State} {p g : Nat} {on_ : GLink → Bool} {c : LCell} (hc : Changes pl s0 s) (hl : subPieces [.ports] pl = true) :
    Changes pl s0 (State.sendLinks s p g on_ c) := by
  unfold State.sendLinks
  try dsimp only
  repeat' first
    | with_reducible exact hc
    | with_reducible assumption
    | with_reducible refine State.egress_ch ?_ (sub_trans hl rfl)
    | with_reducible refine Changes.each ?_ (fun _ _ _ => ?_)
    | split

theorem State.originate_ch {pl : List Piece} {s0 : State} {s : State} {p g kind kindFields w1 : Nat} {on_ : GLink → Bool} (hc : Changes pl s0 s) (hl : subPieces [.ports, .groups] pl = true) :
    Changes pl s0 (State.originate s p g kind kindFields w1 on_) := by
  unfold State.originate
  try dsimp only
  repeat' first
    | with_reducible exact hc
    | with_reducible assumption
    | with_reducible refine State.sendLinks_ch ?_ (sub_trans hl rfl)
    | with_reducible refine State.updGroup_ch ?_ (sub_trans hl rfl)
    | split

theorem State.markWithdrawn_ch {pl : List Piece} {s0 : State} {s : State} {p g cause origin : Nat} (hc : Changes pl s0 s) (hl : subPieces [.groups, .sendings] pl = true) :
    Changes pl s0 (State.markWithdrawn s p g cause origin) := by
  unfold State.markWithdrawn
  try dsimp only
  repeat' first
    | with_reducible exact hc
    | with_reducible assumption
    | with_reducible refine State.updGroup_ch ?_ (sub_trans hl rfl)
    | split
    | ((with_reducible refine Changes.mk ?_ ?_); rotate_left; (intro x hx; cases x <;> first | exact (hx (mem_of_sub hl (by decide))).elim | (dsimp only [Piece.put]; done) | (dsimp only [Piece.put]; rfl)))

theorem State.withdraw_ch {pl : List Piece} {s0 : State} {s : State} {p g cause : Nat} (hc : Changes pl s0 s) (hl : subPieces [.ports, .groups, .sendings] pl = true) :
    Changes pl s0 (State.withdraw s p g cause) := by
  unfold State.withdraw
  try dsimp only
  repeat' first
    | with_reducible exact hc
    | with_reducible assumption
    | with_reducible refine State.markWithdrawn_ch ?_ (sub_trans hl rfl)
    | with_reducible refine State.originate_ch ?_ (sub_trans hl rfl)
    | split

theorem State.withdrawAll_ch {pl : List Piece} {s0 : State} {s : State} {p cause : Nat} (hc : Changes pl s0 s) (hl : subPieces [.ports, .groups, .sendings] pl = true) :
    Changes pl s0 (State.withdrawAll s p cause) := by
  unfold State.withdrawAll
  try dsimp only
  repeat' first
    | with_reducible exact hc
    | with_reducible assumption
    | with_reducible refine State.withdraw_ch ?_ (sub_trans hl rfl)
    | with_reducible refine Changes.each ?_ (fun _ _ _ => ?_)
    | split

theorem State.noteLeft_ch {pl : List Piece} {s0 : State} {s : State} {j : Nat} {c : LCell} (hc : Changes pl s0 s) (hl : subPieces [.groups] pl = true) :
    Changes pl s0 (State.noteLeft s j c) := by
  unfold State.noteLeft
  try dsimp only
  repeat' first
    | with_reducible exact hc
    | with_reducible assumption
    | with_reducible refine Changes.foldl ?_ (fun _ _ _ => ?_)
    | with_reducible refine Changes.foldl_fst ?_ (fun _ _ _ => ?_)
    | split
    | ((with_reducible refine Changes.mk ?_ ?_); rotate_left; (intro x hx; cases x <;> first | exact (hx (mem_of_sub hl (by decide))).elim | (dsimp only [Piece.put]; done) | (dsimp only [Piece.put]; rfl)))

theorem State.pollClosing_ch {pl : List Piece} {s0 : State} {s : State} {p : Nat} (hc : Changes pl s0 s) (hl : subPieces [.wins] pl = true) :
    Changes pl s0 (State.pollClosing s p) := by
  unfold State.pollClosing
  try dsimp only
  repeat' first
    | with_reducible exact hc
    | with_reducible assumption
    | with_reducible refine State.closeWin_ch ?_ (sub_trans hl rfl)
    | with_reducible refine Changes.each ?_ (fun _ _ _ => ?_)
    | split

theorem State.closeAll_ch {pl : List Piece} {s0 : State} {s : State} {p : Nat} (hc : Changes pl s0 s) (hl : subPieces [.wins] pl = true) :
    Changes pl s0 (State.closeAll s p) := by
  unfold State.closeAll
  try dsimp only
  repeat' first
    | with_reducible exact hc
    | with_reducible assumption
    | with_reducible refine State.closeWin_ch ?_ (sub_trans hl rfl)
    | with_reducible refine Changes.each ?_ (fun _ _ _ => ?_)
    | split

theorem State.beginClosing_ch {pl : List Piece} {s0 : State} {s : State} {p : Nat} (hc : Changes pl s0 s) (hl : subPieces [.parts, .wins] pl = true) :
    Changes pl s0 (State.beginClosing s p) := by
  unfold State.beginClosing
  try dsimp only
  repeat' first
    | with_reducible exact hc
    | with_reducible assumption
    | with_reducible refine State.pollClosing_ch ?_ (sub_trans hl rfl)
    | with_reducible refine State.closeWin_ch ?_ (sub_trans hl rfl)
    | with_reducible refine State.updPart_ch ?_ (sub_trans hl rfl)
    | with_reducible refine Changes.each ?_ (fun _ _ _ => ?_)
    | split

theorem State.pollRmt_ch {pl : List Piece} {s0 : State} {s : State} (hc : Changes pl s0 s) (hl : subPieces [.regs, .rmt] pl = true) :
    Changes pl s0 (State.pollRmt s) := by
  unfold State.pollRmt
  try dsimp only
  repeat' first
    | with_reducible exact hc
    | with_reducible assumption
    | with_reducible refine State.rmtEnd_ch ?_ (sub_trans hl rfl)
    | split

theorem State.refetchEnd_ch {pl : List Piece} {s0 : State} {s : State} {r : Repair} {cause : Nat} (hc : Changes pl s0 s) (hl : subPieces [.regs, .msixPend, .wins, .log, .repair, .out] pl = true) :
    Changes pl s0 (State.refetchEnd s r cause) := by
  unfold State.refetchEnd
  try dsimp only
  repeat' first
    | with_reducible exact hc
    | with_reducible assumption
    | with_reducible refine State.updWin_ch ?_ (sub_trans hl rfl)
    | with_reducible refine State.repairEnd_ch ?_ (sub_trans hl rfl)
    | with_reducible refine State.logEvent_ch ?_ (sub_trans hl rfl)
    | split

theorem State.pollRefetch_ch {pl : List Piece} {s0 : State} {s : State} {j : Nat} (hc : Changes pl s0 s) (hl : subPieces [.regs, .msixPend, .wins, .log, .repair, .out] pl = true) :
    Changes pl s0 (State.pollRefetch s j) := by
  unfold State.pollRefetch
  try dsimp only
  repeat' first
    | with_reducible exact hc
    | with_reducible assumption
    | with_reducible refine State.refetchEnd_ch ?_ (sub_trans hl rfl)
    | split

theorem State.refetchLanded_ch {pl : List Piece} {s0 : State} {s : State} {k : Nat} {poison : Bool} (hc : Changes pl s0 s) (hl : subPieces [.regs, .msixPend, .wins, .log, .repair, .out] pl = true) :
    Changes pl s0 (State.refetchLanded s k poison) := by
  unfold State.refetchLanded
  try dsimp only
  repeat' first
    | with_reducible exact hc
    | with_reducible assumption
    | with_reducible refine State.refetchEnd_ch ?_ (sub_trans hl rfl)
    | split

theorem State.portDown_ch {pl : List Piece} {s0 : State} {s : State} {j st : Nat} (hc : Changes pl s0 s) (hl : subPieces [.regs, .msixPend, .rmt, .ports, .wins, .groups, .sendings, .log, .repair, .out] pl = true) :
    Changes pl s0 (State.portDown s j st) := by
  unfold State.portDown
  try dsimp only
  repeat' first
    | with_reducible exact hc
    | with_reducible assumption
    | with_reducible refine State.pollRefetch_ch ?_ (sub_trans hl rfl)
    | with_reducible refine State.pollRmt_ch ?_ (sub_trans hl rfl)
    | with_reducible refine State.pollClosing_ch ?_ (sub_trans hl rfl)
    | with_reducible refine State.withdraw_ch ?_ (sub_trans hl rfl)
    | with_reducible refine State.updPort_ch ?_ (sub_trans hl rfl)
    | with_reducible refine State.wrs_ch ?_ (sub_trans hl rfl)
    | with_reducible refine State.wr_ch ?_ (sub_trans hl rfl)
    | with_reducible refine Changes.each ?_ (fun _ _ _ => ?_)
    | split
    | ((with_reducible refine Changes.mk ?_ ?_); rotate_left; (intro x hx; cases x <;> first | exact (hx (mem_of_sub hl (by decide))).elim | (dsimp only [Piece.put]; done) | (dsimp only [Piece.put]; rfl)))

theorem State.setPState_ch {pl : List Piece} {s0 : State} {s : State} {p st : Nat} (hc : Changes pl s0 s) (hl : subPieces [.regs] pl = true) :
    Changes pl s0 (State.setPState s p st) := by
  unfold State.setPState
  try dsimp only
  repeat' first
    | with_reducible exact hc
    | with_reducible assumption
    | with_reducible refine State.wr_ch ?_ (sub_trans hl rfl)
    | split

theorem State.fenceNow_ch {pl : List Piece} {s0 : State} {s : State} {q : Nat} {p : Option Nat} (hc : Changes pl s0 s) (hl : subPieces [.regs, .quarters, .stk, .stkCode, .wcb, .held, .parts, .msixPend, .log, .out] pl = true) :
    Changes pl s0 (State.fenceNow s q p) := by
  unfold State.fenceNow
  try dsimp only
  repeat' first
    | with_reducible exact hc
    | with_reducible assumption
    | with_reducible refine State.wcbDrain_ch ?_ (sub_trans hl rfl)
    | with_reducible refine State.setQ_ch ?_ (sub_trans hl rfl)
    | with_reducible refine State.logEvent_ch ?_ (sub_trans hl rfl)
    | split

theorem State.dieOff_ch {pl : List Piece} {s0 : State} {s : State} {d : Nat} (hc : Changes pl s0 s) (hl : subPieces [.regs, .quarters, .dieFence, .msixPend, .rmt, .ports, .wins, .groups, .sendings, .log, .repair, .out] pl = true) :
    Changes pl s0 (State.dieOff s d) := by
  unfold State.dieOff
  try dsimp only
  repeat' first
    | with_reducible exact hc
    | with_reducible assumption
    | with_reducible refine State.portDown_ch ?_ (sub_trans hl rfl)
    | with_reducible refine State.setQ_ch ?_ (sub_trans hl rfl)
    | with_reducible refine State.wr_ch ?_ (sub_trans hl rfl)
    | with_reducible refine Changes.each ?_ (fun _ _ _ => ?_)
    | split
    | ((with_reducible refine Changes.mk ?_ ?_); rotate_left; (intro x hx; cases x <;> first | exact (hx (mem_of_sub hl (by decide))).elim | (dsimp only [Piece.put]; done) | (dsimp only [Piece.put]; rfl)))

theorem State.listAppend_ch {pl : List Piece} {s0 : State} {s : State} {op cmd arg : Nat} (hc : Changes pl s0 s) (hl : subPieces [.regs, .boot] pl = true) :
    Changes pl s0 (State.listAppend s op cmd arg) := by
  unfold State.listAppend
  try dsimp only
  repeat' first
    | with_reducible exact hc
    | with_reducible assumption
    | with_reducible refine State.wr_ch ?_ (sub_trans hl rfl)
    | split
    | ((with_reducible refine Changes.mk ?_ ?_); rotate_left; (intro x hx; cases x <;> first | exact (hx (mem_of_sub hl (by decide))).elim | (dsimp only [Piece.put]; done) | (dsimp only [Piece.put]; rfl)))

theorem State.pollRepair_ch {pl : List Piece} {s0 : State} {s : State} (hc : Changes pl s0 s) (hl : subPieces [.regs, .quarters, .dieFence, .stk, .stkCode, .wcb, .held, .parts, .msixPend, .rmt, .ports, .wins, .groups, .sendings, .log, .repair, .boot, .out] pl = true) :
    Changes pl s0 (State.pollRepair s) := by
  unfold State.pollRepair
  try dsimp only
  repeat' first
    | with_reducible exact hc
    | with_reducible assumption
    | with_reducible refine State.listAppend_ch ?_ (sub_trans hl rfl)
    | with_reducible refine State.dieOff_ch ?_ (sub_trans hl rfl)
    | with_reducible refine State.fenceNow_ch ?_ (sub_trans hl rfl)
    | with_reducible refine State.repairEnd_ch ?_ (sub_trans hl rfl)
    | with_reducible refine State.logEvent_ch ?_ (sub_trans hl rfl)
    | with_reducible refine Changes.each ?_ (fun _ _ _ => ?_)
    | split

theorem State.dropWork_ch {pl : List Piece} {s0 : State} {s : State} {p : Nat} (hc : Changes pl s0 s) (hl : subPieces [.work] pl = true) :
    Changes pl s0 (State.dropWork s p) := by
  unfold State.dropWork
  try dsimp only
  repeat' first
    | with_reducible exact hc
    | with_reducible assumption
    | split
    | ((with_reducible refine Changes.mk ?_ ?_); rotate_left; (intro x hx; cases x <;> first | exact (hx (mem_of_sub hl (by decide))).elim | (dsimp only [Piece.put]; done) | (dsimp only [Piece.put]; rfl)))

theorem State.landStores_ch {pl : List Piece} {s0 : State} {s : State} {p : Nat} (hc : Changes pl s0 s) (hl : subPieces [.vat, .vatCode, .burin] pl = true) :
    Changes pl s0 (State.landStores s p) := by
  unfold State.landStores
  try dsimp only
  repeat' first
    | with_reducible exact hc
    | with_reducible assumption
    | with_reducible refine State.vatPut_ch ?_ (sub_trans hl rfl)
    | with_reducible refine Changes.each ?_ (fun _ _ _ => ?_)
    | with_reducible refine Changes.foldl ?_ (fun _ _ _ => ?_)
    | with_reducible refine Changes.foldl_fst ?_ (fun _ _ _ => ?_)
    | split
    | ((with_reducible refine Changes.mk ?_ ?_); rotate_left; (intro x hx; cases x <;> first | exact (hx (mem_of_sub hl (by decide))).elim | (dsimp only [Piece.put]; done) | (dsimp only [Piece.put]; rfl)))

theorem State.releaseQuarters_ch {pl : List Piece} {s0 : State} {s : State} {p : Nat} (hc : Changes pl s0 s) (hl : subPieces [.regs, .quarters, .work, .burin, .seqs] pl = true) :
    Changes pl s0 (State.releaseQuarters s p) := by
  unfold State.releaseQuarters
  try dsimp only
  repeat' first
    | with_reducible exact hc
    | with_reducible assumption
    | with_reducible refine State.dropWork_ch ?_ (sub_trans hl rfl)
    | with_reducible refine State.setQ_ch ?_ (sub_trans hl rfl)
    | with_reducible refine State.wr_ch ?_ (sub_trans hl rfl)
    | with_reducible refine Changes.each ?_ (fun _ _ _ => ?_)
    | with_reducible refine Changes.foldl ?_ (fun _ _ _ => ?_)
    | with_reducible refine Changes.foldl_fst ?_ (fun _ _ _ => ?_)
    | split
    | ((with_reducible refine Changes.mk ?_ ?_); rotate_left; (intro x hx; cases x <;> first | exact (hx (mem_of_sub hl (by decide))).elim | (dsimp only [Piece.put]; done) | (dsimp only [Piece.put]; rfl)))

theorem State.pollStopCmd_ch {pl : List Piece} {s0 : State} {s : State} {p : Nat} (hc : Changes pl s0 s) (hl : subPieces [.regs, .pcmd, .msixPend, .out] pl = true) :
    Changes pl s0 (State.pollStopCmd s p) := by
  unfold State.pollStopCmd
  try dsimp only
  repeat' first
    | with_reducible exact hc
    | with_reducible assumption
    | with_reducible refine State.pcmdEnd_ch ?_ (sub_trans hl rfl)
    | split

theorem State.unloadPart_ch {pl : List Piece} {s0 : State} {s : State} {p : Nat} (hc : Changes pl s0 s) (hl : subPieces [.regs, .quarters, .dieFence, .work, .stk, .stkCode, .maps, .wcb, .held, .burin, .seqs, .parts, .pcmd, .msixPend, .rmt, .ports, .wins, .groups, .sendings, .log, .repair, .boot, .out] pl = true) :
    Changes pl s0 (State.unloadPart s p) := by
  unfold State.unloadPart
  try dsimp only
  repeat' first
    | with_reducible exact hc
    | with_reducible assumption
    | with_reducible refine State.pollStopCmd_ch ?_ (sub_trans hl rfl)
    | with_reducible refine State.releaseQuarters_ch ?_ (sub_trans hl rfl)
    | with_reducible refine State.pollRepair_ch ?_ (sub_trans hl rfl)
    | with_reducible refine State.setPState_ch ?_ (sub_trans hl rfl)
    | with_reducible refine State.updGroup_ch ?_ (sub_trans hl rfl)
    | with_reducible refine State.updWin_ch ?_ (sub_trans hl rfl)
    | with_reducible refine State.updPart_ch ?_ (sub_trans hl rfl)
    | with_reducible refine Changes.each ?_ (fun _ _ _ => ?_)
    | split
    | ((with_reducible refine Changes.mk ?_ ?_); rotate_left; (intro x hx; cases x <;> first | exact (hx (mem_of_sub hl (by decide))).elim | (dsimp only [Piece.put]; done) | (dsimp only [Piece.put]; rfl)))

theorem State.failPcmd_ch {pl : List Piece} {s0 : State} {s : State} {p : Nat} (hc : Changes pl s0 s) (hl : subPieces [.regs, .pcmd, .msixPend, .out] pl = true) :
    Changes pl s0 (State.failPcmd s p) := by
  unfold State.failPcmd
  try dsimp only
  repeat' first
    | with_reducible exact hc
    | with_reducible assumption
    | with_reducible refine State.pcmdEnd_ch ?_ (sub_trans hl rfl)
    | split

theorem State.keepStep_ch {pl : List Piece} {s0 : State} {s : State} {p : Nat} {clear : Bool} (hc : Changes pl s0 s) (hl : subPieces [.parts] pl = true) :
    Changes pl s0 (State.keepStep s p clear) := by
  unfold State.keepStep
  try dsimp only
  repeat' first
    | with_reducible exact hc
    | with_reducible assumption
    | with_reducible refine State.updPart_ch ?_ (sub_trans hl rfl)
    | split

theorem State.haltPart_ch {pl : List Piece} {s0 : State} {s : State} {p cause : Nat} (hc : Changes pl s0 s) (hl : subPieces [.regs, .quarters, .dieFence, .work, .stk, .stkCode, .maps, .wcb, .held, .burin, .seqs, .parts, .pcmd, .msixPend, .rmt, .ports, .wins, .groups, .sendings, .log, .repair, .boot, .out] pl = true) :
    Changes pl s0 (State.haltPart s p cause) := by
  unfold State.haltPart
  try dsimp only
  repeat' first
    | with_reducible exact hc
    | with_reducible assumption
    | with_reducible refine State.keepStep_ch ?_ (sub_trans hl rfl)
    | with_reducible refine State.failPcmd_ch ?_ (sub_trans hl rfl)
    | with_reducible refine State.unloadPart_ch ?_ (sub_trans hl rfl)
    | with_reducible refine State.withdrawAll_ch ?_ (sub_trans hl rfl)
    | with_reducible refine State.wr_ch ?_ (sub_trans hl rfl)
    | split

theorem State.haltWithdrawn_ch {pl : List Piece} {s0 : State} {s : State} {p cause : Nat} (hc : Changes pl s0 s) (hl : subPieces [.regs, .work, .parts, .pcmd, .msixPend, .ports, .wins, .groups, .sendings, .out] pl = true) :
    Changes pl s0 (State.haltWithdrawn s p cause) := by
  unfold State.haltWithdrawn
  try dsimp only
  repeat' first
    | with_reducible exact hc
    | with_reducible assumption
    | with_reducible refine State.keepStep_ch ?_ (sub_trans hl rfl)
    | with_reducible refine State.failPcmd_ch ?_ (sub_trans hl rfl)
    | with_reducible refine State.dropWork_ch ?_ (sub_trans hl rfl)
    | with_reducible refine State.setPState_ch ?_ (sub_trans hl rfl)
    | with_reducible refine State.beginClosing_ch ?_ (sub_trans hl rfl)
    | with_reducible refine State.withdrawAll_ch ?_ (sub_trans hl rfl)
    | with_reducible refine State.updPart_ch ?_ (sub_trans hl rfl)
    | with_reducible refine State.wr_ch ?_ (sub_trans hl rfl)
    | split

theorem State.takeStop_ch {pl : List Piece} {s0 : State} {s : State} {p bp off : Nat} {k : StopKind} (hc : Changes pl s0 s) (hl : subPieces [.regs, .vat, .vatCode, .work, .burin, .parts, .ports, .wins, .groups, .sendings] pl = true) :
    Changes pl s0 (State.takeStop s p bp off k) := by
  unfold State.takeStop
  try dsimp only
  repeat' first
    | with_reducible exact hc
    | with_reducible assumption
    | with_reducible refine State.landStores_ch ?_ (sub_trans hl rfl)
    | with_reducible refine State.dropWork_ch ?_ (sub_trans hl rfl)
    | with_reducible refine State.setPState_ch ?_ (sub_trans hl rfl)
    | with_reducible refine State.beginClosing_ch ?_ (sub_trans hl rfl)
    | with_reducible refine State.withdrawAll_ch ?_ (sub_trans hl rfl)
    | with_reducible refine State.updPart_ch ?_ (sub_trans hl rfl)
    | with_reducible refine State.wr_ch ?_ (sub_trans hl rfl)
    | split

theorem State.askStop_ch {pl : List Piece} {s0 : State} {s : State} {p : Nat} {k : StopKind} (hc : Changes pl s0 s) (hl : subPieces [.regs, .parts] pl = true) :
    Changes pl s0 (State.askStop s p k) := by
  unfold State.askStop
  try dsimp only
  repeat' first
    | with_reducible exact hc
    | with_reducible assumption
    | with_reducible refine State.setPState_ch ?_ (sub_trans hl rfl)
    | with_reducible refine State.updPart_ch ?_ (sub_trans hl rfl)
    | split

theorem State.finishUnload_ch {pl : List Piece} {s0 : State} {s : State} {p : Nat} (hc : Changes pl s0 s) (hl : subPieces [.regs, .quarters, .dieFence, .work, .stk, .stkCode, .maps, .wcb, .held, .burin, .seqs, .parts, .pcmd, .msixPend, .rmt, .ports, .wins, .groups, .sendings, .log, .repair, .boot, .out] pl = true) :
    Changes pl s0 (State.finishUnload s p) := by
  unfold State.finishUnload
  try dsimp only
  repeat' first
    | with_reducible exact hc
    | with_reducible assumption
    | with_reducible refine State.unloadPart_ch ?_ (sub_trans hl rfl)
    | split

theorem State.plan_ch {pl : List Piece} {s0 : State} {s : State} {p : Nat} {evs : List (Nat × Act)} (hc : Changes pl s0 s) (hl : subPieces [.work] pl = true) :
    Changes pl s0 (State.plan s p evs) := by
  unfold State.plan
  try dsimp only
  repeat' first
    | with_reducible exact hc
    | with_reducible assumption
    | split
    | ((with_reducible refine Changes.mk ?_ ?_); rotate_left; (intro x hx; cases x <;> first | exact (hx (mem_of_sub hl (by decide))).elim | (dsimp only [Piece.put]; done) | (dsimp only [Piece.put]; rfl)))

end Sys2Proof.Machine
end

