-- ==== Sys2Proof/Laws/EffectsPlates.lean ====
section
/-! SUPPORT. What each operation may change, as the pieces of the state in `Changes`: the plates, their engines and their work. -/

namespace Sys2Proof.Machine

open Sys2Proof

set_option maxRecDepth 4000
set_option linter.all false

theorem State.updPress_ch {pl : List Piece} {s0 : State} {s : State} {e : Nat} {f : PressEng → PressEng} (hc : Changes pl s0 s) (hl : subPieces [.press] pl = true) :
    Changes pl s0 (State.updPress s e f) := by
  unfold State.updPress
  try dsimp only
  repeat' first
    | with_reducible exact hc
    | with_reducible assumption
    | split
    | ((with_reducible refine Changes.mk ?_ ?_); rotate_left; (intro x hx; cases x <;> first | exact (hx (mem_of_sub hl (by decide))).elim | (dsimp only [Piece.put]; done) | (dsimp only [Piece.put]; rfl)))

theorem State.loadSlots_ch {pl : List Piece} {s0 : State} {s : State} {c : PressCtx} {T : Nat} {got : Words} {new : List Nat} {first done : Bool} (hc : Changes pl s0 s) (hl : subPieces [.press] pl = true) :
    Changes pl s0 (State.loadSlots s c T got new first done) := by
  unfold State.loadSlots
  try dsimp only
  repeat' first
    | with_reducible exact hc
    | with_reducible assumption
    | with_reducible refine State.updPress_ch ?_ (sub_trans hl rfl)
    | with_reducible refine Changes.foldl ?_ (fun _ _ _ => ?_)
    | with_reducible refine Changes.foldl_fst ?_ (fun _ _ _ => ?_)
    | split

theorem State.loadStep_ch {pl : List Piece} {s0 : State} {s : State} {p : Nat} {w : Words4} {T : Nat} {rest : List (Nat × Nat)} {got : Words} {blocked : List Nat} (hc : Changes pl s0 s) (hl : subPieces [.regs, .work, .press, .msixPend, .log, .out] pl = true) :
    Changes pl s0 (State.loadStep s p w T rest got blocked).1 := by
  unfold State.loadStep
  try dsimp only
  repeat' first
    | with_reducible exact hc
    | with_reducible assumption
    | with_reducible refine State.loadSlots_ch ?_ (sub_trans hl rfl)
    | with_reducible refine State.plan_ch ?_ (sub_trans hl rfl)
    | with_reducible refine State.vatLog_ch ?_ (sub_trans hl rfl)
    | with_reducible refine Changes.each ?_ (fun _ _ _ => ?_)
    | with_reducible refine Changes.foldl ?_ (fun _ _ _ => ?_)
    | with_reducible refine Changes.foldl_fst ?_ (fun _ _ _ => ?_)
    | split

theorem State.pressParity_ch {pl : List Piece} {s0 : State} {s : State} {p eng row n : Nat} (hc : Changes pl s0 s) (hl : subPieces [.regs, .press, .msixPend, .log, .out] pl = true) :
    Changes pl s0 (State.pressParity s p eng row n) := by
  unfold State.pressParity
  try dsimp only
  repeat' first
    | with_reducible exact hc
    | with_reducible assumption
    | with_reducible refine State.updPress_ch ?_ (sub_trans hl rfl)
    | with_reducible refine State.parityLog_ch ?_ (sub_trans hl rfl)
    | with_reducible refine Changes.foldl ?_ (fun _ _ _ => ?_)
    | with_reducible refine Changes.foldl_fst ?_ (fun _ _ _ => ?_)
    | split

theorem State.passStep_ch {pl : List Piece} {s0 : State} {s : State} {p : Nat} {w : Words4} {T i : Nat} (hc : Changes pl s0 s) (hl : subPieces [.regs, .work, .press, .msixPend, .log, .out] pl = true) :
    Changes pl s0 (State.passStep s p w T i).1 := by
  unfold State.passStep
  try dsimp only
  repeat' first
    | with_reducible exact hc
    | with_reducible assumption
    | with_reducible refine State.pressParity_ch ?_ (sub_trans hl rfl)
    | with_reducible refine State.updPress_ch ?_ (sub_trans hl rfl)
    | with_reducible refine State.plan_ch ?_ (sub_trans hl rfl)
    | split

theorem State.drainStep_ch {pl : List Piece} {s0 : State} {s : State} {p : Nat} {w : Words4} {T r : Nat} {ts blocked : List Nat} (hc : Changes pl s0 s) (hl : subPieces [.regs, .vat, .vatCode, .work, .press, .msixPend, .log, .out] pl = true) :
    Changes pl s0 (State.drainStep s p w T r ts blocked).1 := by
  unfold State.drainStep
  try dsimp only
  repeat' first
    | with_reducible exact hc
    | with_reducible assumption
    | with_reducible refine State.pressParity_ch ?_ (sub_trans hl rfl)
    | with_reducible refine State.plan_ch ?_ (sub_trans hl rfl)
    | with_reducible refine State.vatPut_ch ?_ (sub_trans hl rfl)
    | with_reducible refine State.inc_ch ?_ (sub_trans hl rfl)
    | with_reducible refine Changes.each ?_ (fun _ _ _ => ?_)
    | split

theorem State.fillStep_ch {pl : List Piece} {s0 : State} {s : State} {p : Nat} {w : Words4} {t0 T r : Nat} {ts blocked : List Nat} (hc : Changes pl s0 s) (hl : subPieces [.regs, .work, .press, .msixPend, .log, .out] pl = true) :
    Changes pl s0 (State.fillStep s p w t0 T r ts blocked).1 := by
  unfold State.fillStep
  try dsimp only
  repeat' first
    | with_reducible exact hc
    | with_reducible assumption
    | with_reducible refine State.updPress_ch ?_ (sub_trans hl rfl)
    | with_reducible refine State.plan_ch ?_ (sub_trans hl rfl)
    | with_reducible refine State.vatLog_ch ?_ (sub_trans hl rfl)
    | with_reducible refine Changes.each ?_ (fun _ _ _ => ?_)
    | with_reducible refine Changes.foldl ?_ (fun _ _ _ => ?_)
    | with_reducible refine Changes.foldl_fst ?_ (fun _ _ _ => ?_)
    | split

theorem State.updChurn_ch {pl : List Piece} {s0 : State} {s : State} {half bank : Nat} {f : Churn → Churn} (hc : Changes pl s0 s) (hl : subPieces [.churn] pl = true) :
    Changes pl s0 (State.updChurn s half bank f) := by
  unfold State.updChurn
  try dsimp only
  repeat' first
    | with_reducible exact hc
    | with_reducible assumption
    | split
    | ((with_reducible refine Changes.mk ?_ ?_); rotate_left; (intro x hx; cases x <;> first | exact (hx (mem_of_sub hl (by decide))).elim | (dsimp only [Piece.put]; done) | (dsimp only [Piece.put]; rfl)))

theorem State.updSeq_ch {pl : List Piece} {s0 : State} {s : State} {half : Nat} {f : Seq → Seq} (hc : Changes pl s0 s) (hl : subPieces [.seqs] pl = true) :
    Changes pl s0 (State.updSeq s half f) := by
  unfold State.updSeq
  try dsimp only
  repeat' first
    | with_reducible exact hc
    | with_reducible assumption
    | split
    | ((with_reducible refine Changes.mk ?_ ?_); rotate_left; (intro x hx; cases x <;> first | exact (hx (mem_of_sub hl (by decide))).elim | (dsimp only [Piece.put]; done) | (dsimp only [Piece.put]; rfl)))

theorem State.churnParity_ch {pl : List Piece} {s0 : State} {s : State} {p half : Nat} {c : ChurnCmd} {bank : Nat} (hc : Changes pl s0 s) (hl : subPieces [.regs, .churn, .msixPend, .log, .out] pl = true) :
    Changes pl s0 (State.churnParity s p half c bank) := by
  unfold State.churnParity
  try dsimp only
  repeat' first
    | with_reducible exact hc
    | with_reducible assumption
    | with_reducible refine State.updChurn_ch ?_ (sub_trans hl rfl)
    | with_reducible refine State.parityLog_ch ?_ (sub_trans hl rfl)
    | split

theorem State.addFlight_ch {pl : List Piece} {s0 : State} {s : State} {x : ChurnCtx} {banks : List Nat} {reads : Nat} (hc : Changes pl s0 s) (hl : subPieces [.seqs] pl = true) :
    Changes pl s0 (State.addFlight s x banks reads) := by
  unfold State.addFlight
  try dsimp only
  repeat' first
    | with_reducible exact hc
    | with_reducible assumption
    | with_reducible refine State.updSeq_ch ?_ (sub_trans hl rfl)
    | with_reducible refine Changes.foldl ?_ (fun _ _ _ => ?_)
    | with_reducible refine Changes.foldl_fst ?_ (fun _ _ _ => ?_)
    | split

theorem State.onChurns_ch {pl : List Piece} {s0 : State} {s : State} {half : Nat} {banks : List Nat} {f : Nat → Churn → Churn} (hc : Changes pl s0 s) (hl : subPieces [.churn] pl = true) :
    Changes pl s0 (State.onChurns s half banks f) := by
  unfold State.onChurns
  try dsimp only
  repeat' first
    | with_reducible exact hc
    | with_reducible assumption
    | with_reducible refine State.updChurn_ch ?_ (sub_trans hl rfl)
    | with_reducible refine Changes.each ?_ (fun _ _ _ => ?_)
    | split

theorem State.plainChurn_ch {pl : List Piece} {s0 : State} {s : State} {x : ChurnCtx} {f : State → List Nat → State} (hc : Changes pl s0 s) (hl : subPieces [.seqs] pl = true) (hf : ∀ s, Changes pl s0 s → ∀ x0, Changes pl s0 (f s x0)) :
    Changes pl s0 (State.plainChurn s x f).1 := by
  unfold State.plainChurn
  try dsimp only
  repeat' first
    | with_reducible exact hc
    | with_reducible assumption
    | with_reducible refine hf _ ?_ _
    | with_reducible refine State.addFlight_ch ?_ (sub_trans hl rfl)
    | split

theorem State.xloadStep_ch {pl : List Piece} {s0 : State} {s : State} {p : Nat} {d : Words4} {B i : Nat} (hc : Changes pl s0 s) (hl : subPieces [.work, .churn, .seqs] pl = true) :
    Changes pl s0 (State.xloadStep s p d B i).1 := by
  unfold State.xloadStep
  try dsimp only
  repeat' first
    | with_reducible exact hc
    | with_reducible assumption
    | with_reducible refine State.plainChurn_ch ?_ (sub_trans hl rfl) (fun _ _ _ => ?_)
    | with_reducible refine State.onChurns_ch ?_ (sub_trans hl rfl)
    | with_reducible refine State.updSeq_ch ?_ (sub_trans hl rfl)
    | with_reducible refine State.plan_ch ?_ (sub_trans hl rfl)
    | with_reducible refine Changes.foldl ?_ (fun _ _ _ => ?_)
    | with_reducible refine Changes.foldl_fst ?_ (fun _ _ _ => ?_)
    | split

theorem State.sendUp_ch {pl : List Piece} {s0 : State} {s : State} {half t0 : Nat} {ws : List ((W256 × Bool) × List (Nat × Nat))} (hc : Changes pl s0 s) (hl : subPieces [.seqs] pl = true) :
    Changes pl s0 (State.sendUp s half t0 ws) := by
  unfold State.sendUp
  try dsimp only
  repeat' first
    | with_reducible exact hc
    | with_reducible assumption
    | with_reducible refine State.updSeq_ch ?_ (sub_trans hl rfl)
    | split

theorem State.churnAccOut_ch {pl : List Piece} {s0 : State} {s : State} {p : Nat} {x : ChurnCtx} (hc : Changes pl s0 s) (hl : subPieces [.regs, .churn, .seqs, .msixPend, .log, .out] pl = true) :
    Changes pl s0 (State.churnAccOut s p x).1 := by
  unfold State.churnAccOut
  try dsimp only
  repeat' first
    | with_reducible exact hc
    | with_reducible assumption
    | with_reducible refine State.sendUp_ch ?_ (sub_trans hl rfl)
    | with_reducible refine State.plainChurn_ch ?_ (sub_trans hl rfl) (fun _ _ _ => ?_)
    | with_reducible refine State.churnParity_ch ?_ (sub_trans hl rfl)
    | with_reducible refine Changes.each ?_ (fun _ _ _ => ?_)
    | split

theorem State.churnSumOut_ch {pl : List Piece} {s0 : State} {s : State} {x : ChurnCtx} (hc : Changes pl s0 s) (hl : subPieces [.churn, .seqs] pl = true) :
    Changes pl s0 (State.churnSumOut s x).1 := by
  unfold State.churnSumOut
  try dsimp only
  repeat' first
    | with_reducible exact hc
    | with_reducible assumption
    | with_reducible refine State.sendUp_ch ?_ (sub_trans hl rfl)
    | with_reducible refine State.plainChurn_ch ?_ (sub_trans hl rfl) (fun _ _ _ => ?_)
    | with_reducible refine State.onChurns_ch ?_ (sub_trans hl rfl)
    | split

theorem State.churnLanes_ch {pl : List Piece} {s0 : State} {s : State} {p : Nat} {x : ChurnCtx} {f : ChurnCmd → Churn → Churn} (hc : Changes pl s0 s) (hl : subPieces [.regs, .churn, .seqs, .msixPend, .log, .out] pl = true) :
    Changes pl s0 (State.churnLanes s p x f).1 := by
  unfold State.churnLanes
  try dsimp only
  repeat' first
    | with_reducible exact hc
    | with_reducible assumption
    | with_reducible refine State.plainChurn_ch ?_ (sub_trans hl rfl) (fun _ _ _ => ?_)
    | with_reducible refine State.onChurns_ch ?_ (sub_trans hl rfl)
    | with_reducible refine State.churnParity_ch ?_ (sub_trans hl rfl)
    | with_reducible refine Changes.each ?_ (fun _ _ _ => ?_)
    | split

theorem State.churnPlain_ch {pl : List Piece} {s0 : State} {s : State} {p : Nat} {x : ChurnCtx} (hc : Changes pl s0 s) (hl : subPieces [.regs, .churn, .seqs, .msixPend, .log, .out] pl = true) :
    Changes pl s0 (State.churnPlain s p x).1 := by
  unfold State.churnPlain
  try dsimp only
  repeat' first
    | with_reducible exact hc
    | with_reducible assumption
    | with_reducible refine State.churnLanes_ch ?_ (sub_trans hl rfl)
    | with_reducible refine State.churnSumOut_ch ?_ (sub_trans hl rfl)
    | with_reducible refine State.churnAccOut_ch ?_ (sub_trans hl rfl)
    | split

theorem State.streamRow_ch {pl : List Piece} {s0 : State} {s : State} {p : Nat} {x : ChurnCtx} {bank k : Nat} {r : Nat × Nat} (hc : Changes pl s0 s) (hl : subPieces [.regs, .churn, .msixPend, .log, .out] pl = true) :
    Changes pl s0 (State.streamRow s p x bank k r) := by
  unfold State.streamRow
  try dsimp only
  repeat' first
    | with_reducible exact hc
    | with_reducible assumption
    | with_reducible refine State.churnParity_ch ?_ (sub_trans hl rfl)
    | with_reducible refine State.updChurn_ch ?_ (sub_trans hl rfl)
    | split

theorem State.nextRow_ch {pl : List Piece} {s0 : State} {s : State} {p : Nat} {d : Words4} {x : ChurnCtx} {k : Nat} {place : Option (Nat × Nat × Nat)} (hc : Changes pl s0 s) (hl : subPieces [.work] pl = true) :
    Changes pl s0 (State.nextRow s p d x k place) := by
  unfold State.nextRow
  try dsimp only
  repeat' first
    | with_reducible exact hc
    | with_reducible assumption
    | with_reducible refine State.plan_ch ?_ (sub_trans hl rfl)
    | split

theorem State.streamDirect_ch {pl : List Piece} {s0 : State} {s : State} {p : Nat} {d : Words4} {x : ChurnCtx} {k : Nat} (hc : Changes pl s0 s) (hl : subPieces [.regs, .work, .churn, .seqs, .msixPend, .log, .out] pl = true) :
    Changes pl s0 (State.streamDirect s p d x k).1 := by
  unfold State.streamDirect
  try dsimp only
  repeat' first
    | with_reducible exact hc
    | with_reducible assumption
    | with_reducible refine State.nextRow_ch ?_ (sub_trans hl rfl)
    | with_reducible refine State.streamRow_ch ?_ (sub_trans hl rfl)
    | with_reducible refine State.addFlight_ch ?_ (sub_trans hl rfl)
    | with_reducible refine Changes.each ?_ (fun _ _ _ => ?_)
    | split

theorem State.entryFault_ch {pl : List Piece} {s0 : State} {s : State} {p half bank : Nat} (hc : Changes pl s0 s) (hl : subPieces [.regs, .parts, .msixPend, .log, .out] pl = true) :
    Changes pl s0 (State.entryFault s p half bank) := by
  unfold State.entryFault
  try dsimp only
  repeat' first
    | with_reducible exact hc
    | with_reducible assumption
    | with_reducible refine State.updPart_ch ?_ (sub_trans hl rfl)
    | with_reducible refine State.logEvent_ch ?_ (sub_trans hl rfl)
    | split

theorem State.streamIndirect_ch {pl : List Piece} {s0 : State} {s : State} {p : Nat} {d : Words4} {x : ChurnCtx} (hc : Changes pl s0 s) (hl : subPieces [.regs, .work, .churn, .seqs, .parts, .msixPend, .log, .out] pl = true) :
    Changes pl s0 (State.streamIndirect s p d x).1 := by
  unfold State.streamIndirect
  try dsimp only
  repeat' first
    | with_reducible exact hc
    | with_reducible assumption
    | with_reducible refine State.entryFault_ch ?_ (sub_trans hl rfl)
    | with_reducible refine State.nextRow_ch ?_ (sub_trans hl rfl)
    | with_reducible refine State.streamRow_ch ?_ (sub_trans hl rfl)
    | with_reducible refine State.addFlight_ch ?_ (sub_trans hl rfl)
    | with_reducible refine State.updSeq_ch ?_ (sub_trans hl rfl)
    | with_reducible refine State.updChurn_ch ?_ (sub_trans hl rfl)
    | split

theorem State.streamStep_ch {pl : List Piece} {s0 : State} {s : State} {p : Nat} {d : Words4} {B k : Nat} {place : Option (Nat × Nat × Nat)} (hc : Changes pl s0 s) (hl : subPieces [.regs, .work, .churn, .seqs, .parts, .msixPend, .log, .out] pl = true) :
    Changes pl s0 (State.streamStep s p d B k place).1 := by
  unfold State.streamStep
  try dsimp only
  repeat' first
    | with_reducible exact hc
    | with_reducible assumption
    | with_reducible refine State.streamIndirect_ch ?_ (sub_trans hl rfl)
    | with_reducible refine State.streamDirect_ch ?_ (sub_trans hl rfl)
    | with_reducible refine State.nextRow_ch ?_ (sub_trans hl rfl)
    | with_reducible refine State.streamRow_ch ?_ (sub_trans hl rfl)
    | split

theorem KState.upd_ch {pl : List Piece} {s0 : State} {k : KState} {f : Core → Core} (hc : Changes pl s0 k.s) (hl : subPieces [.burin] pl = true) :
    Changes pl s0 (KState.upd k f).s := by
  unfold KState.upd
  try dsimp only
  repeat' first
    | with_reducible exact hc
    | with_reducible assumption
    | split
    | ((with_reducible refine Changes.mk ?_ ?_); rotate_left; (intro x hx; cases x <;> first | exact (hx (mem_of_sub hl (by decide))).elim | (dsimp only [Piece.put]; done) | (dsimp only [Piece.put]; rfl)))

theorem KState.updCall_ch {pl : List Piece} {s0 : State} {k : KState} {f : Call → Call} (hc : Changes pl s0 k.s) (hl : subPieces [.burin] pl = true) :
    Changes pl s0 (KState.updCall k f).s := by
  unfold KState.updCall
  try dsimp only
  repeat' first
    | with_reducible exact hc
    | with_reducible assumption
    | with_reducible refine KState.upd_ch ?_ (sub_trans hl rfl)
    | split

theorem KState.plan_ch {pl : List Piece} {s0 : State} {k : KState} {t : Nat} {a : Act} (hc : Changes pl s0 k.s) (hl : subPieces [.work] pl = true) :
    Changes pl s0 (KState.plan k t a).s := by
  unfold KState.plan
  try dsimp only
  repeat' first
    | with_reducible exact hc
    | with_reducible assumption
    | with_reducible refine State.plan_ch ?_ (sub_trans hl rfl)
    | split

theorem KState.taintIf_ch {pl : List Piece} {s0 : State} {k : KState} {x : Bool} (hc : Changes pl s0 k.s) (hl : subPieces [.burin] pl = true) :
    Changes pl s0 (KState.taintIf k x).s := by
  unfold KState.taintIf
  try dsimp only
  repeat' first
    | with_reducible exact hc
    | with_reducible assumption
    | with_reducible refine KState.upd_ch ?_ (sub_trans hl rfl)
    | split

theorem KState.parity_ch {pl : List Piece} {s0 : State} {k : KState} {op : KOp} (hc : Changes pl s0 k.s) (hl : subPieces [.regs, .burin, .msixPend, .log, .out] pl = true) :
    Changes pl s0 (KState.parity k op).s := by
  unfold KState.parity
  try dsimp only
  repeat' first
    | with_reducible exact hc
    | with_reducible assumption
    | with_reducible refine KState.upd_ch ?_ (sub_trans hl rfl)
    | with_reducible refine State.parityLog_ch ?_ (sub_trans hl rfl)
    | with_reducible refine Changes.foldl ?_ (fun _ _ _ => ?_)
    | with_reducible refine Changes.foldl_fst ?_ (fun _ _ _ => ?_)
    | split

theorem KState.rangeFault_ch {pl : List Piece} {s0 : State} {k : KState} (hc : Changes pl s0 k.s) (hl : subPieces [.regs, .msixPend, .log, .out] pl = true) :
    Changes pl s0 (KState.rangeFault k).s := by
  unfold KState.rangeFault
  try dsimp only
  repeat' first
    | with_reducible exact hc
    | with_reducible assumption
    | with_reducible refine State.logEvent_ch ?_ (sub_trans hl rfl)
    | split

theorem State.localLog_ch {pl : List Piece} {s0 : State} {s : State} {p b : Nat} {r : EccResult} (hc : Changes pl s0 s) (hl : subPieces [.regs, .msixPend, .log, .out] pl = true) :
    Changes pl s0 (State.localLog s p b r) := by
  unfold State.localLog
  try dsimp only
  repeat' first
    | with_reducible exact hc
    | with_reducible assumption
    | with_reducible refine State.logEvent_ch ?_ (sub_trans hl rfl)
    | split

theorem KState.foldl_ch {pl : List Piece} {s0 : State} {α : Type} {f : KState → α → KState} {xs : List α} {k : KState}
    (hc : Changes pl s0 k.s) (hf : ∀ k, Changes pl s0 k.s → ∀ a, Changes pl s0 (f k a).s) :
    Changes pl s0 (xs.foldl f k).s := by
  induction xs generalizing k with
  | nil => exact hc
  | cons a t ih => exact ih (hf k hc a)

theorem KState.store_ch {pl : List Piece} {s0 : State} {k : KState} {t : TDesc} {ws : List (Nat × W256 × Bool)} (hc : Changes pl s0 k.s) (hl : subPieces [.burin] pl = true) :
    Changes pl s0 (KState.store k t ws).s := by
  unfold KState.store
  exact KState.foldl_ch hc fun k h _ => KState.updCall_ch (KState.upd_ch h (sub_trans hl rfl)) (sub_trans hl rfl)

theorem KState.goAt_ch {pl : List Piece} {s0 : State} {k : KState} {t : Nat} (hc : Changes pl s0 k.s) (hl : subPieces [.work] pl = true) :
    Changes pl s0 (KState.goAt k t).s := by
  unfold KState.goAt
  try dsimp only
  repeat' first
    | with_reducible exact hc
    | with_reducible assumption
    | with_reducible refine KState.plan_ch ?_ (sub_trans hl rfl)
    | split

theorem KState.readyAt_ch {pl : List Piece} {s0 : State} {k : KState} {r t : Nat} (hc : Changes pl s0 k.s) (hl : subPieces [.burin] pl = true) :
    Changes pl s0 (KState.readyAt k r t).s := by
  unfold KState.readyAt
  try dsimp only
  repeat' first
    | with_reducible exact hc
    | with_reducible assumption
    | with_reducible refine KState.updCall_ch ?_ (sub_trans hl rfl)
    | split

theorem KState.goto_ch {pl : List Piece} {s0 : State} {k : KState} {n : Nat} (hc : Changes pl s0 k.s) (hl : subPieces [.burin] pl = true) :
    Changes pl s0 (KState.goto k n).s := by
  unfold KState.goto
  try dsimp only
  repeat' first
    | with_reducible exact hc
    | with_reducible assumption
    | with_reducible refine KState.updCall_ch ?_ (sub_trans hl rfl)
    | split

theorem KState.next_ch {pl : List Piece} {s0 : State} {k : KState} (hc : Changes pl s0 k.s) (hl : subPieces [.burin] pl = true) :
    Changes pl s0 (KState.next k).s := by
  unfold KState.next
  try dsimp only
  repeat' first
    | with_reducible exact hc
    | with_reducible assumption
    | with_reducible refine KState.updCall_ch ?_ (sub_trans hl rfl)
    | split

theorem KState.badLoad_ch {pl : List Piece} {s0 : State} {k : KState} {d : Nat} (hc : Changes pl s0 k.s) (hl : subPieces [.burin] pl = true) :
    Changes pl s0 (KState.badLoad k d).s := by
  unfold KState.badLoad
  try dsimp only
  repeat' first
    | with_reducible exact hc
    | with_reducible assumption
    | with_reducible refine KState.upd_ch ?_ (sub_trans hl rfl)
    | split

theorem KState.loadVat_ch {pl : List Piece} {s0 : State} {k k' : KState} {t d col row : Nat} (hk : k.loadVat t d col row = some k')
    (hc : Changes pl s0 k.s) (hl : subPieces [.regs, .work, .burin, .msixPend, .log, .out] pl = true) : Changes pl s0 k'.s := by
  unfold KState.loadVat at hk
  dsimp only at hk
  repeat' split at hk
  all_goals first
    | (cases hk; done)
    | (obtain rfl := Option.some.inj hk
       repeat' first
         | with_reducible exact hc
         | with_reducible refine KState.next_ch ?_ (sub_trans hl rfl)
         | with_reducible refine KState.readyAt_ch ?_ (sub_trans hl rfl)
         | with_reducible refine KState.updCall_ch ?_ (sub_trans hl rfl)
         | with_reducible refine KState.plan_ch ?_ (sub_trans hl rfl)
         | with_reducible refine KState.rangeFault_ch ?_ (sub_trans hl rfl)
         | with_reducible refine KState.badLoad_ch ?_ (sub_trans hl rfl)
         | with_reducible refine KState.taintIf_ch ?_ (sub_trans hl rfl))

theorem KState.storeVat_ch {pl : List Piece} {s0 : State} {k k' : KState} {t a col row : Nat} (hk : k.storeVat t a col row = some k')
    (hc : Changes pl s0 k.s) (hl : subPieces [.regs, .burin, .msixPend, .log, .out] pl = true) : Changes pl s0 k'.s := by
  unfold KState.storeVat at hk
  dsimp only at hk
  repeat' split at hk
  all_goals first
    | (cases hk; done)
    | (obtain rfl := Option.some.inj hk
       repeat' first
         | with_reducible exact hc
         | with_reducible refine KState.next_ch ?_ (sub_trans hl rfl)
         | with_reducible refine KState.store_ch ?_ (sub_trans hl rfl)
         | with_reducible refine KState.updCall_ch ?_ (sub_trans hl rfl)
         | with_reducible refine KState.rangeFault_ch ?_ (sub_trans hl rfl)
         | with_reducible refine KState.taintIf_ch ?_ (sub_trans hl rfl))

theorem KState.lanes_ch {pl : List Piece} {s0 : State} {k : KState} {d : Nat} {f : Core → Nat → W32 × Bool} (hc : Changes pl s0 k.s) (hl : subPieces [.burin] pl = true) :
    Changes pl s0 (KState.lanes k d f).s := by
  unfold KState.lanes
  try dsimp only
  repeat' first
    | with_reducible exact hc
    | with_reducible assumption
    | with_reducible refine KState.next_ch ?_ (sub_trans hl rfl)
    | with_reducible refine KState.upd_ch ?_ (sub_trans hl rfl)
    | split

theorem KState.lanes2_ch {pl : List Piece} {s0 : State} {k : KState} {d a b : Nat} {f : W32 → W32 → W32} (hc : Changes pl s0 k.s) (hl : subPieces [.burin] pl = true) :
    Changes pl s0 (KState.lanes2 k d a b f).s := by
  unfold KState.lanes2
  try dsimp only
  repeat' first
    | with_reducible exact hc
    | with_reducible assumption
    | with_reducible refine KState.lanes_ch ?_ (sub_trans hl rfl)
    | split

theorem KState.lanes3_ch {pl : List Piece} {s0 : State} {k : KState} {d a b x : Nat} {f : W32 → W32 → W32 → W32} (hc : Changes pl s0 k.s) (hl : subPieces [.burin] pl = true) :
    Changes pl s0 (KState.lanes3 k d a b x f).s := by
  unfold KState.lanes3
  try dsimp only
  repeat' first
    | with_reducible exact hc
    | with_reducible assumption
    | with_reducible refine KState.lanes_ch ?_ (sub_trans hl rfl)
    | split

theorem KState.test_ch {pl : List Piece} {s0 : State} {k : KState} {p n : Nat} {f : Core → Nat → Bool × Bool} (hc : Changes pl s0 k.s) (hl : subPieces [.burin] pl = true) :
    Changes pl s0 (KState.test k p n f).s := by
  unfold KState.test
  try dsimp only
  repeat' first
    | with_reducible exact hc
    | with_reducible assumption
    | with_reducible refine KState.next_ch ?_ (sub_trans hl rfl)
    | with_reducible refine KState.taintIf_ch ?_ (sub_trans hl rfl)
    | with_reducible refine KState.upd_ch ?_ (sub_trans hl rfl)
    | with_reducible refine KState.foldl_ch ?_ (fun _ _ _ => ?_)
    | with_reducible refine Changes.foldl ?_ (fun _ _ _ => ?_)
    | with_reducible refine Changes.foldl_fst ?_ (fun _ _ _ => ?_)
    | split

theorem KState.loadLocal_ch {pl : List Piece} {s0 : State} {k : KState} {d x : Nat} (hc : Changes pl s0 k.s) (hl : subPieces [.regs, .burin, .msixPend, .log, .out] pl = true) :
    Changes pl s0 (KState.loadLocal k d x).s := by
  unfold KState.loadLocal
  try dsimp only
  repeat' first
    | with_reducible exact hc
    | with_reducible assumption
    | with_reducible refine KState.lanes_ch ?_ (sub_trans hl rfl)
    | with_reducible refine KState.badLoad_ch ?_ (sub_trans hl rfl)
    | with_reducible refine KState.next_ch ?_ (sub_trans hl rfl)
    | with_reducible refine State.localLog_ch ?_ (sub_trans hl rfl)
    | with_reducible refine KState.rangeFault_ch ?_ (sub_trans hl rfl)
    | with_reducible refine KState.taintIf_ch ?_ (sub_trans hl rfl)
    | with_reducible refine Changes.each ?_ (fun _ _ _ => ?_)
    | split

theorem KState.storeLocal_ch {pl : List Piece} {s0 : State} {k : KState} {x a : Nat} (hc : Changes pl s0 k.s) (hl : subPieces [.regs, .burin, .msixPend, .log, .out] pl = true) :
    Changes pl s0 (KState.storeLocal k x a).s := by
  unfold KState.storeLocal
  try dsimp only
  repeat' first
    | with_reducible exact hc
    | with_reducible assumption
    | with_reducible refine KState.next_ch ?_ (sub_trans hl rfl)
    | with_reducible refine KState.rangeFault_ch ?_ (sub_trans hl rfl)
    | with_reducible refine KState.taintIf_ch ?_ (sub_trans hl rfl)
    | with_reducible refine KState.updCall_ch ?_ (sub_trans hl rfl)
    | with_reducible refine KState.upd_ch ?_ (sub_trans hl rfl)
    | with_reducible refine KState.foldl_ch ?_ (fun _ _ _ => ?_)
    | with_reducible refine Changes.foldl ?_ (fun _ _ _ => ?_)
    | with_reducible refine Changes.foldl_fst ?_ (fun _ _ _ => ?_)
    | split

theorem KState.poisonStored_ch {pl : List Piece} {s0 : State} {k : KState} (hc : Changes pl s0 k.s) (hl : subPieces [.vat, .vatCode, .burin] pl = true) :
    Changes pl s0 (KState.poisonStored k).s := by
  unfold KState.poisonStored
  try dsimp only
  repeat' first
    | with_reducible exact hc
    | with_reducible assumption
    | with_reducible refine KState.upd_ch ?_ (sub_trans hl rfl)
    | with_reducible refine State.vatPut_ch ?_ (sub_trans hl rfl)
    | with_reducible refine Changes.each ?_ (fun _ _ _ => ?_)
    | split

theorem KState.finish_ch {pl : List Piece} {s0 : State} {k : KState} (hc : Changes pl s0 k.s) (hl : subPieces [.vat, .vatCode, .burin] pl = true) :
    Changes pl s0 (KState.finish k).s := by
  unfold KState.finish
  try dsimp only
  repeat' first
    | with_reducible exact hc
    | with_reducible assumption
    | with_reducible refine KState.poisonStored_ch ?_ (sub_trans hl rfl)
    | with_reducible refine KState.upd_ch ?_ (sub_trans hl rfl)
    | split

theorem KState.exec1_ch {pl : List Piece} {s0 : State} {k k' : KState} {op : KOp} (hk : k.exec1 op = some k')
    (hc : Changes pl s0 k.s) (hl : subPieces [.regs, .vat, .vatCode, .work, .burin, .msixPend, .log, .out] pl = true) : Changes pl s0 k'.s := by
  unfold KState.exec1 at hk
  cases op
  case loadVat => exact KState.loadVat_ch hk hc (sub_trans hl rfl)
  case storeVat => exact KState.storeVat_ch hk hc (sub_trans hl rfl)
  all_goals
    dsimp only at hk
    try split at hk
    all_goals
      obtain rfl := Option.some.inj hk
      repeat' first
        | with_reducible exact hc
        | with_reducible refine KState.lanes_ch ?_ (sub_trans hl rfl)
        | with_reducible refine KState.lanes2_ch ?_ (sub_trans hl rfl)
        | with_reducible refine KState.lanes3_ch ?_ (sub_trans hl rfl)
        | with_reducible refine KState.test_ch ?_ (sub_trans hl rfl)
        | with_reducible refine KState.loadLocal_ch ?_ (sub_trans hl rfl)
        | with_reducible refine KState.storeLocal_ch ?_ (sub_trans hl rfl)
        | with_reducible refine KState.finish_ch ?_ (sub_trans hl rfl)
        | with_reducible refine KState.goto_ch ?_ (sub_trans hl rfl)
        | with_reducible refine KState.next_ch ?_ (sub_trans hl rfl)
        | with_reducible refine KState.upd_ch ?_ (sub_trans hl rfl)
        | with_reducible refine KState.taintIf_ch ?_ (sub_trans hl rfl)
        | split

theorem KState.run_ch {pl : List Piece} {s0 : State} {ops : List KOp} {n : Nat} {k : KState} (hc : Changes pl s0 k.s) (hl : subPieces [.regs, .vat, .vatCode, .work, .burin, .msixPend, .log, .out] pl = true) :
    Changes pl s0 (KState.run ops n k).s := by
  induction n generalizing k with
  | zero => exact KState.goAt_ch hc (sub_trans hl rfl)
  | succ n ih =>
    unfold KState.run
    split
    · exact hc
    · split
      · exact KState.finish_ch hc (sub_trans hl rfl)
      · dsimp only
        split
        · exact KState.goAt_ch (KState.updCall_ch hc (sub_trans hl rfl)) (sub_trans hl rfl)
        · split
          · split
            · exact hc
            · exact KState.goAt_ch hc (sub_trans hl rfl)
          · rename_i h
            have h1 := KState.exec1_ch h (KState.parity_ch hc (sub_trans hl rfl)) (sub_trans hl rfl)
            refine ih ?_
            repeat' first
              | with_reducible exact h1
              | with_reducible refine KState.updCall_ch ?_ (sub_trans hl rfl)
              | with_reducible refine KState.readyAt_ch ?_ (sub_trans hl rfl)
              | split

theorem KState.loadSlot_ch {pl : List Piece} {s0 : State} {k : KState} {d t l0 row : Nat} {now : List Nat} {rest : List (Nat × List Nat)} {got : Words} {blocked : List Nat} (hc : Changes pl s0 k.s) (hl : subPieces [.regs, .work, .burin, .msixPend, .log, .out] pl = true) :
    Changes pl s0 (KState.loadSlot k d t l0 row now rest got blocked).s := by
  unfold KState.loadSlot
  try dsimp only
  repeat' first
    | with_reducible exact hc
    | with_reducible assumption
    | with_reducible refine KState.plan_ch ?_ (sub_trans hl rfl)
    | with_reducible refine KState.upd_ch ?_ (sub_trans hl rfl)
    | with_reducible refine State.vatLog_ch ?_ (sub_trans hl rfl)
    | with_reducible refine Changes.each ?_ (fun _ _ _ => ?_)
    | with_reducible refine KState.foldl_ch ?_ (fun _ _ _ => ?_)
    | with_reducible refine Changes.foldl ?_ (fun _ _ _ => ?_)
    | with_reducible refine Changes.foldl_fst ?_ (fun _ _ _ => ?_)
    | split

theorem State.putPage_ch {pl : List Piece} {s0 : State} {s : State} {p : Nat} {v : ServingSpec} {o : PoolSpec} {pg : Nat} {key : List (W256 × Bool)} {vals : List (List (W256 × Bool))} (hc : Changes pl s0 s) (hl : subPieces [.regs, .stk, .stkCode, .wcb, .held, .parts, .msixPend, .log, .out] pl = true) :
    Changes pl s0 (State.putPage s p v o pg key vals) := by
  unfold State.putPage
  try dsimp only
  repeat' first
    | with_reducible exact hc
    | with_reducible assumption
    | with_reducible refine State.putRow_ch ?_ (sub_trans hl rfl)
    | with_reducible refine Changes.each ?_ (fun _ _ _ => ?_)
    | split

theorem State.putInts_ch {pl : List Piece} {s0 : State} {s : State} {a : Nat} {xs : List Nat} (hc : Changes pl s0 s) (hl : subPieces [.vat, .vatCode] pl = true) :
    Changes pl s0 (State.putInts s a xs) := by
  unfold State.putInts
  try dsimp only
  repeat' first
    | with_reducible exact hc
    | with_reducible assumption
    | with_reducible refine State.vatPut_ch ?_ (sub_trans hl rfl)
    | with_reducible refine Changes.each ?_ (fun _ _ _ => ?_)
    | with_reducible refine Changes.foldl ?_ (fun _ _ _ => ?_)
    | with_reducible refine Changes.foldl_fst ?_ (fun _ _ _ => ?_)
    | split

theorem KState.put_ch {pl : List Piece} {s0 : State} {k : KState} {t : TDesc} {ws : List (Nat × W256 × Bool)} (hc : Changes pl s0 k.s) (hl : subPieces [.burin] pl = true) :
    Changes pl s0 (KState.put k t ws).s := by
  unfold KState.put
  try dsimp only
  repeat' first
    | with_reducible exact hc
    | with_reducible assumption
    | with_reducible refine KState.store_ch ?_ (sub_trans hl rfl)
    | split

theorem KState.putRow_ch {pl : List Piece} {s0 : State} {k : KState} {t r : Nat} {xs : List (W32 × Bool)} (hc : Changes pl s0 k.s) (hl : subPieces [.burin] pl = true) :
    Changes pl s0 (KState.putRow k t r xs).s := by
  unfold KState.putRow
  try dsimp only
  repeat' first
    | with_reducible exact hc
    | with_reducible assumption
    | with_reducible refine KState.put_ch ?_ (sub_trans hl rfl)
    | split

theorem KState.putRaw_ch {pl : List Piece} {s0 : State} {k : KState} {t : TDesc} {hi : List Nat} {f : Nat → (Nat × Bool) × (Nat × Bool)} (hc : Changes pl s0 k.s) (hl : subPieces [.burin] pl = true) :
    Changes pl s0 (KState.putRaw k t hi f).s := by
  unfold KState.putRaw
  try dsimp only
  repeat' first
    | with_reducible exact hc
    | with_reducible assumption
    | with_reducible refine KState.put_ch ?_ (sub_trans hl rfl)
    | split

theorem KState.putArea_ch {pl : List Piece} {s0 : State} {k : KState} {a : Nat} {ws : List (W256 × Bool)} (hc : Changes pl s0 k.s) (hl : subPieces [.burin] pl = true) :
    Changes pl s0 (KState.putArea k a ws).s := by
  unfold KState.putArea
  try dsimp only
  repeat' first
    | with_reducible exact hc
    | with_reducible assumption
    | with_reducible refine KState.upd_ch ?_ (sub_trans hl rfl)
    | with_reducible refine KState.foldl_ch ?_ (fun _ _ _ => ?_)
    | with_reducible refine Changes.foldl ?_ (fun _ _ _ => ?_)
    | with_reducible refine Changes.foldl_fst ?_ (fun _ _ _ => ?_)
    | split

theorem KState.rowOpAt_ch {pl : List Piece} {s0 : State} {k : KState} {op : RowOp} {args : List Nat} {out r : Nat} {sh : Sharding} (hc : Changes pl s0 k.s) (hl : subPieces [.burin] pl = true) :
    Changes pl s0 (KState.rowOpAt k op args out r sh).s := by
  unfold KState.rowOpAt
  try dsimp only
  repeat' first
    | with_reducible exact hc
    | with_reducible assumption
    | with_reducible refine KState.putRaw_ch ?_ (sub_trans hl rfl)
    | with_reducible refine KState.putRow_ch ?_ (sub_trans hl rfl)
    | split

theorem KState.indexFault_ch {pl : List Piece} {s0 : State} {k : KState} {idxs : List (Option Nat × Bool)} (hc : Changes pl s0 k.s) (hl : subPieces [.regs, .msixPend, .log, .out] pl = true) :
    Changes pl s0 (KState.indexFault k idxs).s := by
  unfold KState.indexFault
  try dsimp only
  repeat' first
    | with_reducible exact hc
    | with_reducible assumption
    | with_reducible refine State.logEvent_ch ?_ (sub_trans hl rfl)
    | split

theorem KState.gather_ch {pl : List Piece} {s0 : State} {k : KState} {src idx out d : Nat} (hc : Changes pl s0 k.s) (hl : subPieces [.regs, .burin, .msixPend, .log, .out] pl = true) :
    Changes pl s0 (KState.gather k src idx out d).s := by
  unfold KState.gather
  try dsimp only
  repeat' first
    | with_reducible exact hc
    | with_reducible assumption
    | with_reducible refine KState.indexFault_ch ?_ (sub_trans hl rfl)
    | with_reducible refine KState.putRaw_ch ?_ (sub_trans hl rfl)
    | with_reducible refine KState.foldl_ch ?_ (fun _ _ _ => ?_)
    | with_reducible refine Changes.foldl ?_ (fun _ _ _ => ?_)
    | with_reducible refine Changes.foldl_fst ?_ (fun _ _ _ => ?_)
    | split

theorem KState.scatter_ch {pl : List Piece} {s0 : State} {k : KState} {base idx upd out d : Nat} (hc : Changes pl s0 k.s) (hl : subPieces [.regs, .burin, .msixPend, .log, .out] pl = true) :
    Changes pl s0 (KState.scatter k base idx upd out d).s := by
  unfold KState.scatter
  try dsimp only
  repeat' first
    | with_reducible exact hc
    | with_reducible assumption
    | with_reducible refine KState.indexFault_ch ?_ (sub_trans hl rfl)
    | with_reducible refine KState.putRaw_ch ?_ (sub_trans hl rfl)
    | with_reducible refine KState.foldl_ch ?_ (fun _ _ _ => ?_)
    | with_reducible refine Changes.foldl ?_ (fun _ _ _ => ?_)
    | with_reducible refine Changes.foldl_fst ?_ (fun _ _ _ => ?_)
    | split

theorem KState.pack_ch {pl : List Piece} {s0 : State} {k : KState} {kt vt out page : Nat} (hc : Changes pl s0 k.s) (hl : subPieces [.burin] pl = true) :
    Changes pl s0 (KState.pack k kt vt out page).s := by
  unfold KState.pack
  try dsimp only
  repeat' first
    | with_reducible exact hc
    | with_reducible assumption
    | with_reducible refine KState.putRaw_ch ?_ (sub_trans hl rfl)
    | split

theorem KState.unpack_ch {pl : List Piece} {s0 : State} {k : KState} {src page kt vt : Nat} (hc : Changes pl s0 k.s) (hl : subPieces [.burin] pl = true) :
    Changes pl s0 (KState.unpack k src page kt vt).s := by
  unfold KState.unpack
  try dsimp only
  repeat' first
    | with_reducible exact hc
    | with_reducible assumption
    | with_reducible refine KState.putRow_ch ?_ (sub_trans hl rfl)
    | with_reducible refine KState.foldl_ch ?_ (fun _ _ _ => ?_)
    | with_reducible refine Changes.foldl ?_ (fun _ _ _ => ?_)
    | with_reducible refine Changes.foldl_fst ?_ (fun _ _ _ => ?_)
    | split

theorem KState.partialOf_ch {pl : List Piece} {s0 : State} {k : KState} {x : QuerySpec} {q qrow : Nat} {page : Option Nat} {kt vt out orow : Nat} (hc : Changes pl s0 k.s) (hl : subPieces [.burin] pl = true) :
    Changes pl s0 (KState.partialOf k x q qrow page kt vt out orow).s := by
  unfold KState.partialOf
  try dsimp only
  repeat' first
    | with_reducible exact hc
    | with_reducible assumption
    | with_reducible refine KState.putRow_ch ?_ (sub_trans hl rfl)
    | split

theorem KState.combine_ch {pl : List Piece} {s0 : State} {k : KState} {x : QuerySpec} {d : CombineSpec} {y l orow : Nat} (hc : Changes pl s0 k.s) (hl : subPieces [.burin] pl = true) :
    Changes pl s0 (KState.combine k x d y l orow).s := by
  unfold KState.combine
  try dsimp only
  repeat' first
    | with_reducible exact hc
    | with_reducible assumption
    | with_reducible refine KState.putRow_ch ?_ (sub_trans hl rfl)
    | split

theorem KState.sampleRow_ch {pl : List Piece} {s0 : State} {k : KState} {row logits : Nat} (hc : Changes pl s0 k.s) (hl : subPieces [.burin] pl = true) :
    Changes pl s0 (KState.sampleRow k row logits).s := by
  unfold KState.sampleRow
  try dsimp only
  repeat' first
    | with_reducible exact hc
    | with_reducible assumption
    | with_reducible refine KState.putArea_ch ?_ (sub_trans hl rfl)
    | split

theorem KState.workList_ch {pl : List Piece} {s0 : State} {k : KState} {U out marks : Nat} (hc : Changes pl s0 k.s) (hl : subPieces [.regs, .burin, .msixPend, .log, .out] pl = true) :
    Changes pl s0 (KState.workList k U out marks).s := by
  unfold KState.workList
  try dsimp only
  repeat' first
    | with_reducible exact hc
    | with_reducible assumption
    | with_reducible refine KState.putRaw_ch ?_ (sub_trans hl rfl)
    | with_reducible refine KState.putRow_ch ?_ (sub_trans hl rfl)
    | with_reducible refine State.logEvent_ch ?_ (sub_trans hl rfl)
    | with_reducible refine KState.foldl_ch ?_ (fun _ _ _ => ?_)
    | with_reducible refine Changes.foldl ?_ (fun _ _ _ => ?_)
    | with_reducible refine Changes.foldl_fst ?_ (fun _ _ _ => ?_)
    | split

theorem KState.apply_ch {pl : List Piece} {s0 : State} {k : KState} {b : KBody} (hc : Changes pl s0 k.s) (hl : subPieces [.regs, .burin, .msixPend, .log, .out] pl = true) :
    Changes pl s0 (KState.apply k b).s := by
  unfold KState.apply
  try dsimp only
  repeat' first
    | with_reducible exact hc
    | with_reducible assumption
    | with_reducible refine KState.workList_ch ?_ (sub_trans hl rfl)
    | with_reducible refine KState.sampleRow_ch ?_ (sub_trans hl rfl)
    | with_reducible refine KState.combine_ch ?_ (sub_trans hl rfl)
    | with_reducible refine KState.partialOf_ch ?_ (sub_trans hl rfl)
    | with_reducible refine KState.unpack_ch ?_ (sub_trans hl rfl)
    | with_reducible refine KState.pack_ch ?_ (sub_trans hl rfl)
    | with_reducible refine KState.scatter_ch ?_ (sub_trans hl rfl)
    | with_reducible refine KState.gather_ch ?_ (sub_trans hl rfl)
    | with_reducible refine KState.rowOpAt_ch ?_ (sub_trans hl rfl)
    | with_reducible refine KState.putRaw_ch ?_ (sub_trans hl rfl)
    | with_reducible refine KState.foldl_ch ?_ (fun _ _ _ => ?_)
    | with_reducible refine Changes.foldl ?_ (fun _ _ _ => ?_)
    | with_reducible refine Changes.foldl_fst ?_ (fun _ _ _ => ?_)
    | split

theorem KState.settleAt_ch {pl : List Piece} {s0 : State} {k : KState} {c : Call} (hc : Changes pl s0 k.s) (hl : subPieces [.work] pl = true) :
    Changes pl s0 (KState.settleAt k c).s := by
  unfold KState.settleAt
  try dsimp only
  repeat' first
    | with_reducible exact hc
    | with_reducible assumption
    | with_reducible refine KState.goAt_ch ?_ (sub_trans hl rfl)
    | split

theorem KState.libNext_ch {pl : List Piece} {s0 : State} {k : KState} (hc : Changes pl s0 k.s) (hl : subPieces [.work, .burin] pl = true) :
    Changes pl s0 (KState.libNext k).s := by
  unfold KState.libNext
  try dsimp only
  repeat' first
    | with_reducible exact hc
    | with_reducible assumption
    | with_reducible refine KState.settleAt_ch ?_ (sub_trans hl rfl)
    | with_reducible refine KState.plan_ch ?_ (sub_trans hl rfl)
    | with_reducible refine KState.updCall_ch ?_ (sub_trans hl rfl)
    | split

theorem KState.libSlot_ch {pl : List Piece} {s0 : State} {k : KState} {blocked : List Nat} (hc : Changes pl s0 k.s) (hl : subPieces [.regs, .work, .burin, .msixPend, .log, .out] pl = true) :
    Changes pl s0 (KState.libSlot k blocked).s := by
  unfold KState.libSlot
  try dsimp only
  repeat' first
    | with_reducible exact hc
    | with_reducible assumption
    | with_reducible refine KState.libNext_ch ?_ (sub_trans hl rfl)
    | with_reducible refine KState.updCall_ch ?_ (sub_trans hl rfl)
    | with_reducible refine State.vatLog_ch ?_ (sub_trans hl rfl)
    | with_reducible refine Changes.each ?_ (fun _ _ _ => ?_)
    | with_reducible refine KState.foldl_ch ?_ (fun _ _ _ => ?_)
    | with_reducible refine Changes.foldl ?_ (fun _ _ _ => ?_)
    | with_reducible refine Changes.foldl_fst ?_ (fun _ _ _ => ?_)
    | split

theorem KState.libEnd_ch {pl : List Piece} {s0 : State} {k : KState} (hc : Changes pl s0 k.s) (hl : subPieces [.burin] pl = true) :
    Changes pl s0 (KState.libEnd k).s := by
  unfold KState.libEnd
  try dsimp only
  repeat' first
    | with_reducible exact hc
    | with_reducible assumption
    | with_reducible refine KState.upd_ch ?_ (sub_trans hl rfl)
    | split

theorem KState.libGo_ch {pl : List Piece} {s0 : State} {k : KState} {c : Call} (hc : Changes pl s0 k.s) (hl : subPieces [.regs, .work, .burin, .msixPend, .log, .out] pl = true) :
    Changes pl s0 (KState.libGo k c).s := by
  unfold KState.libGo
  try dsimp only
  repeat' first
    | with_reducible exact hc
    | with_reducible assumption
    | with_reducible refine KState.libEnd_ch ?_ (sub_trans hl rfl)
    | with_reducible refine KState.libNext_ch ?_ (sub_trans hl rfl)
    | with_reducible refine KState.apply_ch ?_ (sub_trans hl rfl)
    | with_reducible refine KState.updCall_ch ?_ (sub_trans hl rfl)
    | split

theorem KState.go_ch {pl : List Piece} {s0 : State} {k : KState} (hc : Changes pl s0 k.s) (hl : subPieces [.regs, .vat, .vatCode, .work, .burin, .msixPend, .log, .out] pl = true) :
    Changes pl s0 (KState.go k).s := by
  unfold KState.go
  try dsimp only
  repeat' first
    | with_reducible exact hc
    | with_reducible assumption
    | with_reducible refine KState.libGo_ch ?_ (sub_trans hl rfl)
    | with_reducible refine KState.run_ch ?_ (sub_trans hl rfl)
    | split

theorem State.countFrame_ch {pl : List Piece} {s0 : State} {s : State} (hc : Changes pl s0 s) (hl : subPieces [.parts] pl = true) :
    Changes pl s0 (State.countFrame s) := by
  unfold State.countFrame
  try dsimp only
  repeat' first
    | with_reducible exact hc
    | with_reducible assumption
    | with_reducible refine State.updPart_ch ?_ (sub_trans hl rfl)
    | with_reducible refine Changes.each ?_ (fun _ _ _ => ?_)
    | split

theorem State.reclass_ch {pl : List Piece} {s0 : State} {s : State} {p before : Nat} (hc : Changes pl s0 s) (hl : subPieces [.parts] pl = true) :
    Changes pl s0 (State.reclass s p before) := by
  unfold State.reclass
  try dsimp only
  repeat' first
    | with_reducible exact hc
    | with_reducible assumption
    | with_reducible refine State.updPart_ch ?_ (sub_trans hl rfl)
    | split

theorem State.measEndNow_ch {pl : List Piece} {s0 : State} {s : State} (hc : Changes pl s0 s) (hl : subPieces [.regs, .parts, .measStart, .measEnd, .measOn, .measNext] pl = true) :
    Changes pl s0 (State.measEndNow s) := by
  unfold State.measEndNow
  try dsimp only
  repeat' first
    | with_reducible exact hc
    | with_reducible assumption
    | with_reducible refine State.updPart_ch ?_ (sub_trans hl rfl)
    | with_reducible refine State.wr_ch ?_ (sub_trans hl rfl)
    | with_reducible refine Changes.each ?_ (fun _ _ _ => ?_)
    | with_reducible refine Changes.foldl ?_ (fun _ _ _ => ?_)
    | with_reducible refine Changes.foldl_fst ?_ (fun _ _ _ => ?_)
    | split
    | ((with_reducible refine Changes.mk ?_ ?_); rotate_left; (intro x hx; cases x <;> first | exact (hx (mem_of_sub hl (by decide))).elim | (dsimp only [Piece.put]; done) | (dsimp only [Piece.put]; rfl)))

theorem State.measDue_ch {pl : List Piece} {s0 : State} {s : State} (hc : Changes pl s0 s) (hl : subPieces [.regs, .parts, .measStart, .measEnd, .measOn, .measNext] pl = true) :
    Changes pl s0 (State.measDue s) := by
  unfold State.measDue
  try dsimp only
  repeat' first
    | with_reducible exact hc
    | with_reducible assumption
    | with_reducible refine State.measEndNow_ch ?_ (sub_trans hl rfl)
    | split

theorem State.postNotice_ch {pl : List Piece} {s0 : State} {s : State} {p : Nat} {n : Notice} (hc : Changes pl s0 s) (hl : subPieces [.parts] pl = true) :
    Changes pl s0 (State.postNotice s p n) := by
  unfold State.postNotice
  try dsimp only
  repeat' first
    | with_reducible exact hc
    | with_reducible assumption
    | with_reducible refine State.updPart_ch ?_ (sub_trans hl rfl)
    | split

theorem State.reachWait_ch {pl : List Piece} {s0 : State} {s : State} {p : Nat} {k : WaitKind} (hc : Changes pl s0 s) (hl : subPieces [.parts] pl = true) :
    Changes pl s0 (State.reachWait s p k) := by
  unfold State.reachWait
  try dsimp only
  repeat' first
    | with_reducible exact hc
    | with_reducible assumption
    | with_reducible refine State.updPart_ch ?_ (sub_trans hl rfl)
    | split

theorem State.resumePlate_ch {pl : List Piece} {s0 : State} {s : State} {p : Nat} (hc : Changes pl s0 s) (hl : subPieces [.parts] pl = true) :
    Changes pl s0 (State.resumePlate s p) := by
  unfold State.resumePlate
  try dsimp only
  repeat' first
    | with_reducible exact hc
    | with_reducible assumption
    | with_reducible refine State.updPart_ch ?_ (sub_trans hl rfl)
    | split

theorem State.useRing_ch {pl : List Piece} {s0 : State} {s : State} {p : Nat} {k : WaitKind} (hc : Changes pl s0 s) (hl : subPieces [.parts] pl = true) :
    Changes pl s0 (State.useRing s p k) := by
  unfold State.useRing
  try dsimp only
  repeat' first
    | with_reducible exact hc
    | with_reducible assumption
    | with_reducible refine State.updPart_ch ?_ (sub_trans hl rfl)
    | split

theorem State.waitTest_ch {pl : List Piece} {s0 : State} {s : State} {p : Nat} {w : Wait} (hc : Changes pl s0 s) (hl : subPieces [.regs, .vat, .vatCode, .work, .burin, .parts, .pcmd, .msixPend, .ports, .wins, .groups, .sendings, .log, .out] pl = true) :
    Changes pl s0 (State.waitTest s p w) := by
  unfold State.waitTest
  try dsimp only
  repeat' first
    | with_reducible exact hc
    | with_reducible assumption
    | with_reducible refine State.useRing_ch ?_ (sub_trans hl rfl)
    | with_reducible refine State.resumePlate_ch ?_ (sub_trans hl rfl)
    | with_reducible refine State.takeStop_ch ?_ (sub_trans hl rfl)
    | with_reducible refine State.haltWithdrawn_ch ?_ (sub_trans hl rfl)
    | with_reducible refine State.updGroup_ch ?_ (sub_trans hl rfl)
    | with_reducible refine State.logEvent_ch ?_ (sub_trans hl rfl)
    | split

theorem State.postTest_ch {pl : List Piece} {s0 : State} {s : State} {p : Nat} {n : Notice} {f : Nat} {rest : List (Notice × Nat)} (hc : Changes pl s0 s) (hl : subPieces [.regs, .vat, .vatCode, .work, .burin, .parts, .ports, .wins, .groups, .sendings] pl = true) :
    Changes pl s0 (State.postTest s p n f rest) := by
  unfold State.postTest
  try dsimp only
  repeat' first
    | with_reducible exact hc
    | with_reducible assumption
    | with_reducible refine State.postNotice_ch ?_ (sub_trans hl rfl)
    | with_reducible refine State.takeStop_ch ?_ (sub_trans hl rfl)
    | with_reducible refine State.updPart_ch ?_ (sub_trans hl rfl)
    | with_reducible refine Changes.each ?_ (fun _ _ _ => ?_)
    | split

theorem State.frameTest_ch {pl : List Piece} {s0 : State} {s : State} {p : Nat} (hc : Changes pl s0 s) (hl : subPieces [.regs, .vat, .vatCode, .work, .burin, .parts, .pcmd, .msixPend, .ports, .wins, .groups, .sendings, .log, .out] pl = true) :
    Changes pl s0 (State.frameTest s p) := by
  unfold State.frameTest
  try dsimp only
  repeat' first
    | with_reducible exact hc
    | with_reducible assumption
    | with_reducible refine State.postTest_ch ?_ (sub_trans hl rfl)
    | with_reducible refine State.waitTest_ch ?_ (sub_trans hl rfl)
    | with_reducible refine State.reclass_ch ?_ (sub_trans hl rfl)
    | split

theorem State.sampleWait_ch {pl : List Piece} {s0 : State} {s : State} {p : Nat} (hc : Changes pl s0 s) (hl : subPieces [.parts] pl = true) :
    Changes pl s0 (State.sampleWait s p) := by
  unfold State.sampleWait
  try dsimp only
  repeat' first
    | with_reducible exact hc
    | with_reducible assumption
    | with_reducible refine State.updPart_ch ?_ (sub_trans hl rfl)
    | split

theorem State.gridAdvance_ch {pl : List Piece} {s0 : State} {s : State} (hc : Changes pl s0 s) (hl : subPieces [.regs, .grid] pl = true) :
    Changes pl s0 (State.gridAdvance s) := by
  unfold State.gridAdvance
  try dsimp only
  repeat' first
    | with_reducible exact hc
    | with_reducible assumption
    | with_reducible refine State.inc_ch ?_ (sub_trans hl rfl)
    | with_reducible refine State.wr_ch ?_ (sub_trans hl rfl)
    | split
    | ((with_reducible refine Changes.mk ?_ ?_); rotate_left; (intro x hx; cases x <;> first | exact (hx (mem_of_sub hl (by decide))).elim | (dsimp only [Piece.put]; done) | (dsimp only [Piece.put]; rfl)))

theorem State.refreshFrame_ch {pl : List Piece} {s0 : State} {s : State} (hc : Changes pl s0 s) (hl : subPieces [.grid] pl = true) :
    Changes pl s0 (State.refreshFrame s) := by
  unfold State.refreshFrame
  try dsimp only
  repeat' first
    | with_reducible exact hc
    | with_reducible assumption
    | with_reducible refine Changes.foldl ?_ (fun _ _ _ => ?_)
    | with_reducible refine Changes.foldl_fst ?_ (fun _ _ _ => ?_)
    | split
    | ((with_reducible refine Changes.mk ?_ ?_); rotate_left; (intro x hx; cases x <;> first | exact (hx (mem_of_sub hl (by decide))).elim | (dsimp only [Piece.put]; done) | (dsimp only [Piece.put]; rfl)))

theorem State.stepCommit_ch {pl : List Piece} {s0 : State} {s : State} {p : Nat} (hc : Changes pl s0 s) (hl : subPieces [.parts] pl = true) :
    Changes pl s0 (State.stepCommit s p) := by
  unfold State.stepCommit
  try dsimp only
  repeat' first
    | with_reducible exact hc
    | with_reducible assumption
    | with_reducible refine State.postNotice_ch ?_ (sub_trans hl rfl)
    | with_reducible refine State.updPart_ch ?_ (sub_trans hl rfl)
    | split

theorem State.breakPoint_ch {pl : List Piece} {s0 : State} {s : State} {p num : Nat} (hc : Changes pl s0 s) (hl : subPieces [.regs, .vat, .vatCode, .work, .burin, .parts, .ports, .wins, .groups, .sendings] pl = true) :
    Changes pl s0 (State.breakPoint s p num) := by
  unfold State.breakPoint
  try dsimp only
  repeat' first
    | with_reducible exact hc
    | with_reducible assumption
    | with_reducible refine State.reclass_ch ?_ (sub_trans hl rfl)
    | with_reducible refine State.takeStop_ch ?_ (sub_trans hl rfl)
    | split

theorem State.measCfg_ch {pl : List Piece} {s0 : State} {s : State} {v : Nat} (hc : Changes pl s0 s) (hl : subPieces [.regs, .parts, .measStart, .measEnd, .measOn, .measNext] pl = true) :
    Changes pl s0 (State.measCfg s v) := by
  unfold State.measCfg
  try dsimp only
  repeat' first
    | with_reducible exact hc
    | with_reducible assumption
    | with_reducible refine State.updPart_ch ?_ (sub_trans hl rfl)
    | with_reducible refine State.wr_ch ?_ (sub_trans hl rfl)
    | with_reducible refine Changes.each ?_ (fun _ _ _ => ?_)
    | split
    | ((with_reducible refine Changes.mk ?_ ?_); rotate_left; (intro x hx; cases x <;> first | exact (hx (mem_of_sub hl (by decide))).elim | (dsimp only [Piece.put]; done) | (dsimp only [Piece.put]; rfl)))

theorem State.linkErr_ch {pl : List Piece} {s0 : State} {s : State} {p : Nat} {err : Option (Nat × Bool)} (hc : Changes pl s0 s) (hl : subPieces [.regs, .msixPend, .log, .out] pl = true) :
    Changes pl s0 (State.linkErr s p err) := by
  unfold State.linkErr
  try dsimp only
  repeat' first
    | with_reducible exact hc
    | with_reducible assumption
    | with_reducible refine State.logEvent_ch ?_ (sub_trans hl rfl)
    | split

theorem State.getStep_ch {pl : List Piece} {s0 : State} {s : State} {p a : Nat} {outs : List (Put × Nat)} {err : Option (Nat × Bool)} (hc : Changes pl s0 s) (hl : subPieces [.regs, .work, .parts, .msixPend, .log, .out] pl = true) :
    Changes pl s0 (State.getStep s p a outs err) := by
  unfold State.getStep
  try dsimp only
  repeat' first
    | with_reducible exact hc
    | with_reducible assumption
    | with_reducible refine State.linkErr_ch ?_ (sub_trans hl rfl)
    | with_reducible refine State.plan_ch ?_ (sub_trans hl rfl)
    | with_reducible refine State.stkReadLog_ch ?_ (sub_trans hl rfl)
    | split

theorem State.codedStep_ch {pl : List Piece} {s0 : State} {s : State} {p a : Nat} {err : Option (Nat × Bool)} (hc : Changes pl s0 s) (hl : subPieces [.regs, .seqs, .parts, .msixPend, .log, .out] pl = true) :
    Changes pl s0 (State.codedStep s p a err) := by
  unfold State.codedStep
  try dsimp only
  repeat' first
    | with_reducible exact hc
    | with_reducible assumption
    | with_reducible refine State.linkErr_ch ?_ (sub_trans hl rfl)
    | with_reducible refine State.updSeq_ch ?_ (sub_trans hl rfl)
    | with_reducible refine State.stkReadLog_ch ?_ (sub_trans hl rfl)
    | split

theorem State.curdStep_ch {pl : List Piece} {s0 : State} {s : State} {p base B c : Nat} {outs : List (Nat × Put × Nat)} (hc : Changes pl s0 s) (hl : subPieces [.regs, .work, .seqs, .msixPend, .log, .out] pl = true) :
    Changes pl s0 (State.curdStep s p base B c outs) := by
  unfold State.curdStep
  try dsimp only
  repeat' first
    | with_reducible exact hc
    | with_reducible assumption
    | with_reducible refine State.updSeq_ch ?_ (sub_trans hl rfl)
    | with_reducible refine State.plan_ch ?_ (sub_trans hl rfl)
    | with_reducible refine State.logEvent_ch ?_ (sub_trans hl rfl)
    | split

theorem State.takeStep_ch {pl : List Piece} {s0 : State} {s : State} {p a : Nat} {outs : List (Put × Nat)} {err : Option (Nat × Bool)} (hc : Changes pl s0 s) (hl : subPieces [.regs, .work, .msixPend, .log, .out] pl = true) :
    Changes pl s0 (State.takeStep s p a outs err) := by
  unfold State.takeStep
  try dsimp only
  repeat' first
    | with_reducible exact hc
    | with_reducible assumption
    | with_reducible refine State.linkErr_ch ?_ (sub_trans hl rfl)
    | with_reducible refine State.plan_ch ?_ (sub_trans hl rfl)
    | with_reducible refine State.vatLog_ch ?_ (sub_trans hl rfl)
    | split

theorem State.takeInStep_ch {pl : List Piece} {s0 : State} {s : State} {a : Nat} (hc : Changes pl s0 s) (hl : subPieces [.regs, .seqs, .msixPend, .log, .out] pl = true) :
    Changes pl s0 (State.takeInStep s a) := by
  unfold State.takeInStep
  try dsimp only
  repeat' first
    | with_reducible exact hc
    | with_reducible assumption
    | with_reducible refine State.updSeq_ch ?_ (sub_trans hl rfl)
    | with_reducible refine State.vatLog_ch ?_ (sub_trans hl rfl)
    | split

theorem State.openPut_ch {pl : List Piece} {s0 : State} {s : State} {a : Nat} {d : W256} {poison : Bool} (hc : Changes pl s0 s) (hl : subPieces [.stk, .stkCode, .seqs] pl = true) :
    Changes pl s0 (State.openPut s a d poison) := by
  unfold State.openPut
  try dsimp only
  repeat' first
    | with_reducible exact hc
    | with_reducible assumption
    | with_reducible refine State.updSeq_ch ?_ (sub_trans hl rfl)
    | with_reducible refine State.stkRaw_ch ?_ (sub_trans hl rfl)
    | split

theorem State.putStep_ch {pl : List Piece} {s0 : State} {s : State} {dest : Put} {d : W256} {poison : Bool} (hc : Changes pl s0 s) (hl : subPieces [.vat, .vatCode, .stk, .stkCode, .held, .seqs] pl = true) :
    Changes pl s0 (State.putStep s dest d poison) := by
  unfold State.putStep
  try dsimp only
  repeat' first
    | with_reducible exact hc
    | with_reducible assumption
    | with_reducible refine State.openPut_ch ?_ (sub_trans hl rfl)
    | with_reducible refine State.stkPut_ch ?_ (sub_trans hl rfl)
    | with_reducible refine State.vatPut_ch ?_ (sub_trans hl rfl)
    | split

theorem State.rowFault_ch {pl : List Piece} {s0 : State} {s : State} {half bank pail row : Nat} {g : Region} {bad : Bool} (hc : Changes pl s0 s) (hl : subPieces [.parts, .reqs] pl = true) :
    Changes pl s0 (State.rowFault s half bank pail row g bad) := by
  unfold State.rowFault
  try dsimp only
  repeat' first
    | with_reducible exact hc
    | with_reducible assumption
    | with_reducible refine State.repaired_ch ?_ (sub_trans hl rfl)
    | with_reducible refine State.addFault_ch ?_ (sub_trans hl rfl)
    | split

theorem State.sumStep_ch {pl : List Piece} {s0 : State} {s : State} {half bank pail row : Nat} (hc : Changes pl s0 s) (hl : subPieces [.stk, .stkCode, .seqs, .parts, .reqs] pl = true) :
    Changes pl s0 (State.sumStep s half bank pail row) := by
  unfold State.sumStep
  try dsimp only
  repeat' first
    | with_reducible exact hc
    | with_reducible assumption
    | with_reducible refine State.rowFault_ch ?_ (sub_trans hl rfl)
    | with_reducible refine State.updSeq_ch ?_ (sub_trans hl rfl)
    | with_reducible refine State.putSum_ch ?_ (sub_trans hl rfl)
    | split

theorem State.feedWord_ch {pl : List Piece} {s0 : State} {s : State} {p half B : Nat} {w : W256 × Bool} {err : Option (Nat × Bool)} (hc : Changes pl s0 s) (hl : subPieces [.regs, .seqs, .msixPend, .log, .out] pl = true) :
    Changes pl s0 (State.feedWord s p half B w err) := by
  unfold State.feedWord
  try dsimp only
  repeat' first
    | with_reducible exact hc
    | with_reducible assumption
    | with_reducible refine State.linkErr_ch ?_ (sub_trans hl rfl)
    | with_reducible refine State.updSeq_ch ?_ (sub_trans hl rfl)
    | split

theorem State.feedStep_ch {pl : List Piece} {s0 : State} {s : State} {p half B : Nat} {a : Option Nat} {err : Option (Nat × Bool)} (hc : Changes pl s0 s) (hl : subPieces [.regs, .seqs, .msixPend, .log, .out] pl = true) :
    Changes pl s0 (State.feedStep s p half B a err) := by
  unfold State.feedStep
  try dsimp only
  repeat' first
    | with_reducible exact hc
    | with_reducible assumption
    | with_reducible refine State.feedWord_ch ?_ (sub_trans hl rfl)
    | with_reducible refine State.vatLog_ch ?_ (sub_trans hl rfl)
    | split

theorem State.feedRowStep_ch {pl : List Piece} {s0 : State} {s : State} {p half B entry desc head k : Nat} {err : Option (Nat × Bool)} (hc : Changes pl s0 s) (hl : subPieces [.regs, .seqs, .msixPend, .log, .out] pl = true) :
    Changes pl s0 (State.feedRowStep s p half B entry desc head k err) := by
  unfold State.feedRowStep
  try dsimp only
  repeat' first
    | with_reducible exact hc
    | with_reducible assumption
    | with_reducible refine State.feedWord_ch ?_ (sub_trans hl rfl)
    | with_reducible refine State.vatLog_ch ?_ (sub_trans hl rfl)
    | split

theorem State.queueStep_ch {pl : List Piece} {s0 : State} {s : State} {p half B pool entry : Nat} (hc : Changes pl s0 s) (hl : subPieces [.regs, .seqs, .msixPend, .log, .out] pl = true) :
    Changes pl s0 (State.queueStep s p half B pool entry) := by
  unfold State.queueStep
  try dsimp only
  repeat' first
    | with_reducible exact hc
    | with_reducible assumption
    | with_reducible refine State.updSeq_ch ?_ (sub_trans hl rfl)
    | with_reducible refine State.vatLog_ch ?_ (sub_trans hl rfl)
    | split

theorem State.collectStep_ch {pl : List Piece} {s0 : State} {s : State} {p half B a : Nat} {err : Option (Nat × Bool)} (hc : Changes pl s0 s) (hl : subPieces [.regs, .vat, .vatCode, .seqs, .msixPend, .log, .out] pl = true) :
    Changes pl s0 (State.collectStep s p half B a err) := by
  unfold State.collectStep
  try dsimp only
  repeat' first
    | with_reducible exact hc
    | with_reducible assumption
    | with_reducible refine State.linkErr_ch ?_ (sub_trans hl rfl)
    | with_reducible refine State.updSeq_ch ?_ (sub_trans hl rfl)
    | with_reducible refine State.vatPut_ch ?_ (sub_trans hl rfl)
    | split

theorem State.tableStep_ch {pl : List Piece} {s0 : State} {s : State} {half : Nat} {sums : List Nat} {k : Nat} (hc : Changes pl s0 s) (hl : subPieces [.regs, .seqs, .parts, .msixPend, .log, .out] pl = true) :
    Changes pl s0 (State.tableStep s half sums k) := by
  unfold State.tableStep
  try dsimp only
  repeat' first
    | with_reducible exact hc
    | with_reducible assumption
    | with_reducible refine State.updSeq_ch ?_ (sub_trans hl rfl)
    | with_reducible refine State.stkLog_ch ?_ (sub_trans hl rfl)
    | split

theorem State.rsEndStep_ch {pl : List Piece} {s0 : State} {s : State} {p half : Nat} {sums : List Nat} {result : List (Nat × Nat)} (hc : Changes pl s0 s) (hl : subPieces [.regs, .work, .seqs, .parts, .msixPend, .log, .out] pl = true) :
    Changes pl s0 (State.rsEndStep s p half sums result) := by
  unfold State.rsEndStep
  try dsimp only
  repeat' first
    | with_reducible exact hc
    | with_reducible assumption
    | with_reducible refine State.updSeq_ch ?_ (sub_trans hl rfl)
    | with_reducible refine State.plan_ch ?_ (sub_trans hl rfl)
    | with_reducible refine State.recRowSum_ch ?_ (sub_trans hl rfl)
    | with_reducible refine State.addFault_ch ?_ (sub_trans hl rfl)
    | with_reducible refine State.updPart_ch ?_ (sub_trans hl rfl)
    | with_reducible refine State.logEvent_ch ?_ (sub_trans hl rfl)
    | with_reducible refine Changes.each ?_ (fun _ _ _ => ?_)
    | split

theorem State.markStep_ch {pl : List Piece} {s0 : State} {s : State} {a : Nat} {bad : Bool} (hc : Changes pl s0 s) (hl : subPieces [.vat, .vatCode] pl = true) :
    Changes pl s0 (State.markStep s a bad) := by
  unfold State.markStep
  try dsimp only
  repeat' first
    | with_reducible exact hc
    | with_reducible assumption
    | with_reducible refine State.vatPut_ch ?_ (sub_trans hl rfl)
    | split

theorem State.putCounts_ch {pl : List Piece} {s0 : State} {s : State} {a : Nat} {old new : CountTab} {tokens : List Nat} (hc : Changes pl s0 s) (hl : subPieces [.vat, .vatCode] pl = true) :
    Changes pl s0 (State.putCounts s a old new tokens) := by
  unfold State.putCounts
  try dsimp only
  repeat' first
    | with_reducible exact hc
    | with_reducible assumption
    | with_reducible refine State.vatPut_ch ?_ (sub_trans hl rfl)
    | with_reducible refine Changes.each ?_ (fun _ _ _ => ?_)
    | split

theorem State.appendCounts_ch {pl : List Piece} {s0 : State} {s : State} {p : Nat} {v : ServingSpec} {e : StepRow} (hc : Changes pl s0 s) (hl : subPieces [.vat, .vatCode, .reqs] pl = true) :
    Changes pl s0 (State.appendCounts s p v e) := by
  unfold State.appendCounts
  try dsimp only
  repeat' first
    | with_reducible exact hc
    | with_reducible assumption
    | with_reducible refine State.putCounts_ch ?_ (sub_trans hl rfl)
    | with_reducible refine State.vatPut_ch ?_ (sub_trans hl rfl)
    | split
    | ((with_reducible refine Changes.mk ?_ ?_); rotate_left; (intro x hx; cases x <;> first | exact (hx (mem_of_sub hl (by decide))).elim | (dsimp only [Piece.put]; done) | (dsimp only [Piece.put]; rfl)))

theorem State.appendTokens_ch {pl : List Piece} {s0 : State} {s : State} {p : Nat} {v : ServingSpec} {rows : List AppendRow} (hc : Changes pl s0 s) (hl : subPieces [.reqs] pl = true) :
    Changes pl s0 (State.appendTokens s p v rows).1 := by
  unfold State.appendTokens
  try dsimp only
  repeat' first
    | with_reducible exact hc
    | with_reducible assumption
    | with_reducible refine Changes.foldl ?_ (fun _ _ _ => ?_)
    | with_reducible refine Changes.foldl_fst ?_ (fun _ _ _ => ?_)
    | split
    | ((with_reducible refine Changes.mk ?_ ?_); rotate_left; (intro x hx; cases x <;> first | exact (hx (mem_of_sub hl (by decide))).elim | (dsimp only [Piece.put]; done) | (dsimp only [Piece.put]; rfl)))

theorem State.appendStep_ch {pl : List Piece} {s0 : State} {s : State} {p : Nat} {rows : List AppendRow} {bcs : List Nat} (hc : Changes pl s0 s) (hl : subPieces [.vat, .vatCode, .work, .parts, .reqs] pl = true) :
    Changes pl s0 (State.appendStep s p rows bcs) := by
  unfold State.appendStep
  try dsimp only
  repeat' first
    | with_reducible exact hc
    | with_reducible assumption
    | with_reducible refine State.appendTokens_ch ?_ (sub_trans hl rfl)
    | with_reducible refine State.appendCounts_ch ?_ (sub_trans hl rfl)
    | with_reducible refine State.postNotice_ch ?_ (sub_trans hl rfl)
    | with_reducible refine State.plan_ch ?_ (sub_trans hl rfl)
    | with_reducible refine State.updPart_ch ?_ (sub_trans hl rfl)
    | with_reducible refine Changes.each ?_ (fun _ _ _ => ?_)
    | split

theorem State.patchStep_ch {pl : List Piece} {s0 : State} {s : State} {b a : Nat} {code : Option (Nat × KBody)} (hc : Changes pl s0 s) (hl : subPieces [.regs, .burin, .msixPend, .log, .out] pl = true) :
    Changes pl s0 (State.patchStep s b a code) := by
  unfold State.patchStep
  try dsimp only
  repeat' first
    | with_reducible exact hc
    | with_reducible assumption
    | with_reducible refine State.vatLog_ch ?_ (sub_trans hl rfl)
    | split
    | ((with_reducible refine Changes.mk ?_ ?_); rotate_left; (intro x hx; cases x <;> first | exact (hx (mem_of_sub hl (by decide))).elim | (dsimp only [Piece.put]; done) | (dsimp only [Piece.put]; rfl)))

theorem State.callStep_ch {pl : List Piece} {s0 : State} {s : State} {p b T offset : Nat} {descs : List (List W64)} {slots : List Nat} {reservation : Nat} (hc : Changes pl s0 s) (hl : subPieces [.regs, .vat, .vatCode, .work, .burin, .msixPend, .log, .out] pl = true) :
    Changes pl s0 (State.callStep s p b T offset descs slots reservation) := by
  unfold State.callStep
  try dsimp only
  repeat' first
    | with_reducible exact hc
    | with_reducible assumption
    | with_reducible refine KState.go_ch ?_ (sub_trans hl rfl)
    | with_reducible refine KState.libNext_ch ?_ (sub_trans hl rfl)
    | split
    | ((with_reducible refine Changes.mk ?_ ?_); rotate_left; (intro x hx; cases x <;> first | exact (hx (mem_of_sub hl (by decide))).elim | (dsimp only [Piece.put]; done) | (dsimp only [Piece.put]; rfl)))

theorem State.goStep_ch {pl : List Piece} {s0 : State} {s : State} {p b T : Nat} (hc : Changes pl s0 s) (hl : subPieces [.regs, .vat, .vatCode, .work, .burin, .msixPend, .log, .out] pl = true) :
    Changes pl s0 (State.goStep s p b T) := by
  unfold State.goStep
  try dsimp only
  repeat' first
    | with_reducible exact hc
    | with_reducible assumption
    | with_reducible refine KState.go_ch ?_ (sub_trans hl rfl)
    | split

theorem State.storeStep_ch {pl : List Piece} {s0 : State} {s : State} {p b T : Nat} {blocked : List Nat} (hc : Changes pl s0 s) (hl : subPieces [.vat, .vatCode, .work, .burin] pl = true) :
    Changes pl s0 (State.storeStep s p b T blocked) := by
  unfold State.storeStep
  try dsimp only
  repeat' first
    | with_reducible exact hc
    | with_reducible assumption
    | with_reducible refine KState.goAt_ch ?_ (sub_trans hl rfl)
    | with_reducible refine State.vatPut_ch ?_ (sub_trans hl rfl)
    | with_reducible refine Changes.each ?_ (fun _ _ _ => ?_)
    | split
    | ((with_reducible refine Changes.mk ?_ ?_); rotate_left; (intro x hx; cases x <;> first | exact (hx (mem_of_sub hl (by decide))).elim | (dsimp only [Piece.put]; done) | (dsimp only [Piece.put]; rfl)))

theorem State.callEndStep_ch {pl : List Piece} {s0 : State} {s : State} {b T : Nat} (hc : Changes pl s0 s) (hl : subPieces [.burin] pl = true) :
    Changes pl s0 (State.callEndStep s b T).1 := by
  unfold State.callEndStep
  try dsimp only
  repeat' first
    | with_reducible exact hc
    | with_reducible assumption
    | split
    | ((with_reducible refine Changes.mk ?_ ?_); rotate_left; (intro x hx; cases x <;> first | exact (hx (mem_of_sub hl (by decide))).elim | (dsimp only [Piece.put]; done) | (dsimp only [Piece.put]; rfl)))

theorem State.conflictFault_ch {pl : List Piece} {s0 : State} {s : State} {p T : Nat} {l : List VAcc} (hc : Changes pl s0 s) (hl : subPieces [.regs, .msixPend, .log, .out] pl = true) :
    Changes pl s0 (State.conflictFault s p T l) := by
  unfold State.conflictFault
  try dsimp only
  repeat' first
    | with_reducible exact hc
    | with_reducible assumption
    | with_reducible refine State.recConflict_ch ?_ (sub_trans hl rfl)
    | with_reducible refine State.logEvent_ch ?_ (sub_trans hl rfl)
    | with_reducible refine State.wrs_ch ?_ (sub_trans hl rfl)
    | split

theorem State.unitFault_ch {pl : List Piece} {s0 : State} {s : State} {p T : Nat} {l : List UnitHaz} (hc : Changes pl s0 s) (hl : subPieces [.regs, .msixPend, .log, .out] pl = true) :
    Changes pl s0 (State.unitFault s p T l) := by
  unfold State.unitFault
  try dsimp only
  repeat' first
    | with_reducible exact hc
    | with_reducible assumption
    | with_reducible refine State.recPress_ch ?_ (sub_trans hl rfl)
    | with_reducible refine State.logEvent_ch ?_ (sub_trans hl rfl)
    | with_reducible refine State.wrs_ch ?_ (sub_trans hl rfl)
    | split

theorem State.churnFault_ch {pl : List Piece} {s0 : State} {s : State} {p B : Nat} {l : List ChurnHaz} (hc : Changes pl s0 s) (hl : subPieces [.regs, .msixPend, .log, .out] pl = true) :
    Changes pl s0 (State.churnFault s p B l) := by
  unfold State.churnFault
  try dsimp only
  repeat' first
    | with_reducible exact hc
    | with_reducible assumption
    | with_reducible refine State.recChurn_ch ?_ (sub_trans hl rfl)
    | with_reducible refine State.logEvent_ch ?_ (sub_trans hl rfl)
    | with_reducible refine State.wrs_ch ?_ (sub_trans hl rfl)
    | split

theorem State.churnStep_ch {pl : List Piece} {s0 : State} {s : State} {p T : Nat} {a : Act} (hc : Changes pl s0 s) (hl : subPieces [.regs, .work, .churn, .seqs, .parts, .msixPend, .log, .out] pl = true) :
    Changes pl s0 (State.churnStep s p T a).1 := by
  unfold State.churnStep
  try dsimp only
  repeat' first
    | with_reducible exact hc
    | with_reducible assumption
    | with_reducible refine State.streamStep_ch ?_ (sub_trans hl rfl)
    | with_reducible refine State.churnPlain_ch ?_ (sub_trans hl rfl)
    | with_reducible refine State.xloadStep_ch ?_ (sub_trans hl rfl)
    | split

theorem pressFound_ch {pl : List Piece} {s0 s : State} {p : Nat} {w : Words4} {r : State × PressHaz} (hc : Changes pl s0 r.1) :
    Changes pl s0 (pressFound s p w r).1 := hc

theorem State.actStep_ch {pl : List Piece} {s0 : State} {s : State} {p T : Nat} {vb sb : List Nat} {a : Act} (hc : Changes pl s0 s) (hl : subPieces [.regs, .vat, .vatCode, .work, .stk, .stkCode, .held, .press, .burin, .seqs, .parts, .reqs, .msixPend, .log, .out] pl = true) :
    Changes pl s0 (State.actStep s p T vb sb a).1 := by
  unfold State.actStep
  try dsimp only
  repeat' first
    | with_reducible exact hc
    | with_reducible assumption
    | with_reducible refine pressFound_ch ?_
    | with_reducible refine State.callEndStep_ch ?_ (sub_trans hl rfl)
    | with_reducible refine State.storeStep_ch ?_ (sub_trans hl rfl)
    | with_reducible refine State.goStep_ch ?_ (sub_trans hl rfl)
    | with_reducible refine State.callStep_ch ?_ (sub_trans hl rfl)
    | with_reducible refine State.patchStep_ch ?_ (sub_trans hl rfl)
    | with_reducible refine State.markStep_ch ?_ (sub_trans hl rfl)
    | with_reducible refine State.rsEndStep_ch ?_ (sub_trans hl rfl)
    | with_reducible refine State.tableStep_ch ?_ (sub_trans hl rfl)
    | with_reducible refine State.collectStep_ch ?_ (sub_trans hl rfl)
    | with_reducible refine State.queueStep_ch ?_ (sub_trans hl rfl)
    | with_reducible refine State.feedRowStep_ch ?_ (sub_trans hl rfl)
    | with_reducible refine State.feedStep_ch ?_ (sub_trans hl rfl)
    | with_reducible refine State.sumStep_ch ?_ (sub_trans hl rfl)
    | with_reducible refine State.putStep_ch ?_ (sub_trans hl rfl)
    | with_reducible refine State.takeInStep_ch ?_ (sub_trans hl rfl)
    | with_reducible refine State.takeStep_ch ?_ (sub_trans hl rfl)
    | with_reducible refine State.curdStep_ch ?_ (sub_trans hl rfl)
    | with_reducible refine State.codedStep_ch ?_ (sub_trans hl rfl)
    | with_reducible refine State.getStep_ch ?_ (sub_trans hl rfl)
    | with_reducible refine KState.libSlot_ch ?_ (sub_trans hl rfl)
    | with_reducible refine KState.loadSlot_ch ?_ (sub_trans hl rfl)
    | with_reducible refine State.fillStep_ch ?_ (sub_trans hl rfl)
    | with_reducible refine State.drainStep_ch ?_ (sub_trans hl rfl)
    | with_reducible refine State.passStep_ch ?_ (sub_trans hl rfl)
    | with_reducible refine State.loadStep_ch ?_ (sub_trans hl rfl)
    | split

theorem State.churnSteps_ch {pl : List Piece} {s0 : State} {s : State} {p T : Nat} {l : List Act} (hc : Changes pl s0 s) (hl : subPieces [.regs, .work, .churn, .seqs, .parts, .msixPend, .log, .out] pl = true) :
    Changes pl s0 (State.churnSteps s p T l).1 := by
  unfold State.churnSteps
  try dsimp only
  repeat' first
    | with_reducible exact hc
    | with_reducible assumption
    | with_reducible refine State.churnStep_ch ?_ (sub_trans hl rfl)
    | with_reducible refine Changes.foldl ?_ (fun _ _ _ => ?_)
    | with_reducible refine Changes.foldl_fst ?_ (fun _ _ _ => ?_)
    | split

theorem State.actSteps_ch {pl : List Piece} {s0 : State} {s : State} {p T : Nat} {vb sb : List Nat} {l : List Act} (hc : Changes pl s0 s) (hl : subPieces [.regs, .vat, .vatCode, .work, .stk, .stkCode, .held, .press, .burin, .seqs, .parts, .reqs, .msixPend, .log, .out] pl = true) :
    Changes pl s0 (State.actSteps s p T vb sb l).1 := by
  unfold State.actSteps
  try dsimp only
  repeat' first
    | with_reducible exact hc
    | with_reducible assumption
    | with_reducible refine State.actStep_ch ?_ (sub_trans hl rfl)
    | with_reducible refine Changes.foldl ?_ (fun _ _ _ => ?_)
    | with_reducible refine Changes.foldl_fst ?_ (fun _ _ _ => ?_)
    | split

theorem State.partCycle_ch {pl : List Piece} {s0 : State} {s : State} {p T : Nat} (hc : Changes pl s0 s) (hl : subPieces [.regs, .quarters, .dieFence, .vat, .vatCode, .work, .stk, .stkCode, .maps, .wcb, .held, .press, .burin, .churn, .seqs, .parts, .pcmd, .reqs, .msixPend, .rmt, .ports, .wins, .groups, .sendings, .log, .repair, .boot, .out] pl = true) :
    Changes pl s0 (State.partCycle s p T) := by
  unfold State.partCycle
  try dsimp only
  repeat' first
    | with_reducible exact hc
    | with_reducible assumption
    | with_reducible refine State.actSteps_ch ?_ (sub_trans hl rfl)
    | with_reducible refine State.churnSteps_ch ?_ (sub_trans hl rfl)
    | with_reducible refine State.churnFault_ch ?_ (sub_trans hl rfl)
    | with_reducible refine State.unitFault_ch ?_ (sub_trans hl rfl)
    | with_reducible refine State.conflictFault_ch ?_ (sub_trans hl rfl)
    | with_reducible refine State.haltPart_ch ?_ (sub_trans hl rfl)
    | split
    | ((with_reducible refine Changes.mk ?_ ?_); rotate_left; (intro x hx; cases x <;> first | exact (hx (mem_of_sub hl (by decide))).elim | (dsimp only [Piece.put]; done) | (dsimp only [Piece.put]; rfl)))

theorem State.runCycles_ch {pl : List Piece} {s0 s : State} {n limit : Nat} (hc : Changes pl s0 s) (hl : subPieces [.regs, .quarters, .dieFence, .vat, .vatCode, .work, .stk, .stkCode, .maps, .wcb, .held, .press, .burin, .churn, .seqs, .parts, .pcmd, .reqs, .msixPend, .rmt, .ports, .wins, .groups, .sendings, .log, .repair, .boot, .out] pl = true) :
    Changes pl s0 (State.runCycles n limit s) := by
  induction n generalizing s with
  | zero => exact hc
  | succ n ih =>
    unfold State.runCycles
    split
    · exact hc
    · exact ih (Changes.each hc fun _ h _ => State.partCycle_ch h (sub_trans hl rfl))

theorem State.runWork_ch {pl : List Piece} {s0 : State} {s : State} {limit : Nat} (hc : Changes pl s0 s) (hl : subPieces [.regs, .quarters, .dieFence, .vat, .vatCode, .work, .plateT, .stk, .stkCode, .maps, .wcb, .held, .press, .burin, .churn, .seqs, .parts, .pcmd, .reqs, .msixPend, .rmt, .ports, .wins, .groups, .sendings, .log, .repair, .boot, .out] pl = true) :
    Changes pl s0 (State.runWork s limit) := by
  unfold State.runWork
  try dsimp only
  repeat' first
    | with_reducible exact hc
    | with_reducible assumption
    | with_reducible refine State.runCycles_ch ?_ (sub_trans hl rfl)
    | split
    | ((with_reducible refine Changes.mk ?_ ?_); rotate_left; (intro x hx; cases x <;> first | exact (hx (mem_of_sub hl (by decide))).elim | (dsimp only [Piece.put]; done) | (dsimp only [Piece.put]; rfl)))

theorem State.settle_ch {pl : List Piece} {s0 : State} {s : State} (hc : Changes pl s0 s) (hl : subPieces [.regs, .quarters, .dieFence, .vat, .vatCode, .work, .plateT, .stk, .stkCode, .maps, .wcb, .held, .press, .burin, .churn, .seqs, .parts, .pcmd, .reqs, .msixPend, .rmt, .ports, .wins, .groups, .sendings, .log, .repair, .boot, .out] pl = true) :
    Changes pl s0 (State.settle s) := by
  unfold State.settle
  try dsimp only
  repeat' first
    | with_reducible exact hc
    | with_reducible assumption
    | with_reducible refine State.runWork_ch ?_ (sub_trans hl rfl)
    | split

end Sys2Proof.Machine
end

