-- ==== Sys2Proof/Laws/EffectsFabric.lean ====
section
/-! SUPPORT. What each operation may change, as the pieces of the state in `Changes`: pages, requests, records, cells, windows and groups. -/

namespace Sys2Proof.Machine

open Sys2Proof

set_option maxRecDepth 4000
set_option linter.all false

theorem State.updReq_ch {pl : List Piece} {s0 : State} {s : State} {i : Nat} {f : Req → Req} (hc : Changes pl s0 s) (hl : subPieces [.reqs] pl = true) :
    Changes pl s0 (State.updReq s i f) := by
  unfold State.updReq
  try dsimp only
  repeat' first
    | with_reducible exact hc
    | with_reducible assumption
    | split
    | ((with_reducible refine Changes.mk ?_ ?_); rotate_left; (intro x hx; cases x <;> first | exact (hx (mem_of_sub hl (by decide))).elim | (dsimp only [Piece.put]; done) | (dsimp only [Piece.put]; rfl)))

theorem State.putOwn_ch {pl : List Piece} {s0 : State} {s : State} {a : Option Nat} {bs : List Byte} (hc : Changes pl s0 s) (hl : subPieces [.regs, .stk, .stkCode, .wcb, .held, .parts, .msixPend, .log, .out] pl = true) :
    Changes pl s0 (State.putOwn s a bs) := by
  unfold State.putOwn
  try dsimp only
  repeat' first
    | with_reducible exact hc
    | with_reducible assumption
    | with_reducible refine State.svcPut_ch ?_ (sub_trans hl rfl)
    | split

theorem State.putTree_ch {pl : List Piece} {s0 : State} {s : State} {p : Nat} {v : ServingSpec} {x : Pool} {nodes refs : List Nat} (hc : Changes pl s0 s) (hl : subPieces [.regs, .stk, .stkCode, .wcb, .held, .parts, .msixPend, .log, .out] pl = true) :
    Changes pl s0 (State.putTree s p v x nodes refs) := by
  unfold State.putTree
  try dsimp only
  repeat' first
    | with_reducible exact hc
    | with_reducible assumption
    | with_reducible refine State.putOwn_ch ?_ (sub_trans hl rfl)
    | with_reducible refine Changes.each ?_ (fun _ _ _ => ?_)
    | split

theorem State.setPool_ch {pl : List Piece} {s0 : State} {s : State} {p : Nat} {x : Pool} (hc : Changes pl s0 s) (hl : subPieces [.regs, .stk, .stkCode, .wcb, .held, .parts, .pools, .msixPend, .log, .out] pl = true) :
    Changes pl s0 (State.setPool s p x) := by
  unfold State.setPool
  try dsimp only
  repeat' first
    | with_reducible exact hc
    | with_reducible assumption
    | with_reducible refine State.putTree_ch ?_ (sub_trans hl rfl)
    | split
    | ((with_reducible refine Changes.mk ?_ ?_); rotate_left; (intro x hx; cases x <;> first | exact (hx (mem_of_sub hl (by decide))).elim | (dsimp only [Piece.put]; done) | (dsimp only [Piece.put]; rfl)))

theorem State.updPool_ch {pl : List Piece} {s0 : State} {s : State} {p : Nat} {f : Pool → Pool} (hc : Changes pl s0 s) (hl : subPieces [.regs, .stk, .stkCode, .wcb, .held, .parts, .pools, .msixPend, .log, .out] pl = true) :
    Changes pl s0 (State.updPool s p f) := by
  unfold State.updPool
  try dsimp only
  repeat' first
    | with_reducible exact hc
    | with_reducible assumption
    | with_reducible refine State.setPool_ch ?_ (sub_trans hl rfl)
    | split

theorem State.checkTree_ch {pl : List Piece} {s0 : State} {s : State} {p : Nat} (hc : Changes pl s0 s) (hl : subPieces [.regs, .stk, .stkCode, .wcb, .held, .parts, .pools, .msixPend, .log, .out] pl = true) :
    Changes pl s0 (State.checkTree s p) := by
  unfold State.checkTree
  try dsimp only
  repeat' first
    | with_reducible exact hc
    | with_reducible assumption
    | with_reducible refine State.putTree_ch ?_ (sub_trans hl rfl)
    | with_reducible refine State.stkLog_ch ?_ (sub_trans hl rfl)
    | split
    | ((with_reducible refine Changes.mk ?_ ?_); rotate_left; (intro x hx; cases x <;> first | exact (hx (mem_of_sub hl (by decide))).elim | (dsimp only [Piece.put]; done) | (dsimp only [Piece.put]; rfl)))

theorem State.manage_ch {pl : List Piece} {s0 : State} {s : State} {p : Nat} {f : State → State} (hc : Changes pl s0 s) (hl : subPieces [.regs, .quarters, .dieFence, .vat, .vatCode, .work, .plateT, .stk, .stkCode, .maps, .wcb, .held, .press, .burin, .churn, .seqs, .parts, .pcmd, .reqs, .pools, .msixPend, .rmt, .ports, .wins, .groups, .sendings, .log, .repair, .boot, .out] pl = true) (hf : ∀ s, Changes pl s0 s → Changes pl s0 (f s)) :
    Changes pl s0 (State.manage s p f) := by
  unfold State.manage
  try dsimp only
  repeat' first
    | with_reducible exact hc
    | with_reducible assumption
    | with_reducible refine hf _ ?_
    | with_reducible refine State.checkTree_ch ?_ (sub_trans hl rfl)
    | with_reducible refine State.settle_ch ?_ (sub_trans hl rfl)
    | split

theorem State.setPages_ch {pl : List Piece} {s0 : State} {s : State} {p i : Nat} {f : List (Option Nat) → List (Option Nat)} (hc : Changes pl s0 s) (hl : subPieces [.vat, .vatCode, .reqs] pl = true) :
    Changes pl s0 (State.setPages s p i f) := by
  unfold State.setPages
  try dsimp only
  repeat' first
    | with_reducible exact hc
    | with_reducible assumption
    | with_reducible refine State.updReq_ch ?_ (sub_trans hl rfl)
    | with_reducible refine State.putInts_ch ?_ (sub_trans hl rfl)
    | split

theorem State.allocPage_ch {pl : List Piece} {s0 : State} {s : State} {p : Nat} {v : ServingSpec} {c : Nat} (hc : Changes pl s0 s) (hl : subPieces [.regs, .stk, .stkCode, .wcb, .held, .parts, .pools, .msixPend, .log, .out, .free] pl = true) :
    Changes pl s0 (State.allocPage s p v c).1 := by
  unfold State.allocPage
  try dsimp only
  repeat' first
    | with_reducible exact hc
    | with_reducible assumption
    | with_reducible refine State.updPool_ch ?_ (sub_trans hl rfl)
    | with_reducible refine State.drawn_ch ?_ (sub_trans hl rfl)
    | split

theorem State.matchPrompt_ch {pl : List Piece} {s0 : State} {s : State} {p i : Nat} (hc : Changes pl s0 s) (hl : subPieces [.regs, .vat, .vatCode, .stk, .stkCode, .wcb, .held, .parts, .reqs, .pools, .msixPend, .log, .out] pl = true) :
    Changes pl s0 (State.matchPrompt s p i) := by
  unfold State.matchPrompt
  try dsimp only
  repeat' first
    | with_reducible exact hc
    | with_reducible assumption
    | with_reducible refine State.setPages_ch ?_ (sub_trans hl rfl)
    | with_reducible refine State.updPool_ch ?_ (sub_trans hl rfl)
    | with_reducible refine State.updReq_ch ?_ (sub_trans hl rfl)
    | split

theorem State.reserve_ch {pl : List Piece} {s0 : State} {s : State} {p : Nat} {v : ServingSpec} {i j : Nat} (hc : Changes pl s0 s) (hl : subPieces [.regs, .vat, .vatCode, .stk, .stkCode, .wcb, .held, .parts, .reqs, .pools, .msixPend, .log, .out, .free] pl = true) :
    Changes pl s0 (State.reserve s p v i j).1 := by
  unfold State.reserve
  try dsimp only
  repeat' first
    | with_reducible exact hc
    | with_reducible assumption
    | with_reducible refine State.allocPage_ch ?_ (sub_trans hl rfl)
    | with_reducible refine State.setPages_ch ?_ (sub_trans hl rfl)
    | with_reducible refine State.updPool_ch ?_ (sub_trans hl rfl)
    | with_reducible refine State.updReq_ch ?_ (sub_trans hl rfl)
    | split

theorem State.reserveAll_ch {pl : List Piece} {s0 : State} {s : State} {p : Nat} {v : ServingSpec} {i : Nat} {js : List Nat} (hc : Changes pl s0 s) (hl : subPieces [.regs, .vat, .vatCode, .stk, .stkCode, .wcb, .held, .parts, .reqs, .pools, .msixPend, .log, .out, .free] pl = true) :
    Changes pl s0 (State.reserveAll s p v i js).1 := by
  unfold State.reserveAll
  try dsimp only
  repeat' first
    | with_reducible exact hc
    | with_reducible assumption
    | with_reducible refine State.reserve_ch ?_ (sub_trans hl rfl)
    | with_reducible refine Changes.foldl ?_ (fun _ _ _ => ?_)
    | with_reducible refine Changes.foldl_fst ?_ (fun _ _ _ => ?_)
    | split

theorem State.releasePages_ch {pl : List Piece} {s0 : State} {s : State} {p i : Nat} (hc : Changes pl s0 s) (hl : subPieces [.regs, .vat, .vatCode, .stk, .stkCode, .wcb, .held, .parts, .reqs, .pools, .msixPend, .log, .out] pl = true) :
    Changes pl s0 (State.releasePages s p i) := by
  unfold State.releasePages
  try dsimp only
  repeat' first
    | with_reducible exact hc
    | with_reducible assumption
    | with_reducible refine State.setPages_ch ?_ (sub_trans hl rfl)
    | with_reducible refine State.updPool_ch ?_ (sub_trans hl rfl)
    | with_reducible refine Changes.foldl ?_ (fun _ _ _ => ?_)
    | with_reducible refine Changes.foldl_fst ?_ (fun _ _ _ => ?_)
    | split

theorem State.freeReq_ch {pl : List Piece} {s0 : State} {s : State} {p i : Nat} (hc : Changes pl s0 s) (hl : subPieces [.regs, .vat, .vatCode, .stk, .stkCode, .wcb, .held, .parts, .reqs, .pools, .msixPend, .log, .out] pl = true) :
    Changes pl s0 (State.freeReq s p i) := by
  unfold State.freeReq
  try dsimp only
  repeat' first
    | with_reducible exact hc
    | with_reducible assumption
    | with_reducible refine State.releasePages_ch ?_ (sub_trans hl rfl)
    | split
    | ((with_reducible refine Changes.mk ?_ ?_); rotate_left; (intro x hx; cases x <;> first | exact (hx (mem_of_sub hl (by decide))).elim | (dsimp only [Piece.put]; done) | (dsimp only [Piece.put]; rfl)))

theorem State.flushNode_ch {pl : List Piece} {s0 : State} {s : State} {p i j : Nat} (hc : Changes pl s0 s) (hl : subPieces [.regs, .vat, .vatCode, .stk, .stkCode, .wcb, .held, .parts, .reqs, .pools, .msixPend, .log, .out] pl = true) :
    Changes pl s0 (State.flushNode s p i j) := by
  unfold State.flushNode
  try dsimp only
  repeat' first
    | with_reducible exact hc
    | with_reducible assumption
    | with_reducible refine State.setPages_ch ?_ (sub_trans hl rfl)
    | with_reducible refine State.updPool_ch ?_ (sub_trans hl rfl)
    | split

theorem State.cutReq_ch {pl : List Piece} {s0 : State} {s : State} {p i j : Nat} (hc : Changes pl s0 s) (hl : subPieces [.regs, .vat, .vatCode, .stk, .stkCode, .wcb, .held, .parts, .reqs, .pools, .msixPend, .log, .out] pl = true) :
    Changes pl s0 (State.cutReq s p i j) := by
  unfold State.cutReq
  try dsimp only
  repeat' first
    | with_reducible exact hc
    | with_reducible assumption
    | with_reducible refine State.setPages_ch ?_ (sub_trans hl rfl)
    | with_reducible refine State.updPool_ch ?_ (sub_trans hl rfl)
    | with_reducible refine State.updReq_ch ?_ (sub_trans hl rfl)
    | with_reducible refine Changes.foldl ?_ (fun _ _ _ => ?_)
    | with_reducible refine Changes.foldl_fst ?_ (fun _ _ _ => ?_)
    | split

theorem State.removePage_ch {pl : List Piece} {s0 : State} {s : State} {p pg : Nat} (hc : Changes pl s0 s) (hl : subPieces [.regs, .vat, .vatCode, .stk, .stkCode, .wcb, .held, .parts, .reqs, .pools, .msixPend, .log, .out] pl = true) :
    Changes pl s0 (State.removePage s p pg) := by
  unfold State.removePage
  try dsimp only
  repeat' first
    | with_reducible exact hc
    | with_reducible assumption
    | with_reducible refine State.cutReq_ch ?_ (sub_trans hl rfl)
    | with_reducible refine State.updPool_ch ?_ (sub_trans hl rfl)
    | with_reducible refine Changes.each ?_ (fun _ _ _ => ?_)
    | split

theorem State.kvVerify_ch {pl : List Piece} {s0 : State} {s : State} {p : Nat} (hc : Changes pl s0 s) (hl : subPieces [.regs, .vat, .vatCode, .stk, .stkCode, .wcb, .held, .parts, .reqs, .pools, .msixPend, .log, .out] pl = true) :
    Changes pl s0 (State.kvVerify s p) := by
  unfold State.kvVerify
  try dsimp only
  repeat' first
    | with_reducible exact hc
    | with_reducible assumption
    | with_reducible refine State.removePage_ch ?_ (sub_trans hl rfl)
    | with_reducible refine State.cutReq_ch ?_ (sub_trans hl rfl)
    | with_reducible refine State.repaired_ch ?_ (sub_trans hl rfl)
    | with_reducible refine State.updPart_ch ?_ (sub_trans hl rfl)
    | with_reducible refine Changes.each ?_ (fun _ _ _ => ?_)
    | split

theorem State.unwithhold_ch {pl : List Piece} {s0 : State} {s : State} {half bank row : Nat} (hc : Changes pl s0 s) (hl : subPieces [.pools] pl = true) :
    Changes pl s0 (State.unwithhold s half bank row) := by
  unfold State.unwithhold
  try dsimp only
  repeat' first
    | with_reducible exact hc
    | with_reducible assumption
    | with_reducible refine Changes.each ?_ (fun _ _ _ => ?_)
    | split
    | ((with_reducible refine Changes.mk ?_ ?_); rotate_left; (intro x hx; cases x <;> first | exact (hx (mem_of_sub hl (by decide))).elim | (dsimp only [Piece.put]; done) | (dsimp only [Piece.put]; rfl)))

theorem State.unshare_ch {pl : List Piece} {s0 : State} {s : State} {p : Nat} {v : ServingSpec} {i k j : Nat} (hc : Changes pl s0 s) (hl : subPieces [.regs, .vat, .vatCode, .stk, .stkCode, .wcb, .held, .parts, .reqs, .pools, .msixPend, .log, .out, .free] pl = true) :
    Changes pl s0 (State.unshare s p v i k j) := by
  unfold State.unshare
  try dsimp only
  repeat' first
    | with_reducible exact hc
    | with_reducible assumption
    | with_reducible refine State.reserve_ch ?_ (sub_trans hl rfl)
    | with_reducible refine State.setPages_ch ?_ (sub_trans hl rfl)
    | with_reducible refine State.updPool_ch ?_ (sub_trans hl rfl)
    | split

theorem State.fork_ch {pl : List Piece} {s0 : State} {s : State} {p i k : Nat} (hc : Changes pl s0 s) (hl : subPieces [.regs, .vat, .vatCode, .stk, .stkCode, .wcb, .held, .parts, .reqs, .pools, .msixPend, .log, .out, .free] pl = true) :
    Changes pl s0 (State.fork s p i k) := by
  unfold State.fork
  try dsimp only
  repeat' first
    | with_reducible exact hc
    | with_reducible assumption
    | with_reducible refine State.unshare_ch ?_ (sub_trans hl rfl)
    | with_reducible refine State.setPages_ch ?_ (sub_trans hl rfl)
    | with_reducible refine State.updPool_ch ?_ (sub_trans hl rfl)
    | with_reducible refine State.updReq_ch ?_ (sub_trans hl rfl)
    | with_reducible refine State.svcPut_ch ?_ (sub_trans hl rfl)
    | with_reducible refine State.vatPut_ch ?_ (sub_trans hl rfl)
    | with_reducible refine Changes.each ?_ (fun _ _ _ => ?_)
    | with_reducible refine Changes.foldl ?_ (fun _ _ _ => ?_)
    | with_reducible refine Changes.foldl_fst ?_ (fun _ _ _ => ?_)
    | split

theorem State.updCq_ch {pl : List Piece} {s0 : State} {s : State} {f : Nat} {g : Cq → Cq} (hc : Changes pl s0 s) (hl : subPieces [.cqs] pl = true) :
    Changes pl s0 (State.updCq s f g) := by
  unfold State.updCq
  try dsimp only
  repeat' first
    | with_reducible exact hc
    | with_reducible assumption
    | split
    | ((with_reducible refine Changes.mk ?_ ?_); rotate_left; (intro x hx; cases x <;> first | exact (hx (mem_of_sub hl (by decide))).elim | (dsimp only [Piece.put]; done) | (dsimp only [Piece.put]; rfl)))

theorem State.cqWrite_ch {pl : List Piece} {s0 : State} {s : State} {f : Nat} {r : List Byte} (hc : Changes pl s0 s) (hl : subPieces [.cqs, .out] pl = true) :
    Changes pl s0 (State.cqWrite s f r) := by
  unfold State.cqWrite
  try dsimp only
  repeat' first
    | with_reducible exact hc
    | with_reducible assumption
    | with_reducible refine State.updCq_ch ?_ (sub_trans hl rfl)
    | with_reducible refine State.emit_ch ?_ (sub_trans hl rfl)
    | split

theorem State.cqPlace_ch {pl : List Piece} {s0 s : State} {f n : Nat} (hc : Changes pl s0 s) (hl : subPieces [.cqs, .out] pl = true) :
    Changes pl s0 (s.cqPlace f n) := by
  induction n generalizing s with
  | zero => exact hc
  | succ n ih =>
    unfold State.cqPlace
    split
    · exact hc
    · split
      · exact ih (State.updCq_ch (State.cqWrite_ch hc (sub_trans hl rfl)) (sub_trans hl rfl))
      · exact hc

theorem State.cqFlush_ch {pl : List Piece} {s0 : State} {s : State} {f : Nat} (hc : Changes pl s0 s) (hl : subPieces [.regs, .cqs, .msixPend, .out] pl = true) :
    Changes pl s0 (State.cqFlush s f) := by
  unfold State.cqFlush
  try dsimp only
  repeat' first
    | with_reducible exact hc
    | with_reducible assumption
    | with_reducible refine State.cqPlace_ch ?_ (sub_trans hl rfl)
    | with_reducible refine State.fnFlag_ch ?_ (sub_trans hl rfl)
    | with_reducible refine State.wr_ch ?_ (sub_trans hl rfl)
    | split

theorem State.putRecord_ch {pl : List Piece} {s0 : State} {s : State} {f : Nat} {r : List Byte} (hc : Changes pl s0 s) (hl : subPieces [.regs, .cqs, .msixPend, .out] pl = true) :
    Changes pl s0 (State.putRecord s f r) := by
  unfold State.putRecord
  try dsimp only
  repeat' first
    | with_reducible exact hc
    | with_reducible assumption
    | with_reducible refine State.cqFlush_ch ?_ (sub_trans hl rfl)
    | with_reducible refine State.updCq_ch ?_ (sub_trans hl rfl)
    | split

theorem State.adminRecord_ch {pl : List Piece} {s0 : State} {s : State} {p f : Nat} {e : OutEntry} (hc : Changes pl s0 s) (hl : subPieces [.regs, .cqs, .msixPend, .out] pl = true) :
    Changes pl s0 (State.adminRecord s p f e) := by
  unfold State.adminRecord
  try dsimp only
  repeat' first
    | with_reducible exact hc
    | with_reducible assumption
    | with_reducible refine State.putRecord_ch ?_ (sub_trans hl rfl)
    | split

theorem State.moderate_ch {pl : List Piece} {s0 : State} {s : State} {f : Nat} (hc : Changes pl s0 s) (hl : subPieces [.cqs, .msixPend, .out] pl = true) :
    Changes pl s0 (State.moderate s f) := by
  unfold State.moderate
  try dsimp only
  repeat' first
    | with_reducible exact hc
    | with_reducible assumption
    | with_reducible refine State.updCq_ch ?_ (sub_trans hl rfl)
    | with_reducible refine State.fire_ch ?_ (sub_trans hl rfl)
    | split

theorem State.cqTail_ch {pl : List Piece} {s0 : State} {s : State} {f : Nat} (hc : Changes pl s0 s) (hl : subPieces [.cqs, .msixPend, .out] pl = true) :
    Changes pl s0 (State.cqTail s f) := by
  unfold State.cqTail
  try dsimp only
  repeat' first
    | with_reducible exact hc
    | with_reducible assumption
    | with_reducible refine State.moderate_ch ?_ (sub_trans hl rfl)
    | with_reducible refine State.updCq_ch ?_ (sub_trans hl rfl)
    | with_reducible refine State.emit_ch ?_ (sub_trans hl rfl)
    | split

theorem State.cqRead_ch {pl : List Piece} {s0 : State} {s : State} {f c : Nat} (hc : Changes pl s0 s) (hl : subPieces [.cqs] pl = true) :
    Changes pl s0 (State.cqRead s f c) := by
  unfold State.cqRead
  try dsimp only
  repeat' first
    | with_reducible exact hc
    | with_reducible assumption
    | with_reducible refine State.updCq_ch ?_ (sub_trans hl rfl)
    | split

theorem State.reserveShip_ch {pl : List Piece} {s0 : State} {s : State} {p vf id len : Nat} (hc : Changes pl s0 s) (hl : subPieces [.regs, .vat, .vatCode, .stk, .stkCode, .wcb, .held, .parts, .reqs, .pools, .msixPend, .log, .out, .free] pl = true) :
    Changes pl s0 (State.reserveShip s p vf id len).1 := by
  unfold State.reserveShip
  try dsimp only
  repeat' first
    | with_reducible exact hc
    | with_reducible assumption
    | with_reducible refine State.freeReq_ch ?_ (sub_trans hl rfl)
    | with_reducible refine State.reserveAll_ch ?_ (sub_trans hl rfl)
    | with_reducible refine State.updReq_ch ?_ (sub_trans hl rfl)
    | with_reducible refine State.drawn_ch ?_ (sub_trans hl rfl)
    | split

theorem State.askShip_ch {pl : List Piece} {s0 : State} {s : State} {p i : Nat} (hc : Changes pl s0 s) (hl : subPieces [.regs, .vat, .vatCode, .stk, .stkCode, .wcb, .held, .parts, .reqs, .pools, .msixPend, .ports, .groups, .log, .out, .free] pl = true) :
    Changes pl s0 (State.askShip s p i) := by
  unfold State.askShip
  try dsimp only
  repeat' first
    | with_reducible exact hc
    | with_reducible assumption
    | with_reducible refine State.reserveShip_ch ?_ (sub_trans hl rfl)
    | with_reducible refine State.updReq_ch ?_ (sub_trans hl rfl)
    | with_reducible refine State.originate_ch ?_ (sub_trans hl rfl)
    | with_reducible refine State.drawn_ch ?_ (sub_trans hl rfl)
    | split

theorem State.placeRow_ch {pl : List Piece} {s0 : State} {s : State} {p : Nat} {v : ServingSpec} {rows : List StepRow} {i : Nat} (hc : Changes pl s0 s) (hl : subPieces [.regs, .vat, .vatCode, .stk, .stkCode, .wcb, .held, .parts, .reqs, .pools, .msixPend, .ports, .groups, .log, .out, .free] pl = true) :
    Changes pl s0 (State.placeRow s p v rows i).1 := by
  unfold State.placeRow
  try dsimp only
  repeat' first
    | with_reducible exact hc
    | with_reducible assumption
    | with_reducible refine State.askShip_ch ?_ (sub_trans hl rfl)
    | with_reducible refine State.releasePages_ch ?_ (sub_trans hl rfl)
    | with_reducible refine State.reserveAll_ch ?_ (sub_trans hl rfl)
    | with_reducible refine State.updReq_ch ?_ (sub_trans hl rfl)
    | split

theorem State.putStepTable_ch {pl : List Piece} {s0 : State} {s : State} {p : Nat} {v : ServingSpec} {rows : List StepRow} (hc : Changes pl s0 s) (hl : subPieces [.vat, .vatCode] pl = true) :
    Changes pl s0 (State.putStepTable s p v rows) := by
  unfold State.putStepTable
  try dsimp only
  repeat' first
    | with_reducible exact hc
    | with_reducible assumption
    | with_reducible refine State.putInts_ch ?_ (sub_trans hl rfl)
    | split

theorem State.putCommit_ch {pl : List Piece} {s0 : State} {s : State} {p : Nat} {v : ServingSpec} {rows : List (StepRow × Bool)} (hc : Changes pl s0 s) (hl : subPieces [.vat, .vatCode] pl = true) :
    Changes pl s0 (State.putCommit s p v rows) := by
  unfold State.putCommit
  try dsimp only
  repeat' first
    | with_reducible exact hc
    | with_reducible assumption
    | with_reducible refine State.putInts_ch ?_ (sub_trans hl rfl)
    | split

theorem State.setCommit_ch {pl : List Piece} {s0 : State} {s : State} {p : Nat} {rows : List (StepRow × Bool)} (hc : Changes pl s0 s) (hl : subPieces [.vat, .vatCode, .parts] pl = true) :
    Changes pl s0 (State.setCommit s p rows) := by
  unfold State.setCommit
  try dsimp only
  repeat' first
    | with_reducible exact hc
    | with_reducible assumption
    | with_reducible refine State.putCommit_ch ?_ (sub_trans hl rfl)
    | with_reducible refine State.updPart_ch ?_ (sub_trans hl rfl)
    | split

theorem State.releaseStep_ch {pl : List Piece} {s0 : State} {s : State} {p : Nat} {v : ServingSpec} {rows : List StepRow} (hc : Changes pl s0 s) (hl : subPieces [.vat, .vatCode, .parts] pl = true) :
    Changes pl s0 (State.releaseStep s p v rows) := by
  unfold State.releaseStep
  try dsimp only
  repeat' first
    | with_reducible exact hc
    | with_reducible assumption
    | with_reducible refine State.putStepTable_ch ?_ (sub_trans hl rfl)
    | with_reducible refine State.updPart_ch ?_ (sub_trans hl rfl)
    | split

theorem State.assemble_ch {pl : List Piece} {s0 : State} {s : State} {p : Nat} (hc : Changes pl s0 s) (hl : subPieces [.regs, .vat, .vatCode, .stk, .stkCode, .wcb, .held, .parts, .reqs, .pools, .msixPend, .ports, .groups, .log, .out, .free] pl = true) :
    Changes pl s0 (State.assemble s p) := by
  unfold State.assemble
  try dsimp only
  repeat' first
    | with_reducible exact hc
    | with_reducible assumption
    | with_reducible refine State.releaseStep_ch ?_ (sub_trans hl rfl)
    | with_reducible refine State.setCommit_ch ?_ (sub_trans hl rfl)
    | with_reducible refine State.placeRow_ch ?_ (sub_trans hl rfl)
    | with_reducible refine Changes.foldl ?_ (fun _ _ _ => ?_)
    | with_reducible refine Changes.foldl_fst ?_ (fun _ _ _ => ?_)
    | split

theorem State.clearCounts_ch {pl : List Piece} {s0 : State} {s : State} {p i : Nat} (hc : Changes pl s0 s) (hl : subPieces [.vat, .vatCode] pl = true) :
    Changes pl s0 (State.clearCounts s p i) := by
  unfold State.clearCounts
  try dsimp only
  repeat' first
    | with_reducible exact hc
    | with_reducible assumption
    | with_reducible refine State.putInts_ch ?_ (sub_trans hl rfl)
    | split

theorem State.submitReq_ch {pl : List Piece} {s0 : State} {s : State} {f : Nat} {b : List Byte} {prompt : List Nat} (hc : Changes pl s0 s) (hl : subPieces [.regs, .quarters, .dieFence, .vat, .vatCode, .work, .plateT, .stk, .stkCode, .maps, .wcb, .held, .press, .burin, .churn, .seqs, .parts, .pcmd, .reqs, .pools, .cqs, .msixPend, .rmt, .ports, .wins, .groups, .sendings, .log, .repair, .boot, .out] pl = true) :
    Changes pl s0 (State.submitReq s f b prompt) := by
  unfold State.submitReq
  try dsimp only
  repeat' first
    | with_reducible exact hc
    | with_reducible assumption
    | with_reducible refine State.clearCounts_ch ?_ (sub_trans hl rfl)
    | with_reducible refine State.adminRecord_ch ?_ (sub_trans hl rfl)
    | with_reducible refine State.matchPrompt_ch ?_ (sub_trans hl rfl)
    | with_reducible refine State.manage_ch ?_ (sub_trans hl rfl) (fun _ _ => ?_)
    | with_reducible refine State.updReq_ch ?_ (sub_trans hl rfl)
    | split

theorem State.cancelReq_ch {pl : List Piece} {s0 : State} {s : State} {f id : Nat} (hc : Changes pl s0 s) (hl : subPieces [.regs, .reqs, .cqs, .msixPend, .out, .free] pl = true) :
    Changes pl s0 (State.cancelReq s f id) := by
  unfold State.cancelReq
  try dsimp only
  repeat' first
    | with_reducible exact hc
    | with_reducible assumption
    | with_reducible refine State.adminRecord_ch ?_ (sub_trans hl rfl)
    | with_reducible refine State.updReq_ch ?_ (sub_trans hl rfl)
    | with_reducible refine State.drawn_ch ?_ (sub_trans hl rfl)
    | split

theorem State.retireReq_ch {pl : List Piece} {s0 : State} {s : State} {p i : Nat} (hc : Changes pl s0 s) (hl : subPieces [.regs, .vat, .vatCode, .stk, .stkCode, .wcb, .held, .parts, .reqs, .pools, .msixPend, .wins, .log, .out] pl = true) :
    Changes pl s0 (State.retireReq s p i) := by
  unfold State.retireReq
  try dsimp only
  repeat' first
    | with_reducible exact hc
    | with_reducible assumption
    | with_reducible refine State.freeReq_ch ?_ (sub_trans hl rfl)
    | with_reducible refine Changes.foldl ?_ (fun _ _ _ => ?_)
    | with_reducible refine Changes.foldl_fst ?_ (fun _ _ _ => ?_)
    | split
    | ((with_reducible refine Changes.mk ?_ ?_); rotate_left; (intro x hx; cases x <;> first | exact (hx (mem_of_sub hl (by decide))).elim | (dsimp only [Piece.put]; done) | (dsimp only [Piece.put]; rfl)))

theorem State.commit_ch {pl : List Piece} {s0 : State} {s : State} {p value : Nat} (hc : Changes pl s0 s) (hl : subPieces [.regs, .vat, .vatCode, .stk, .stkCode, .wcb, .held, .parts, .reqs, .pools, .cqs, .msixPend, .ports, .wins, .groups, .log, .out, .free] pl = true) :
    Changes pl s0 (State.commit s p value) := by
  unfold State.commit
  try dsimp only
  repeat' first
    | with_reducible exact hc
    | with_reducible assumption
    | with_reducible refine State.retireReq_ch ?_ (sub_trans hl rfl)
    | with_reducible refine State.assemble_ch ?_ (sub_trans hl rfl)
    | with_reducible refine State.setCommit_ch ?_ (sub_trans hl rfl)
    | with_reducible refine State.putRecord_ch ?_ (sub_trans hl rfl)
    | with_reducible refine State.updReq_ch ?_ (sub_trans hl rfl)
    | with_reducible refine State.updPart_ch ?_ (sub_trans hl rfl)
    | with_reducible refine Changes.each ?_ (fun _ _ _ => ?_)
    | with_reducible refine Changes.foldl ?_ (fun _ _ _ => ?_)
    | with_reducible refine Changes.foldl_fst ?_ (fun _ _ _ => ?_)
    | split

theorem State.takeNotice_ch {pl : List Piece} {s0 : State} {s : State} {p : Nat} {want : Nat → Bool} {f : State → Nat → State} (hc : Changes pl s0 s) (hl : subPieces [.parts] pl = true) (hf : ∀ s, Changes pl s0 s → ∀ x0, Changes pl s0 (f s x0)) :
    Changes pl s0 (State.takeNotice s p want f) := by
  unfold State.takeNotice
  try dsimp only
  repeat' first
    | with_reducible exact hc
    | with_reducible assumption
    | with_reducible refine hf _ ?_ _
    | with_reducible refine State.updPart_ch ?_ (sub_trans hl rfl)
    | split

theorem State.startSend_ch {pl : List Piece} {s0 : State} {s : State} {p i : Nat} (hc : Changes pl s0 s) (hl : subPieces [.regs, .sendings, .free] pl = true) :
    Changes pl s0 (State.startSend s p i) := by
  unfold State.startSend
  try dsimp only
  repeat' first
    | with_reducible exact hc
    | with_reducible assumption
    | with_reducible refine State.edgeUse_ch ?_ (sub_trans hl rfl)
    | split
    | ((with_reducible refine Changes.mk ?_ ?_); rotate_left; (intro x hx; cases x <;> first | exact (hx (mem_of_sub hl (by decide))).elim | (dsimp only [Piece.put]; done) | (dsimp only [Piece.put]; rfl)))

theorem State.sendGrant_ch {pl : List Piece} {s0 : State} {s : State} {p g lq win use : Nat} {feeds : List Nat} (hc : Changes pl s0 s) (hl : subPieces [.ports, .groups] pl = true) :
    Changes pl s0 (State.sendGrant s p g lq win use feeds) := by
  unfold State.sendGrant
  try dsimp only
  repeat' first
    | with_reducible exact hc
    | with_reducible assumption
    | with_reducible refine State.originate_ch ?_ (sub_trans hl rfl)
    | split

theorem State.grantUse_ch {pl : List Piece} {s0 : State} {s : State} {p lq win use : Nat} (hc : Changes pl s0 s) (hl : subPieces [.ports, .groups] pl = true) :
    Changes pl s0 (State.grantUse s p lq win use) := by
  unfold State.grantUse
  try dsimp only
  repeat' first
    | with_reducible exact hc
    | with_reducible assumption
    | with_reducible refine State.sendGrant_ch ?_ (sub_trans hl rfl)
    | with_reducible refine State.updGroup_ch ?_ (sub_trans hl rfl)
    | split

theorem State.nextCell_ch {pl : List Piece} {s0 : State} {s : State} {j : Nat} (hc : Changes pl s0 s) (hl : subPieces [.regs, .ports, .groups, .sendings] pl = true) :
    Changes pl s0 (State.nextCell s j).1 := by
  unfold State.nextCell
  try dsimp only
  repeat' first
    | with_reducible exact hc
    | with_reducible assumption
    | with_reducible refine State.noteLeft_ch ?_ (sub_trans hl rfl)
    | with_reducible refine State.updPort_ch ?_ (sub_trans hl rfl)
    | with_reducible refine State.incSat_ch ?_ (sub_trans hl rfl)
    | split
    | ((with_reducible refine Changes.mk ?_ ?_); rotate_left; (intro x hx; cases x <;> first | exact (hx (mem_of_sub hl (by decide))).elim | (dsimp only [Piece.put]; done) | (dsimp only [Piece.put]; rfl)))

theorem State.fillSlots_ch {pl : List Piece} {s0 s : State} {j n : Nat} (hc : Changes pl s0 s) (hl : subPieces [.regs, .ports, .groups, .sendings] pl = true) :
    Changes pl s0 (s.fillSlots j n).1 := by
  induction n generalizing s with
  | zero => exact hc
  | succ n ih =>
    unfold State.fillSlots
    dsimp only
    split <;> exact ih (State.nextCell_ch hc (sub_trans hl rfl))

theorem State.transmit_ch {pl : List Piece} {s0 : State} {s : State} {j : Nat} (hc : Changes pl s0 s) (hl : subPieces [.regs, .msixPend, .rmt, .ports, .wins, .groups, .sendings, .log, .repair, .out] pl = true) :
    Changes pl s0 (State.transmit s j) := by
  unfold State.transmit
  try dsimp only
  repeat' first
    | with_reducible exact hc
    | with_reducible assumption
    | with_reducible refine State.fillSlots_ch ?_ (sub_trans hl rfl)
    | with_reducible refine State.portDown_ch ?_ (sub_trans hl rfl)
    | with_reducible refine State.updPort_ch ?_ (sub_trans hl rfl)
    | with_reducible refine State.fault_ch ?_ (sub_trans hl rfl)
    | with_reducible refine State.emit_ch ?_ (sub_trans hl rfl)
    | split

theorem State.countDrop_ch {pl : List Piece} {s0 : State} {s : State} {j : Nat} (hc : Changes pl s0 s) (hl : subPieces [.regs, .msixPend, .ports, .log, .out] pl = true) :
    Changes pl s0 (State.countDrop s j) := by
  unfold State.countDrop
  try dsimp only
  repeat' first
    | with_reducible exact hc
    | with_reducible assumption
    | with_reducible refine State.setPortState_ch ?_ (sub_trans hl rfl)
    | with_reducible refine State.updPort_ch ?_ (sub_trans hl rfl)
    | with_reducible refine State.fault_ch ?_ (sub_trans hl rfl)
    | split

theorem State.dropCell_ch {pl : List Piece} {s0 : State} {s : State} {j : Nat} {c : LCell} {cause : Nat} (hc : Changes pl s0 s) (hl : subPieces [.regs, .msixPend, .ports, .wins, .log, .out] pl = true) :
    Changes pl s0 (State.dropCell s j c cause) := by
  unfold State.dropCell
  try dsimp only
  repeat' first
    | with_reducible exact hc
    | with_reducible assumption
    | with_reducible refine State.countDrop_ch ?_ (sub_trans hl rfl)
    | with_reducible refine State.updWin_ch ?_ (sub_trans hl rfl)
    | with_reducible refine State.inc_ch ?_ (sub_trans hl rfl)
    | split

theorem State.takeCell_ch {pl : List Piece} {s0 : State} {s : State} {j : Nat} {c : LCell} (hc : Changes pl s0 s) (hl : subPieces [.ports] pl = true) :
    Changes pl s0 (State.takeCell s j c) := by
  unfold State.takeCell
  try dsimp only
  repeat' first
    | with_reducible exact hc
    | with_reducible assumption
    | with_reducible refine State.updPort_ch ?_ (sub_trans hl rfl)
    | split

theorem State.accept_ch {pl : List Piece} {s0 : State} {s : State} {j : Nat} {c : LCell} {typ : Nat} (hc : Changes pl s0 s) (hl : subPieces [.regs, .msixPend, .ports, .wins, .log, .out] pl = true) :
    Changes pl s0 (State.accept s j c typ).1 := by
  unfold State.accept
  try dsimp only
  repeat' first
    | with_reducible exact hc
    | with_reducible assumption
    | with_reducible refine State.takeCell_ch ?_ (sub_trans hl rfl)
    | with_reducible refine State.dropCell_ch ?_ (sub_trans hl rfl)
    | split

theorem State.countCell_ch {pl : List Piece} {s0 : State} {s : State} {k bytes : Nat} (hc : Changes pl s0 s) (hl : subPieces [.wins] pl = true) :
    Changes pl s0 (State.countCell s k bytes) := by
  unfold State.countCell
  try dsimp only
  repeat' first
    | with_reducible exact hc
    | with_reducible assumption
    | with_reducible refine State.updWin_ch ?_ (sub_trans hl rfl)
    | split

theorem State.landWord_ch {pl : List Piece} {s0 : State} {s : State} {k : Nat} {w : Win} {b : Nat} {d : W256} {code : W16} {cell bytes : Nat} (hc : Changes pl s0 s) (hl : subPieces [.regs, .vat, .vatCode, .stk, .stkCode, .wcb, .held, .msixPend, .wins, .log, .repair, .out, .free] pl = true) :
    Changes pl s0 (State.landWord s k w b d code cell bytes) := by
  unfold State.landWord
  try dsimp only
  repeat' first
    | with_reducible exact hc
    | with_reducible assumption
    | with_reducible refine State.refetchLanded_ch ?_ (sub_trans hl rfl)
    | with_reducible refine State.hold_ch ?_ (sub_trans hl rfl)
    | with_reducible refine State.svcLand_ch ?_ (sub_trans hl rfl)
    | with_reducible refine State.edgeUse_ch ?_ (sub_trans hl rfl)
    | with_reducible refine State.vatRaw_ch ?_ (sub_trans hl rfl)
    | with_reducible refine State.logEvent_ch ?_ (sub_trans hl rfl)
    | with_reducible refine Changes.pick ?_ ?_ ?_
    | split

theorem State.acceptCell_ch {pl : List Piece} {s0 : State} {s : State} {j : Nat} {c : LCell} (hc : Changes pl s0 s) (hl : subPieces [.regs, .vat, .vatCode, .stk, .stkCode, .wcb, .held, .cellSeq, .msixPend, .wins, .log, .repair, .out, .free] pl = true) :
    Changes pl s0 (State.acceptCell s j c) := by
  unfold State.acceptCell
  try dsimp only
  repeat' first
    | with_reducible exact hc
    | with_reducible assumption
    | with_reducible refine State.landWord_ch ?_ (sub_trans hl rfl)
    | with_reducible refine State.countCell_ch ?_ (sub_trans hl rfl)
    | split
    | ((with_reducible refine Changes.mk ?_ ?_); rotate_left; (intro x hx; cases x <;> first | exact (hx (mem_of_sub hl (by decide))).elim | (dsimp only [Piece.put]; done) | (dsimp only [Piece.put]; rfl)))

theorem State.writeCell_ch {pl : List Piece} {s0 : State} {s : State} {j : Nat} {c : LCell} (hc : Changes pl s0 s) (hl : subPieces [.regs, .vat, .vatCode, .stk, .stkCode, .wcb, .held, .cellSeq, .msixPend, .ports, .wins, .log, .repair, .out, .free] pl = true) :
    Changes pl s0 (State.writeCell s j c) := by
  unfold State.writeCell
  try dsimp only
  repeat' first
    | with_reducible exact hc
    | with_reducible assumption
    | with_reducible refine State.acceptCell_ch ?_ (sub_trans hl rfl)
    | with_reducible refine State.accept_ch ?_ (sub_trans hl rfl)
    | with_reducible refine State.dropCell_ch ?_ (sub_trans hl rfl)
    | split

theorem State.quarantineClear_ch {pl : List Piece} {s0 : State} {s : State} {j : Nat} (hc : Changes pl s0 s) (hl : subPieces [.regs, .ports] pl = true) :
    Changes pl s0 (State.quarantineClear s j) := by
  unfold State.quarantineClear
  try dsimp only
  repeat' first
    | with_reducible exact hc
    | with_reducible assumption
    | with_reducible refine State.setPortState_ch ?_ (sub_trans hl rfl)
    | split

theorem State.countSymbols_ch {pl : List Piece} {s0 : State} {s : State} {j : Nat} {cs : List (Nat × Nat)} (hc : Changes pl s0 s) (hl : subPieces [.regs, .ports] pl = true) :
    Changes pl s0 (State.countSymbols s j cs) := by
  unfold State.countSymbols
  try dsimp only
  repeat' first
    | with_reducible exact hc
    | with_reducible assumption
    | with_reducible refine State.updPort_ch ?_ (sub_trans hl rfl)
    | with_reducible refine State.incSat_ch ?_ (sub_trans hl rfl)
    | with_reducible refine Changes.foldl ?_ (fun _ _ _ => ?_)
    | with_reducible refine Changes.foldl_fst ?_ (fun _ _ _ => ?_)
    | split

theorem State.sendNak_ch {pl : List Piece} {s0 : State} {s : State} {j : Nat} (hc : Changes pl s0 s) (hl : subPieces [.regs, .ports] pl = true) :
    Changes pl s0 (State.sendNak s j) := by
  unfold State.sendNak
  try dsimp only
  repeat' first
    | with_reducible exact hc
    | with_reducible assumption
    | with_reducible refine State.updPort_ch ?_ (sub_trans hl rfl)
    | with_reducible refine State.incSat_ch ?_ (sub_trans hl rfl)
    | split

theorem State.discard_ch {pl : List Piece} {s0 : State} {s : State} {j : Nat} (hc : Changes pl s0 s) (hl : subPieces [.regs, .msixPend, .rmt, .ports, .wins, .groups, .sendings, .log, .repair, .out] pl = true) :
    Changes pl s0 (State.discard s j) := by
  unfold State.discard
  try dsimp only
  repeat' first
    | with_reducible exact hc
    | with_reducible assumption
    | with_reducible refine State.sendNak_ch ?_ (sub_trans hl rfl)
    | with_reducible refine State.portDown_ch ?_ (sub_trans hl rfl)
    | with_reducible refine State.updPort_ch ?_ (sub_trans hl rfl)
    | split

theorem State.finishSends_ch {pl : List Piece} {s0 : State} {s : State} {j : Nat} (hc : Changes pl s0 s) (hl : subPieces [.parts, .sendings] pl = true) :
    Changes pl s0 (State.finishSends s j) := by
  unfold State.finishSends
  try dsimp only
  repeat' first
    | with_reducible exact hc
    | with_reducible assumption
    | with_reducible refine State.updPart_ch ?_ (sub_trans hl rfl)
    | with_reducible refine Changes.each ?_ (fun _ _ _ => ?_)
    | split
    | ((with_reducible refine Changes.mk ?_ ?_); rotate_left; (intro x hx; cases x <;> first | exact (hx (mem_of_sub hl (by decide))).elim | (dsimp only [Piece.put]; done) | (dsimp only [Piece.put]; rfl)))

theorem State.acked_ch {pl : List Piece} {s0 : State} {s : State} {j seq : Nat} (hc : Changes pl s0 s) (hl : subPieces [.parts, .ports, .sendings] pl = true) :
    Changes pl s0 (State.acked s j seq) := by
  unfold State.acked
  try dsimp only
  repeat' first
    | with_reducible exact hc
    | with_reducible assumption
    | with_reducible refine State.finishSends_ch ?_ (sub_trans hl rfl)
    | with_reducible refine State.updPort_ch ?_ (sub_trans hl rfl)
    | split

theorem State.handleTag_ch {pl : List Piece} {s0 : State} {s : State} {j : Nat} {t : LTag} (hc : Changes pl s0 s) (hl : subPieces [.parts, .ports, .sendings] pl = true) :
    Changes pl s0 (State.handleTag s j t) := by
  unfold State.handleTag
  try dsimp only
  repeat' first
    | with_reducible exact hc
    | with_reducible assumption
    | with_reducible refine State.acked_ch ?_ (sub_trans hl rfl)
    | with_reducible refine State.updPort_ch ?_ (sub_trans hl rfl)
    | split

theorem State.deliver_ch {pl : List Piece} {s0 : State} {s : State} {j : Nat} {c : LCell} (hc : Changes pl s0 s) (hl : subPieces [.regs, .msixPend, .rmt, .ports, .wins, .groups, .sendings, .log, .repair, .out, .free] pl = true) :
    Changes pl s0 (State.deliver s j c) := by
  unfold State.deliver
  try dsimp only
  repeat' first
    | with_reducible exact hc
    | with_reducible assumption
    | with_reducible refine State.takeCell_ch ?_ (sub_trans hl rfl)
    | with_reducible refine State.dropCell_ch ?_ (sub_trans hl rfl)
    | with_reducible refine State.portDown_ch ?_ (sub_trans hl rfl)
    | with_reducible refine State.updPort_ch ?_ (sub_trans hl rfl)
    | with_reducible refine State.drawn_ch ?_ (sub_trans hl rfl)
    | with_reducible refine State.incSat_ch ?_ (sub_trans hl rfl)
    | split

theorem State.receiveCell_ch {pl : List Piece} {s0 : State} {s : State} {j : Nat} {c : LCell} (hc : Changes pl s0 s) (hl : subPieces [.regs, .msixPend, .rmt, .ports, .wins, .groups, .sendings, .log, .repair, .out, .free] pl = true) :
    Changes pl s0 (State.receiveCell s j c) := by
  unfold State.receiveCell
  try dsimp only
  repeat' first
    | with_reducible exact hc
    | with_reducible assumption
    | with_reducible refine State.deliver_ch ?_ (sub_trans hl rfl)
    | split

theorem State.receive_ch {pl : List Piece} {s0 : State} {s : State} {j : Nat} {w : Codeword} (hc : Changes pl s0 s) (hl : subPieces [.regs, .parts, .msixPend, .rmt, .ports, .wins, .groups, .sendings, .log, .repair, .out, .free] pl = true) :
    Changes pl s0 (State.receive s j w) := by
  unfold State.receive
  try dsimp only
  repeat' first
    | with_reducible exact hc
    | with_reducible assumption
    | with_reducible refine State.receiveCell_ch ?_ (sub_trans hl rfl)
    | with_reducible refine State.handleTag_ch ?_ (sub_trans hl rfl)
    | with_reducible refine State.discard_ch ?_ (sub_trans hl rfl)
    | with_reducible refine State.countSymbols_ch ?_ (sub_trans hl rfl)
    | with_reducible refine State.updPort_ch ?_ (sub_trans hl rfl)
    | with_reducible refine State.incSat_ch ?_ (sub_trans hl rfl)
    | with_reducible refine Changes.each ?_ (fun _ _ _ => ?_)
    | split

theorem State.winOpen_ch {pl : List Piece} {s0 : State} {s : State} {d : Nat} (hc : Changes pl s0 s) (hl : subPieces [.regs, .msixPend, .wins, .log, .out] pl = true) :
    Changes pl s0 (State.winOpen s d) := by
  unfold State.winOpen
  try dsimp only
  repeat' first
    | with_reducible exact hc
    | with_reducible assumption
    | with_reducible refine State.updWin_ch ?_ (sub_trans hl rfl)
    | with_reducible refine State.logEvent_ch ?_ (sub_trans hl rfl)
    | split

theorem State.winClose_ch {pl : List Piece} {s0 : State} {s : State} {d : Nat} (hc : Changes pl s0 s) (hl : subPieces [.wins] pl = true) :
    Changes pl s0 (State.winClose s d) := by
  unfold State.winClose
  try dsimp only
  repeat' first
    | with_reducible exact hc
    | with_reducible assumption
    | with_reducible refine State.closeWin_ch ?_ (sub_trans hl rfl)
    | with_reducible refine State.updWin_ch ?_ (sub_trans hl rfl)
    | split

theorem State.formGroup_ch {pl : List Piece} {s0 : State} {s : State} {p : Nat} {v : GroupSpec} (hc : Changes pl s0 s) (hl : subPieces [.ports, .groups] pl = true) :
    Changes pl s0 (State.formGroup s p v) := by
  unfold State.formGroup
  try dsimp only
  repeat' first
    | with_reducible exact hc
    | with_reducible assumption
    | with_reducible refine State.originate_ch ?_ (sub_trans hl rfl)
    | with_reducible refine State.updGroup_ch ?_ (sub_trans hl rfl)
    | split

theorem State.checkOpen_ch {pl : List Piece} {s0 : State} {s : State} {p g : Nat} (hc : Changes pl s0 s) (hl : subPieces [.ports, .groups] pl = true) :
    Changes pl s0 (State.checkOpen s p g) := by
  unfold State.checkOpen
  try dsimp only
  repeat' first
    | with_reducible exact hc
    | with_reducible assumption
    | with_reducible refine State.sendGrant_ch ?_ (sub_trans hl rfl)
    | with_reducible refine State.updGroup_ch ?_ (sub_trans hl rfl)
    | with_reducible refine Changes.each ?_ (fun _ _ _ => ?_)
    | split

theorem State.updLink_ch {pl : List Piece} {s0 : State} {s : State} {k j : Nat} {f : GLink → GLink} (hc : Changes pl s0 s) (hl : subPieces [.groups] pl = true) :
    Changes pl s0 (State.updLink s k j f) := by
  unfold State.updLink
  try dsimp only
  repeat' first
    | with_reducible exact hc
    | with_reducible assumption
    | split
    | ((with_reducible refine Changes.mk ?_ ?_); rotate_left; (intro x hx; cases x <;> first | exact (hx (mem_of_sub hl (by decide))).elim | (dsimp only [Piece.put]; done) | (dsimp only [Piece.put]; rfl)))

theorem State.admitNotice_ch {pl : List Piece} {s0 : State} {s : State} {j : Nat} {c : LCell} {kind : Nat} (hc : Changes pl s0 s) (hl : subPieces [.regs, .msixPend, .ports, .wins, .log, .out] pl = true) :
    Changes pl s0 (State.admitNotice s j c kind).1 := by
  unfold State.admitNotice
  try dsimp only
  repeat' first
    | with_reducible exact hc
    | with_reducible assumption
    | with_reducible refine State.accept_ch ?_ (sub_trans hl rfl)
    | split

theorem State.onNotice_ch {pl : List Piece} {s0 : State} {s : State} {j : Nat} {c : LCell} {kind : Nat} {f : State → Nat → State} (hc : Changes pl s0 s) (hl : subPieces [.regs, .msixPend, .ports, .wins, .log, .out] pl = true) (hf : ∀ s, Changes pl s0 s → ∀ x0, Changes pl s0 (f s x0)) :
    Changes pl s0 (State.onNotice s j c kind f) := by
  unfold State.onNotice
  try dsimp only
  repeat' first
    | with_reducible exact hc
    | with_reducible assumption
    | with_reducible refine hf _ ?_ _
    | with_reducible refine State.admitNotice_ch ?_ (sub_trans hl rfl)
    | with_reducible refine State.dropCell_ch ?_ (sub_trans hl rfl)
    | split

theorem State.recvForm_ch {pl : List Piece} {s0 : State} {s : State} {j : Nat} {c : LCell} (hc : Changes pl s0 s) (hl : subPieces [.regs, .msixPend, .ports, .wins, .groups, .log, .out] pl = true) :
    Changes pl s0 (State.recvForm s j c) := by
  unfold State.recvForm
  try dsimp only
  repeat' first
    | with_reducible exact hc
    | with_reducible assumption
    | with_reducible refine State.admitNotice_ch ?_ (sub_trans hl rfl)
    | with_reducible refine State.updLink_ch ?_ (sub_trans hl rfl)
    | with_reducible refine State.checkOpen_ch ?_ (sub_trans hl rfl)
    | with_reducible refine State.dropCell_ch ?_ (sub_trans hl rfl)
    | with_reducible refine State.originate_ch ?_ (sub_trans hl rfl)
    | with_reducible refine State.logEvent_ch ?_ (sub_trans hl rfl)
    | split
    | ((with_reducible refine Changes.mk ?_ ?_); rotate_left; (intro x hx; cases x <;> first | exact (hx (mem_of_sub hl (by decide))).elim | (dsimp only [Piece.put]; done) | (dsimp only [Piece.put]; rfl)))

theorem State.recvFormAck_ch {pl : List Piece} {s0 : State} {s : State} {j : Nat} {c : LCell} (hc : Changes pl s0 s) (hl : subPieces [.regs, .msixPend, .ports, .wins, .groups, .log, .out] pl = true) :
    Changes pl s0 (State.recvFormAck s j c) := by
  unfold State.recvFormAck
  try dsimp only
  repeat' first
    | with_reducible exact hc
    | with_reducible assumption
    | with_reducible refine State.onNotice_ch ?_ (sub_trans hl rfl) (fun _ _ _ => ?_)
    | with_reducible refine State.updLink_ch ?_ (sub_trans hl rfl)
    | with_reducible refine State.checkOpen_ch ?_ (sub_trans hl rfl)
    | split

theorem State.noteShipGrant_ch {pl : List Piece} {s0 : State} {s : State} {j k n use : Nat} (hc : Changes pl s0 s) (hl : subPieces [.reqs, .wins] pl = true) :
    Changes pl s0 (State.noteShipGrant s j k n use) := by
  unfold State.noteShipGrant
  try dsimp only
  repeat' first
    | with_reducible exact hc
    | with_reducible assumption
    | with_reducible refine State.updReq_ch ?_ (sub_trans hl rfl)
    | with_reducible refine State.updWin_ch ?_ (sub_trans hl rfl)
    | split

theorem State.recvGrant_ch {pl : List Piece} {s0 : State} {s : State} {j : Nat} {c : LCell} (hc : Changes pl s0 s) (hl : subPieces [.regs, .reqs, .msixPend, .ports, .wins, .groups, .log, .out] pl = true) :
    Changes pl s0 (State.recvGrant s j c) := by
  unfold State.recvGrant
  try dsimp only
  repeat' first
    | with_reducible exact hc
    | with_reducible assumption
    | with_reducible refine State.noteShipGrant_ch ?_ (sub_trans hl rfl)
    | with_reducible refine State.onNotice_ch ?_ (sub_trans hl rfl) (fun _ _ _ => ?_)
    | split
    | ((with_reducible refine Changes.mk ?_ ?_); rotate_left; (intro x hx; cases x <;> first | exact (hx (mem_of_sub hl (by decide))).elim | (dsimp only [Piece.put]; done) | (dsimp only [Piece.put]; rfl)))

theorem State.noteSeq_ch {pl : List Piece} {s0 : State} {s : State} {k : Nat} {c : LCell} (hc : Changes pl s0 s) (hl : subPieces [.groups] pl = true) :
    Changes pl s0 (State.noteSeq s k c) := by
  unfold State.noteSeq
  try dsimp only
  repeat' first
    | with_reducible exact hc
    | with_reducible assumption
    | split
    | ((with_reducible refine Changes.mk ?_ ?_); rotate_left; (intro x hx; cases x <;> first | exact (hx (mem_of_sub hl (by decide))).elim | (dsimp only [Piece.put]; done) | (dsimp only [Piece.put]; rfl)))

theorem State.setSlow_ch {pl : List Piece} {s0 : State} {s : State} {k origin factor until_ : Nat} (hc : Changes pl s0 s) (hl : subPieces [.groups] pl = true) :
    Changes pl s0 (State.setSlow s k origin factor until_) := by
  unfold State.setSlow
  try dsimp only
  repeat' first
    | with_reducible exact hc
    | with_reducible assumption
    | split
    | ((with_reducible refine Changes.mk ?_ ?_); rotate_left; (intro x hx; cases x <;> first | exact (hx (mem_of_sub hl (by decide))).elim | (dsimp only [Piece.put]; done) | (dsimp only [Piece.put]; rfl)))

theorem State.recvSlow_ch {pl : List Piece} {s0 : State} {s : State} {j : Nat} {c : LCell} (hc : Changes pl s0 s) (hl : subPieces [.regs, .msixPend, .ports, .wins, .groups, .log, .out] pl = true) :
    Changes pl s0 (State.recvSlow s j c) := by
  unfold State.recvSlow
  try dsimp only
  repeat' first
    | with_reducible exact hc
    | with_reducible assumption
    | with_reducible refine State.setSlow_ch ?_ (sub_trans hl rfl)
    | with_reducible refine State.noteSeq_ch ?_ (sub_trans hl rfl)
    | with_reducible refine State.onNotice_ch ?_ (sub_trans hl rfl) (fun _ _ _ => ?_)
    | with_reducible refine State.sendLinks_ch ?_ (sub_trans hl rfl)
    | split

theorem State.recvWithdraw_ch {pl : List Piece} {s0 : State} {s : State} {j : Nat} {c : LCell} (hc : Changes pl s0 s) (hl : subPieces [.regs, .msixPend, .ports, .wins, .groups, .sendings, .log, .out] pl = true) :
    Changes pl s0 (State.recvWithdraw s j c) := by
  unfold State.recvWithdraw
  try dsimp only
  repeat' first
    | with_reducible exact hc
    | with_reducible assumption
    | with_reducible refine State.noteSeq_ch ?_ (sub_trans hl rfl)
    | with_reducible refine State.onNotice_ch ?_ (sub_trans hl rfl) (fun _ _ _ => ?_)
    | with_reducible refine State.updLink_ch ?_ (sub_trans hl rfl)
    | with_reducible refine State.pollClosing_ch ?_ (sub_trans hl rfl)
    | with_reducible refine State.markWithdrawn_ch ?_ (sub_trans hl rfl)
    | with_reducible refine State.sendLinks_ch ?_ (sub_trans hl rfl)
    | split

theorem State.shipWin_ch {pl : List Piece} {s0 : State} {s : State} {p d : Nat} {x : Ship} {state : Nat} (hc : Changes pl s0 s) (hl : subPieces [.wins, .free] pl = true) :
    Changes pl s0 (State.shipWin s p d x state).1 := by
  unfold State.shipWin
  try dsimp only
  repeat' first
    | with_reducible exact hc
    | with_reducible assumption
    | with_reducible refine State.updWin_ch ?_ (sub_trans hl rfl)
    | with_reducible refine State.drawn_ch ?_ (sub_trans hl rfl)
    | split

theorem State.endShipWin_ch {pl : List Piece} {s0 : State} {s : State} {k : Nat} (hc : Changes pl s0 s) (hl : subPieces [.wins] pl = true) :
    Changes pl s0 (State.endShipWin s k) := by
  unfold State.endShipWin
  try dsimp only
  repeat' first
    | with_reducible exact hc
    | with_reducible assumption
    | with_reducible refine State.updWin_ch ?_ (sub_trans hl rfl)
    | split

theorem State.grantShip_ch {pl : List Piece} {s0 : State} {s : State} {k : Nat} {x : Ship} {use : Nat} (hc : Changes pl s0 s) (hl : subPieces [.ports, .groups] pl = true) :
    Changes pl s0 (State.grantShip s k x use) := by
  unfold State.grantShip
  try dsimp only
  repeat' first
    | with_reducible exact hc
    | with_reducible assumption
    | with_reducible refine State.originate_ch ?_ (sub_trans hl rfl)
    | split

theorem State.answerShip_ch {pl : List Piece} {s0 : State} {s : State} {k j id : Nat} {grant : Option (Nat × Nat)} (hc : Changes pl s0 s) (hl : subPieces [.ports, .groups] pl = true) :
    Changes pl s0 (State.answerShip s k j id grant) := by
  unfold State.answerShip
  try dsimp only
  repeat' first
    | with_reducible exact hc
    | with_reducible assumption
    | with_reducible refine State.originate_ch ?_ (sub_trans hl rfl)
    | split

theorem State.shipTarget_ch {pl : List Piece} {s0 : State} {s : State} {j k : Nat} {c : LCell} (hc : Changes pl s0 s) (hl : subPieces [.regs, .vat, .vatCode, .stk, .stkCode, .wcb, .held, .parts, .reqs, .pools, .msixPend, .ports, .wins, .groups, .log, .out, .free] pl = true) :
    Changes pl s0 (State.shipTarget s j k c) := by
  unfold State.shipTarget
  try dsimp only
  repeat' first
    | with_reducible exact hc
    | with_reducible assumption
    | with_reducible refine State.answerShip_ch ?_ (sub_trans hl rfl)
    | with_reducible refine State.shipWin_ch ?_ (sub_trans hl rfl)
    | with_reducible refine State.reserveShip_ch ?_ (sub_trans hl rfl)
    | with_reducible refine State.freeReq_ch ?_ (sub_trans hl rfl)
    | with_reducible refine State.checkTree_ch ?_ (sub_trans hl rfl)
    | with_reducible refine State.updReq_ch ?_ (sub_trans hl rfl)
    | split

theorem State.shipOnward_ch {pl : List Piece} {s0 : State} {s : State} {j k out : Nat} {c : LCell} (hc : Changes pl s0 s) (hl : subPieces [.ports, .wins, .groups, .free] pl = true) :
    Changes pl s0 (State.shipOnward s j k out c) := by
  unfold State.shipOnward
  try dsimp only
  repeat' first
    | with_reducible exact hc
    | with_reducible assumption
    | with_reducible refine State.answerShip_ch ?_ (sub_trans hl rfl)
    | with_reducible refine State.shipWin_ch ?_ (sub_trans hl rfl)
    | with_reducible refine State.egress_ch ?_ (sub_trans hl rfl)
    | split

theorem State.recvShipReq_ch {pl : List Piece} {s0 : State} {s : State} {j : Nat} {c : LCell} (hc : Changes pl s0 s) (hl : subPieces [.regs, .vat, .vatCode, .stk, .stkCode, .wcb, .held, .parts, .reqs, .pools, .msixPend, .ports, .wins, .groups, .log, .out, .free] pl = true) :
    Changes pl s0 (State.recvShipReq s j c) := by
  unfold State.recvShipReq
  try dsimp only
  repeat' first
    | with_reducible exact hc
    | with_reducible assumption
    | with_reducible refine State.shipOnward_ch ?_ (sub_trans hl rfl)
    | with_reducible refine State.shipTarget_ch ?_ (sub_trans hl rfl)
    | with_reducible refine State.onNotice_ch ?_ (sub_trans hl rfl) (fun _ _ _ => ?_)
    | split

theorem State.shipFailed_ch {pl : List Piece} {s0 : State} {s : State} {p i : Nat} (hc : Changes pl s0 s) (hl : subPieces [.regs, .vat, .vatCode, .stk, .stkCode, .wcb, .held, .parts, .reqs, .pools, .cqs, .msixPend, .log, .out] pl = true) :
    Changes pl s0 (State.shipFailed s p i) := by
  unfold State.shipFailed
  try dsimp only
  repeat' first
    | with_reducible exact hc
    | with_reducible assumption
    | with_reducible refine State.adminRecord_ch ?_ (sub_trans hl rfl)
    | with_reducible refine State.freeReq_ch ?_ (sub_trans hl rfl)
    | split

theorem State.shipGranted_ch {pl : List Piece} {s0 : State} {s : State} {j k : Nat} {c : LCell} (hc : Changes pl s0 s) (hl : subPieces [.regs, .vat, .vatCode, .stk, .stkCode, .wcb, .held, .parts, .reqs, .pools, .cqs, .msixPend, .ports, .groups, .sendings, .log, .out, .free] pl = true) :
    Changes pl s0 (State.shipGranted s j k c) := by
  unfold State.shipGranted
  try dsimp only
  repeat' first
    | with_reducible exact hc
    | with_reducible assumption
    | with_reducible refine State.shipFailed_ch ?_ (sub_trans hl rfl)
    | with_reducible refine State.assemble_ch ?_ (sub_trans hl rfl)
    | with_reducible refine State.updReq_ch ?_ (sub_trans hl rfl)
    | split
    | ((with_reducible refine Changes.mk ?_ ?_); rotate_left; (intro x hx; cases x <;> first | exact (hx (mem_of_sub hl (by decide))).elim | (dsimp only [Piece.put]; done) | (dsimp only [Piece.put]; rfl)))

theorem State.grantOnward_ch {pl : List Piece} {s0 : State} {s : State} {j k : Nat} {c : LCell} (hc : Changes pl s0 s) (hl : subPieces [.ports, .wins, .groups] pl = true) :
    Changes pl s0 (State.grantOnward s j k c) := by
  unfold State.grantOnward
  try dsimp only
  repeat' first
    | with_reducible exact hc
    | with_reducible assumption
    | with_reducible refine State.answerShip_ch ?_ (sub_trans hl rfl)
    | with_reducible refine State.endShipWin_ch ?_ (sub_trans hl rfl)
    | with_reducible refine State.updWin_ch ?_ (sub_trans hl rfl)
    | split

theorem State.recvShipGrant_ch {pl : List Piece} {s0 : State} {s : State} {j : Nat} {c : LCell} (hc : Changes pl s0 s) (hl : subPieces [.regs, .vat, .vatCode, .stk, .stkCode, .wcb, .held, .parts, .reqs, .pools, .cqs, .msixPend, .ports, .wins, .groups, .sendings, .log, .out, .free] pl = true) :
    Changes pl s0 (State.recvShipGrant s j c) := by
  unfold State.recvShipGrant
  try dsimp only
  repeat' first
    | with_reducible exact hc
    | with_reducible assumption
    | with_reducible refine State.grantOnward_ch ?_ (sub_trans hl rfl)
    | with_reducible refine State.shipGranted_ch ?_ (sub_trans hl rfl)
    | with_reducible refine State.onNotice_ch ?_ (sub_trans hl rfl) (fun _ _ _ => ?_)
    | split

theorem State.pollShip_ch {pl : List Piece} {s0 : State} {s : State} {p i : Nat} (hc : Changes pl s0 s) (hl : subPieces [.regs, .vat, .vatCode, .stk, .stkCode, .wcb, .held, .parts, .reqs, .pools, .cqs, .msixPend, .sendings, .log, .out] pl = true) :
    Changes pl s0 (State.pollShip s p i) := by
  unfold State.pollShip
  try dsimp only
  repeat' first
    | with_reducible exact hc
    | with_reducible assumption
    | with_reducible refine State.shipFailed_ch ?_ (sub_trans hl rfl)
    | with_reducible refine State.freeReq_ch ?_ (sub_trans hl rfl)
    | with_reducible refine State.updReq_ch ?_ (sub_trans hl rfl)
    | split
    | ((with_reducible refine Changes.mk ?_ ?_); rotate_left; (intro x hx; cases x <;> first | exact (hx (mem_of_sub hl (by decide))).elim | (dsimp only [Piece.put]; done) | (dsimp only [Piece.put]; rfl)))

theorem State.pollArrival_ch {pl : List Piece} {s0 : State} {s : State} {p i : Nat} (hc : Changes pl s0 s) (hl : subPieces [.regs, .vat, .vatCode, .stk, .stkCode, .wcb, .held, .parts, .reqs, .pools, .msixPend, .log, .out] pl = true) :
    Changes pl s0 (State.pollArrival s p i) := by
  unfold State.pollArrival
  try dsimp only
  repeat' first
    | with_reducible exact hc
    | with_reducible assumption
    | with_reducible refine State.freeReq_ch ?_ (sub_trans hl rfl)
    | split

theorem State.pollWin_ch {pl : List Piece} {s0 : State} {s : State} {k : Nat} (hc : Changes pl s0 s) (hl : subPieces [.regs, .vat, .vatCode, .stk, .stkCode, .wcb, .held, .parts, .reqs, .pools, .msixPend, .ports, .wins, .groups, .sendings, .log, .out] pl = true) :
    Changes pl s0 (State.pollWin s k) := by
  unfold State.pollWin
  try dsimp only
  repeat' first
    | with_reducible exact hc
    | with_reducible assumption
    | with_reducible refine State.grantShip_ch ?_ (sub_trans hl rfl)
    | with_reducible refine State.endShipWin_ch ?_ (sub_trans hl rfl)
    | with_reducible refine State.freeReq_ch ?_ (sub_trans hl rfl)
    | with_reducible refine State.updReq_ch ?_ (sub_trans hl rfl)
    | with_reducible refine State.updWin_ch ?_ (sub_trans hl rfl)
    | split
    | ((with_reducible refine Changes.mk ?_ ?_); rotate_left; (intro x hx; cases x <;> first | exact (hx (mem_of_sub hl (by decide))).elim | (dsimp only [Piece.put]; done) | (dsimp only [Piece.put]; rfl)))

theorem State.pollShips_ch {pl : List Piece} {s0 : State} {s : State} (hc : Changes pl s0 s) (hl : subPieces [.regs, .vat, .vatCode, .stk, .stkCode, .wcb, .held, .parts, .reqs, .pools, .cqs, .msixPend, .ports, .wins, .groups, .sendings, .log, .out] pl = true) :
    Changes pl s0 (State.pollShips s) := by
  unfold State.pollShips
  try dsimp only
  repeat' first
    | with_reducible exact hc
    | with_reducible assumption
    | with_reducible refine State.pollWin_ch ?_ (sub_trans hl rfl)
    | with_reducible refine State.pollArrival_ch ?_ (sub_trans hl rfl)
    | with_reducible refine State.pollShip_ch ?_ (sub_trans hl rfl)
    | with_reducible refine Changes.each ?_ (fun _ _ _ => ?_)
    | split

theorem State.fitPages_ch {pl : List Piece} {s0 : State} {s : State} {p : Nat} {v : ServingSpec} {i : Nat} {m : Manifest} (hc : Changes pl s0 s) (hl : subPieces [.regs, .vat, .vatCode, .stk, .stkCode, .wcb, .held, .parts, .reqs, .pools, .msixPend, .log, .out, .free] pl = true) :
    Changes pl s0 (State.fitPages s p v i m).1 := by
  unfold State.fitPages
  try dsimp only
  repeat' first
    | with_reducible exact hc
    | with_reducible assumption
    | with_reducible refine State.releasePages_ch ?_ (sub_trans hl rfl)
    | with_reducible refine State.reserveAll_ch ?_ (sub_trans hl rfl)
    | with_reducible refine State.updReq_ch ?_ (sub_trans hl rfl)
    | split

theorem State.placePages_ch {pl : List Piece} {s0 : State} {s : State} {p : Nat} {v : ServingSpec} {i : Nat} {m : Manifest} (hc : Changes pl s0 s) (hl : subPieces [.regs, .stk, .stkCode, .wcb, .held, .parts, .msixPend, .log, .out] pl = true) :
    Changes pl s0 (State.placePages s p v i m) := by
  unfold State.placePages
  try dsimp only
  repeat' first
    | with_reducible exact hc
    | with_reducible assumption
    | with_reducible refine State.putPage_ch ?_ (sub_trans hl rfl)
    | with_reducible refine Changes.each ?_ (fun _ _ _ => ?_)
    | split

theorem State.acceptShip_ch {pl : List Piece} {s0 : State} {s : State} {p i : Nat} {v : ServingSpec} {m : Manifest} (hc : Changes pl s0 s) (hl : subPieces [.regs, .vat, .vatCode, .stk, .stkCode, .wcb, .held, .parts, .reqs, .msixPend, .log, .out, .free] pl = true) :
    Changes pl s0 (State.acceptShip s p i v m) := by
  unfold State.acceptShip
  try dsimp only
  repeat' first
    | with_reducible exact hc
    | with_reducible assumption
    | with_reducible refine State.placePages_ch ?_ (sub_trans hl rfl)
    | with_reducible refine State.updReq_ch ?_ (sub_trans hl rfl)
    | with_reducible refine State.svcPut_ch ?_ (sub_trans hl rfl)
    | with_reducible refine State.vatPut_ch ?_ (sub_trans hl rfl)
    | with_reducible refine Changes.each ?_ (fun _ _ _ => ?_)
    | split
    | ((with_reducible refine Changes.mk ?_ ?_); rotate_left; (intro x hx; cases x <;> first | exact (hx (mem_of_sub hl (by decide))).elim | (dsimp only [Piece.put]; done) | (dsimp only [Piece.put]; rfl)))

theorem State.answerEnd_ch {pl : List Piece} {s0 : State} {s : State} {i : Nat} {ok : Bool} (hc : Changes pl s0 s) (hl : subPieces [.regs, .vat, .vatCode, .stk, .stkCode, .wcb, .held, .parts, .reqs, .pools, .cqs, .msixPend, .ports, .wins, .groups, .log, .out] pl = true) :
    Changes pl s0 (State.answerEnd s i ok) := by
  unfold State.answerEnd
  try dsimp only
  repeat' first
    | with_reducible exact hc
    | with_reducible assumption
    | with_reducible refine State.shipFailed_ch ?_ (sub_trans hl rfl)
    | with_reducible refine State.answerShip_ch ?_ (sub_trans hl rfl)
    | with_reducible refine State.grantShip_ch ?_ (sub_trans hl rfl)
    | with_reducible refine State.endShipWin_ch ?_ (sub_trans hl rfl)
    | with_reducible refine State.freeReq_ch ?_ (sub_trans hl rfl)
    | split

theorem State.shipmentAccept_ch {pl : List Piece} {s0 : State} {s : State} {p i : Nat} {win : Option Nat} (hc : Changes pl s0 s) (hl : subPieces [.regs, .vat, .vatCode, .stk, .stkCode, .wcb, .held, .parts, .reqs, .pools, .cqs, .msixPend, .ports, .wins, .groups, .log, .out, .free] pl = true) :
    Changes pl s0 (State.shipmentAccept s p i win) := by
  unfold State.shipmentAccept
  try dsimp only
  repeat' first
    | with_reducible exact hc
    | with_reducible assumption
    | with_reducible refine State.answerEnd_ch ?_ (sub_trans hl rfl)
    | with_reducible refine State.acceptShip_ch ?_ (sub_trans hl rfl)
    | with_reducible refine State.fitPages_ch ?_ (sub_trans hl rfl)
    | with_reducible refine State.shipFailed_ch ?_ (sub_trans hl rfl)
    | split

end Sys2Proof.Machine
end

