-- ==== Sys2Proof/Laws/EffectsService.lean ====
section
/-! SUPPORT. What each operation may change, as the pieces of the state in `Changes`: notices taken, scrubs, repair, partitions, stack services, the host interface. -/

namespace Sys2Proof.Machine

open Sys2Proof

set_option maxRecDepth 4000
set_option linter.all false

theorem State.refusePlate_ch {pl : List Piece} {s0 : State} {s : State} {p cause : Nat} (hc : Changes pl s0 s) (hl : subPieces [.regs, .pcmd, .msixPend, .log, .out] pl = true) :
    Changes pl s0 (State.refusePlate s p cause) := by
  unfold State.refusePlate
  try dsimp only
  repeat' first
    | with_reducible exact hc
    | with_reducible assumption
    | with_reducible refine State.pcmdEnd_ch ?_ (sub_trans hl rfl)
    | with_reducible refine State.logEvent_ch ?_ (sub_trans hl rfl)
    | split

theorem State.fillAreas_ch {pl : List Piece} {s0 : State} {s : State} {p : Nat} {img : PlateImage} (hc : Changes pl s0 s) (hl : subPieces [.regs, .stk, .stkCode, .wcb, .held, .parts, .msixPend, .log, .out] pl = true) :
    Changes pl s0 (State.fillAreas s p img) := by
  unfold State.fillAreas
  try dsimp only
  repeat' first
    | with_reducible exact hc
    | with_reducible assumption
    | with_reducible refine State.svcPut_ch ?_ (sub_trans hl rfl)
    | with_reducible refine Changes.each ?_ (fun _ _ _ => ?_)
    | split

theorem State.placeCode_ch {pl : List Piece} {s0 : State} {s : State} {p : Nat} {img : PlateImage} (hc : Changes pl s0 s) (hl : subPieces [.burin] pl = true) :
    Changes pl s0 (State.placeCode s p img) := by
  unfold State.placeCode
  try dsimp only
  repeat' first
    | with_reducible exact hc
    | with_reducible assumption
    | with_reducible refine Changes.foldl ?_ (fun _ _ _ => ?_)
    | with_reducible refine Changes.foldl_fst ?_ (fun _ _ _ => ?_)
    | split
    | ((with_reducible refine Changes.mk ?_ ?_); rotate_left; (intro x hx; cases x <;> first | exact (hx (mem_of_sub hl (by decide))).elim | (dsimp only [Piece.put]; done) | (dsimp only [Piece.put]; rfl)))

theorem State.placeInit_ch {pl : List Piece} {s0 : State} {s : State} {p : Nat} {img : PlateImage} (hc : Changes pl s0 s) (hl : subPieces [.vat, .vatCode] pl = true) :
    Changes pl s0 (State.placeInit s p img) := by
  unfold State.placeInit
  try dsimp only
  repeat' first
    | with_reducible exact hc
    | with_reducible assumption
    | with_reducible refine State.vatPut_ch ?_ (sub_trans hl rfl)
    | with_reducible refine Changes.each ?_ (fun _ _ _ => ?_)
    | with_reducible refine Changes.foldl ?_ (fun _ _ _ => ?_)
    | with_reducible refine Changes.foldl_fst ?_ (fun _ _ _ => ?_)
    | split

theorem State.clearUnits_ch {pl : List Piece} {s0 : State} {s : State} {qs : List Nat} (hc : Changes pl s0 s) (hl : subPieces [.press, .churn, .seqs] pl = true) :
    Changes pl s0 (State.clearUnits s qs) := by
  unfold State.clearUnits
  try dsimp only
  repeat' first
    | with_reducible exact hc
    | with_reducible assumption
    | split
    | ((with_reducible refine Changes.mk ?_ ?_); rotate_left; (intro x hx; cases x <;> first | exact (hx (mem_of_sub hl (by decide))).elim | (dsimp only [Piece.put]; done) | (dsimp only [Piece.put]; rfl)))

theorem State.openPlateWin_ch {pl : List Piece} {s0 : State} {s : State} {p : Nat} {counts : Nat → Nat × Nat} {v : WinSpec} (hc : Changes pl s0 s) (hl : subPieces [.wins] pl = true) :
    Changes pl s0 (State.openPlateWin s p counts v) := by
  unfold State.openPlateWin
  try dsimp only
  repeat' first
    | with_reducible exact hc
    | with_reducible assumption
    | with_reducible refine State.updWin_ch ?_ (sub_trans hl rfl)
    | split

theorem State.finishLoad_ch {pl : List Piece} {s0 : State} {s : State} {p : Nat} {img : PlateImage} (hc : Changes pl s0 s) (hl : subPieces [.regs, .aon, .vat, .vatCode, .maps, .press, .burin, .churn, .seqs, .parts, .pcmd, .msixPend, .ports, .wins, .groups, .out] pl = true) :
    Changes pl s0 (State.finishLoad s p img) := by
  unfold State.finishLoad
  try dsimp only
  repeat' first
    | with_reducible exact hc
    | with_reducible assumption
    | with_reducible refine State.openPlateWin_ch ?_ (sub_trans hl rfl)
    | with_reducible refine State.clearUnits_ch ?_ (sub_trans hl rfl)
    | with_reducible refine State.placeInit_ch ?_ (sub_trans hl rfl)
    | with_reducible refine State.placeCode_ch ?_ (sub_trans hl rfl)
    | with_reducible refine State.formGroup_ch ?_ (sub_trans hl rfl)
    | with_reducible refine State.pcmdEnd_ch ?_ (sub_trans hl rfl)
    | with_reducible refine State.updPart_ch ?_ (sub_trans hl rfl)
    | with_reducible refine Changes.foldl ?_ (fun _ _ _ => ?_)
    | with_reducible refine Changes.foldl_fst ?_ (fun _ _ _ => ?_)
    | split
    | ((with_reducible refine Changes.mk ?_ ?_); rotate_left; (intro x hx; cases x <;> first | exact (hx (mem_of_sub hl (by decide))).elim | (dsimp only [Piece.put]; done) | (dsimp only [Piece.put]; rfl)))

theorem State.fillSave_ch {pl : List Piece} {s0 : State} {s : State} {q bytes : Nat} (hc : Changes pl s0 s) (hl : subPieces [.stk, .stkCode, .held, .free] pl = true) :
    Changes pl s0 (State.fillSave s q bytes) := by
  unfold State.fillSave
  try dsimp only
  repeat' first
    | with_reducible exact hc
    | with_reducible assumption
    | with_reducible refine State.stkPut_ch ?_ (sub_trans hl rfl)
    | with_reducible refine Changes.each ?_ (fun _ _ _ => ?_)
    | split
    | ((with_reducible refine Changes.mk ?_ ?_); rotate_left; (intro x hx; cases x <;> first | exact (hx (mem_of_sub hl (by decide))).elim | (dsimp only [Piece.put]; done) | (dsimp only [Piece.put]; rfl)))

theorem State.save_ch {pl : List Piece} {s0 : State} {s : State} {p : Nat} (hc : Changes pl s0 s) (hl : subPieces [.regs, .stk, .stkCode, .wcb, .held, .parts, .msixPend, .sendings, .log, .out, .free] pl = true) :
    Changes pl s0 (State.save s p) := by
  unfold State.save
  try dsimp only
  repeat' first
    | with_reducible exact hc
    | with_reducible assumption
    | with_reducible refine State.fillSave_ch ?_ (sub_trans hl rfl)
    | with_reducible refine State.setPState_ch ?_ (sub_trans hl rfl)
    | with_reducible refine State.wcbDrain_ch ?_ (sub_trans hl rfl)
    | with_reducible refine State.updPart_ch ?_ (sub_trans hl rfl)
    | with_reducible refine State.wr_ch ?_ (sub_trans hl rfl)
    | with_reducible refine Changes.each ?_ (fun _ _ _ => ?_)
    | with_reducible refine Changes.foldl ?_ (fun _ _ _ => ?_)
    | with_reducible refine Changes.foldl_fst ?_ (fun _ _ _ => ?_)
    | split
    | ((with_reducible refine Changes.mk ?_ ?_); rotate_left; (intro x hx; cases x <;> first | exact (hx (mem_of_sub hl (by decide))).elim | (dsimp only [Piece.put]; done) | (dsimp only [Piece.put]; rfl)))

theorem State.restore_ch {pl : List Piece} {s0 : State} {s : State} {p : Nat} {v : Saved} (hc : Changes pl s0 s) (hl : subPieces [.vat, .vatCode, .press, .burin, .churn, .seqs] pl = true) :
    Changes pl s0 (State.restore s p v) := by
  unfold State.restore
  try dsimp only
  repeat' first
    | with_reducible exact hc
    | with_reducible assumption
    | with_reducible refine State.clearUnits_ch ?_ (sub_trans hl rfl)
    | split
    | ((with_reducible refine Changes.mk ?_ ?_); rotate_left; (intro x hx; cases x <;> first | exact (hx (mem_of_sub hl (by decide))).elim | (dsimp only [Piece.put]; done) | (dsimp only [Piece.put]; rfl)))

theorem State.readSave_ch {pl : List Piece} {s0 : State} {s : State} {q bytes : Nat} (hc : Changes pl s0 s) (hl : subPieces [.regs, .vat, .vatCode, .parts, .msixPend, .log, .out, .free] pl = true) :
    Changes pl s0 (State.readSave s q bytes) := by
  unfold State.readSave
  try dsimp only
  repeat' first
    | with_reducible exact hc
    | with_reducible assumption
    | with_reducible refine State.stkReadLog_ch ?_ (sub_trans hl rfl)
    | with_reducible refine State.vatPut_ch ?_ (sub_trans hl rfl)
    | with_reducible refine State.drawn_ch ?_ (sub_trans hl rfl)
    | with_reducible refine Changes.each ?_ (fun _ _ _ => ?_)
    | split

theorem State.finishResume_ch {pl : List Piece} {s0 : State} {s : State} {p : Nat} (hc : Changes pl s0 s) (hl : subPieces [.regs, .vat, .vatCode, .press, .burin, .churn, .seqs, .parts, .msixPend, .ports, .wins, .groups, .log, .out, .free] pl = true) :
    Changes pl s0 (State.finishResume s p) := by
  unfold State.finishResume
  try dsimp only
  repeat' first
    | with_reducible exact hc
    | with_reducible assumption
    | with_reducible refine State.readSave_ch ?_ (sub_trans hl rfl)
    | with_reducible refine State.restore_ch ?_ (sub_trans hl rfl)
    | with_reducible refine State.openPlateWin_ch ?_ (sub_trans hl rfl)
    | with_reducible refine State.placeCode_ch ?_ (sub_trans hl rfl)
    | with_reducible refine State.formGroup_ch ?_ (sub_trans hl rfl)
    | with_reducible refine State.updPart_ch ?_ (sub_trans hl rfl)
    | with_reducible refine Changes.each ?_ (fun _ _ _ => ?_)
    | with_reducible refine Changes.foldl ?_ (fun _ _ _ => ?_)
    | with_reducible refine Changes.foldl_fst ?_ (fun _ _ _ => ?_)
    | split

theorem State.takeQuarters_ch {pl : List Piece} {s0 : State} {s : State} {p st : Nat} (hc : Changes pl s0 s) (hl : subPieces [.regs, .quarters] pl = true) :
    Changes pl s0 (State.takeQuarters s p st) := by
  unfold State.takeQuarters
  try dsimp only
  repeat' first
    | with_reducible exact hc
    | with_reducible assumption
    | with_reducible refine State.setPState_ch ?_ (sub_trans hl rfl)
    | with_reducible refine State.setQ_ch ?_ (sub_trans hl rfl)
    | with_reducible refine State.wr_ch ?_ (sub_trans hl rfl)
    | with_reducible refine Changes.each ?_ (fun _ _ _ => ?_)
    | split

theorem State.pollCmd_ch {pl : List Piece} {s0 : State} {s : State} (hc : Changes pl s0 s) (hl : subPieces [.regs, .aon, .vat, .vatCode, .maps, .press, .burin, .churn, .seqs, .parts, .pcmd, .msixPend, .ports, .wins, .groups, .log, .out, .free] pl = true) :
    Changes pl s0 (State.pollCmd s) := by
  unfold State.pollCmd
  try dsimp only
  repeat' first
    | with_reducible exact hc
    | with_reducible assumption
    | with_reducible refine State.finishResume_ch ?_ (sub_trans hl rfl)
    | with_reducible refine State.finishLoad_ch ?_ (sub_trans hl rfl)
    | with_reducible refine State.pcmdEnd_ch ?_ (sub_trans hl rfl)
    | split

theorem State.pollWaking_ch {pl : List Piece} {s0 : State} {s : State} (hc : Changes pl s0 s) (hl : subPieces [.regs, .aon, .vat, .vatCode, .maps, .press, .burin, .churn, .seqs, .parts, .pcmd, .msixPend, .ports, .wins, .groups, .log, .out, .free] pl = true) :
    Changes pl s0 (State.pollWaking s) := by
  unfold State.pollWaking
  try dsimp only
  repeat' first
    | with_reducible exact hc
    | with_reducible assumption
    | with_reducible refine State.pollCmd_ch ?_ (sub_trans hl rfl)
    | with_reducible refine State.finishResume_ch ?_ (sub_trans hl rfl)
    | with_reducible refine Changes.each ?_ (fun _ _ _ => ?_)
    | split

theorem State.loadFetched_ch {pl : List Piece} {s0 : State} {s : State} {p : Nat} {img : PlateImage} (hc : Changes pl s0 s) (hl : subPieces [.regs, .aon, .quarters, .vat, .vatCode, .maps, .press, .burin, .churn, .seqs, .parts, .pcmd, .msixPend, .ports, .wins, .groups, .log, .out, .free] pl = true) :
    Changes pl s0 (State.loadFetched s p img) := by
  unfold State.loadFetched
  try dsimp only
  repeat' first
    | with_reducible exact hc
    | with_reducible assumption
    | with_reducible refine State.pollWaking_ch ?_ (sub_trans hl rfl)
    | with_reducible refine State.takeQuarters_ch ?_ (sub_trans hl rfl)
    | with_reducible refine State.refusePlate_ch ?_ (sub_trans hl rfl)
    | with_reducible refine State.pcmdEnd_ch ?_ (sub_trans hl rfl)
    | with_reducible refine State.updPart_ch ?_ (sub_trans hl rfl)
    | with_reducible refine State.logEvent_ch ?_ (sub_trans hl rfl)
    | with_reducible refine State.drawn_ch ?_ (sub_trans hl rfl)
    | split
    | ((with_reducible refine Changes.mk ?_ ?_); rotate_left; (intro x hx; cases x <;> first | exact (hx (mem_of_sub hl (by decide))).elim | (dsimp only [Piece.put]; done) | (dsimp only [Piece.put]; rfl)))

theorem State.stkLap_ch {pl : List Piece} {s0 : State} {s : State} {half bank : Nat} (hc : Changes pl s0 s) (hl : subPieces [.regs, .stkLaps] pl = true) :
    Changes pl s0 (State.stkLap s half bank) := by
  unfold State.stkLap
  try dsimp only
  repeat' first
    | with_reducible exact hc
    | with_reducible assumption
    | with_reducible refine State.inc_ch ?_ (sub_trans hl rfl)
    | split
    | ((with_reducible refine Changes.mk ?_ ?_); rotate_left; (intro x hx; cases x <;> first | exact (hx (mem_of_sub hl (by decide))).elim | (dsimp only [Piece.put]; done) | (dsimp only [Piece.put]; rfl)))

theorem State.scrubWord_ch {pl : List Piece} {s0 : State} {s : State} {a : Nat} (hc : Changes pl s0 s) (hl : subPieces [.regs, .held, .parts, .msixPend, .log, .out] pl = true) :
    Changes pl s0 (State.scrubWord s a) := by
  unfold State.scrubWord
  try dsimp only
  repeat' first
    | with_reducible exact hc
    | with_reducible assumption
    | with_reducible refine State.stkLog_ch ?_ (sub_trans hl rfl)
    | split
    | ((with_reducible refine Changes.mk ?_ ?_); rotate_left; (intro x hx; cases x <;> first | exact (hx (mem_of_sub hl (by decide))).elim | (dsimp only [Piece.put]; done) | (dsimp only [Piece.put]; rfl)))

theorem State.scrubStack_ch {pl : List Piece} {s0 : State} {s : State} {half bank : Nat} (hc : Changes pl s0 s) (hl : subPieces [.regs, .held, .parts, .msixPend, .log, .scrubStk, .stkLaps, .out] pl = true) :
    Changes pl s0 (State.scrubStack s half bank) := by
  unfold State.scrubStack
  try dsimp only
  repeat' first
    | with_reducible exact hc
    | with_reducible assumption
    | with_reducible refine State.scrubWord_ch ?_ (sub_trans hl rfl)
    | with_reducible refine State.stkLap_ch ?_ (sub_trans hl rfl)
    | split
    | ((with_reducible refine Changes.mk ?_ ?_); rotate_left; (intro x hx; cases x <;> first | exact (hx (mem_of_sub hl (by decide))).elim | (dsimp only [Piece.put]; done) | (dsimp only [Piece.put]; rfl)))

theorem State.vatLap_ch {pl : List Piece} {s0 : State} {s : State} {bank : Nat} (hc : Changes pl s0 s) (hl : subPieces [.regs, .vatLaps] pl = true) :
    Changes pl s0 (State.vatLap s bank) := by
  unfold State.vatLap
  try dsimp only
  repeat' first
    | with_reducible exact hc
    | with_reducible assumption
    | with_reducible refine State.inc_ch ?_ (sub_trans hl rfl)
    | split
    | ((with_reducible refine Changes.mk ?_ ?_); rotate_left; (intro x hx; cases x <;> first | exact (hx (mem_of_sub hl (by decide))).elim | (dsimp only [Piece.put]; done) | (dsimp only [Piece.put]; rfl)))

theorem State.scrubVatWord_ch {pl : List Piece} {s0 : State} {s : State} {bank : Nat} (hc : Changes pl s0 s) (hl : subPieces [.regs, .vat, .vatCode, .msixPend, .log, .scrubVat, .vatLaps, .out] pl = true) :
    Changes pl s0 (State.scrubVatWord s bank) := by
  unfold State.scrubVatWord
  try dsimp only
  repeat' first
    | with_reducible exact hc
    | with_reducible assumption
    | with_reducible refine State.vatLap_ch ?_ (sub_trans hl rfl)
    | with_reducible refine State.vatLog_ch ?_ (sub_trans hl rfl)
    | with_reducible refine State.vatPut_ch ?_ (sub_trans hl rfl)
    | split
    | ((with_reducible refine Changes.mk ?_ ?_); rotate_left; (intro x hx; cases x <;> first | exact (hx (mem_of_sub hl (by decide))).elim | (dsimp only [Piece.put]; done) | (dsimp only [Piece.put]; rfl)))

theorem State.logHead_ch {pl : List Piece} {s0 : State} {s : State} {v : Nat} (hc : Changes pl s0 s) (hl : subPieces [.regs] pl = true) :
    Changes pl s0 (State.logHead s v) := by
  unfold State.logHead
  try dsimp only
  repeat' first
    | with_reducible exact hc
    | with_reducible assumption
    | with_reducible refine State.wr_ch ?_ (sub_trans hl rfl)
    | split

theorem State.repairOp_ch {pl : List Piece} {s0 : State} {s : State} {word : Nat} {f : State → State} (hc : Changes pl s0 s) (hl : subPieces [.regs] pl = true) (hf : ∀ s, Changes pl s0 s → Changes pl s0 (f s)) :
    Changes pl s0 (State.repairOp s word f) := by
  unfold State.repairOp
  try dsimp only
  repeat' first
    | with_reducible exact hc
    | with_reducible assumption
    | with_reducible refine hf _ ?_
    | with_reducible refine State.setReg_ch ?_ (sub_trans hl rfl)
    | split

theorem State.repairBy_ch {pl : List Piece} {s0 : State} {s : State} {src : Src} {word : Nat} {f : State → State} (hc : Changes pl s0 s) (hl : subPieces [.regs, .heldAccess] pl = true) (hf : ∀ s, Changes pl s0 s → Changes pl s0 (f s)) :
    Changes pl s0 (State.repairBy s src word f) := by
  unfold State.repairBy
  try dsimp only
  repeat' first
    | with_reducible exact hc
    | with_reducible assumption
    | with_reducible refine hf _ ?_
    | with_reducible refine State.repairOp_ch ?_ (sub_trans hl rfl) (fun _ _ => ?_)
    | with_reducible refine State.access_ch ?_ (sub_trans hl rfl) (fun _ _ => ?_)
    | split

theorem State.abandonResume_ch {pl : List Piece} {s0 : State} {s : State} {p : Nat} (hc : Changes pl s0 s) (hl : subPieces [.regs, .quarters, .work, .burin, .seqs, .parts, .pcmd, .msixPend, .ports, .wins, .groups, .sendings, .out] pl = true) :
    Changes pl s0 (State.abandonResume s p) := by
  unfold State.abandonResume
  try dsimp only
  repeat' first
    | with_reducible exact hc
    | with_reducible assumption
    | with_reducible refine State.releaseQuarters_ch ?_ (sub_trans hl rfl)
    | with_reducible refine State.setPState_ch ?_ (sub_trans hl rfl)
    | with_reducible refine State.closeAll_ch ?_ (sub_trans hl rfl)
    | with_reducible refine State.withdrawAll_ch ?_ (sub_trans hl rfl)
    | with_reducible refine State.pcmdEnd_ch ?_ (sub_trans hl rfl)
    | with_reducible refine State.updPart_ch ?_ (sub_trans hl rfl)
    | split

theorem State.clearFor_ch {pl : List Piece} {s0 : State} {s : State} {q : Nat} (hc : Changes pl s0 s) (hl : subPieces [.regs, .quarters, .dieFence, .work, .stk, .stkCode, .maps, .wcb, .held, .burin, .seqs, .parts, .pcmd, .msixPend, .rmt, .ports, .wins, .groups, .sendings, .log, .repair, .boot, .out] pl = true) :
    Changes pl s0 (State.clearFor s q) := by
  unfold State.clearFor
  try dsimp only
  repeat' first
    | with_reducible exact hc
    | with_reducible assumption
    | with_reducible refine State.abandonResume_ch ?_ (sub_trans hl rfl)
    | with_reducible refine State.haltPart_ch ?_ (sub_trans hl rfl)
    | split

theorem State.fenceQuarter_ch {pl : List Piece} {s0 : State} {s : State} {q : Nat} (hc : Changes pl s0 s) (hl : subPieces [.regs, .quarters, .dieFence, .work, .stk, .stkCode, .maps, .wcb, .held, .burin, .seqs, .parts, .pcmd, .msixPend, .rmt, .ports, .wins, .groups, .sendings, .log, .repair, .boot, .out] pl = true) :
    Changes pl s0 (State.fenceQuarter s q) := by
  unfold State.fenceQuarter
  try dsimp only
  repeat' first
    | with_reducible exact hc
    | with_reducible assumption
    | with_reducible refine State.clearFor_ch ?_ (sub_trans hl rfl)
    | with_reducible refine State.fenceNow_ch ?_ (sub_trans hl rfl)
    | with_reducible refine State.repairStart_ch ?_ (sub_trans hl rfl)
    | with_reducible refine State.repairEnd_ch ?_ (sub_trans hl rfl)
    | split

theorem State.unfenceQuarter_ch {pl : List Piece} {s0 : State} {s : State} {q : Nat} (hc : Changes pl s0 s) (hl : subPieces [.regs, .quarters, .repair] pl = true) :
    Changes pl s0 (State.unfenceQuarter s q) := by
  unfold State.unfenceQuarter
  try dsimp only
  repeat' first
    | with_reducible exact hc
    | with_reducible assumption
    | with_reducible refine State.repairStart_ch ?_ (sub_trans hl rfl)
    | with_reducible refine State.repairEnd_ch ?_ (sub_trans hl rfl)
    | with_reducible refine State.setQ_ch ?_ (sub_trans hl rfl)
    | split

theorem State.fenceDieCmd_ch {pl : List Piece} {s0 : State} {s : State} {d : Nat} (hc : Changes pl s0 s) (hl : subPieces [.regs, .quarters, .dieFence, .work, .stk, .stkCode, .maps, .wcb, .held, .burin, .seqs, .parts, .pcmd, .msixPend, .rmt, .ports, .wins, .groups, .sendings, .log, .repair, .boot, .out] pl = true) :
    Changes pl s0 (State.fenceDieCmd s d) := by
  unfold State.fenceDieCmd
  try dsimp only
  repeat' first
    | with_reducible exact hc
    | with_reducible assumption
    | with_reducible refine State.clearFor_ch ?_ (sub_trans hl rfl)
    | with_reducible refine State.pollRepair_ch ?_ (sub_trans hl rfl)
    | with_reducible refine State.repairStart_ch ?_ (sub_trans hl rfl)
    | with_reducible refine State.repairEnd_ch ?_ (sub_trans hl rfl)
    | with_reducible refine Changes.each ?_ (fun _ _ _ => ?_)
    | split

theorem State.unfenceDieCmd_ch {pl : List Piece} {s0 : State} {s : State} {d : Nat} {trained : Bool} {lanes : List (Nat × Nat × Nat)} (hc : Changes pl s0 s) (hl : subPieces [.regs, .quarters, .dieFence, .vat, .vatCode, .press, .churn, .seqs, .msixPend, .log, .repair, .out] pl = true) :
    Changes pl s0 (State.unfenceDieCmd s d trained lanes) := by
  unfold State.unfenceDieCmd
  try dsimp only
  repeat' first
    | with_reducible exact hc
    | with_reducible assumption
    | with_reducible refine State.repairEnd_ch ?_ (sub_trans hl rfl)
    | with_reducible refine State.trainLanes_ch ?_ (sub_trans hl rfl)
    | with_reducible refine State.quarterClear_ch ?_ (sub_trans hl rfl)
    | with_reducible refine State.setQ_ch ?_ (sub_trans hl rfl)
    | with_reducible refine State.logEvent_ch ?_ (sub_trans hl rfl)
    | with_reducible refine State.wr_ch ?_ (sub_trans hl rfl)
    | with_reducible refine Changes.each ?_ (fun _ _ _ => ?_)
    | split
    | ((with_reducible refine Changes.mk ?_ ?_); rotate_left; (intro x hx; cases x <;> first | exact (hx (mem_of_sub hl (by decide))).elim | (dsimp only [Piece.put]; done) | (dsimp only [Piece.put]; rfl)))

theorem State.bistStart_ch {pl : List Piece} {s0 : State} {s : State} {q : Nat} (hc : Changes pl s0 s) (hl : subPieces [.regs, .quarters, .repair] pl = true) :
    Changes pl s0 (State.bistStart s q) := by
  unfold State.bistStart
  try dsimp only
  repeat' first
    | with_reducible exact hc
    | with_reducible assumption
    | with_reducible refine State.repairStart_ch ?_ (sub_trans hl rfl)
    | with_reducible refine State.repairEnd_ch ?_ (sub_trans hl rfl)
    | with_reducible refine State.setQ_ch ?_ (sub_trans hl rfl)
    | with_reducible refine State.wr_ch ?_ (sub_trans hl rfl)
    | split

theorem State.bistDone_ch {pl : List Piece} {s0 : State} {s : State} {q : Nat} {r : BistResult} (hc : Changes pl s0 s) (hl : subPieces [.regs, .quarters, .vat, .vatCode, .msixPend, .log, .repair, .badSpares, .out] pl = true) :
    Changes pl s0 (State.bistDone s q r) := by
  unfold State.bistDone
  try dsimp only
  repeat' first
    | with_reducible exact hc
    | with_reducible assumption
    | with_reducible refine State.repairEnd_ch ?_ (sub_trans hl rfl)
    | with_reducible refine State.vatClear_ch ?_ (sub_trans hl rfl)
    | with_reducible refine State.setQ_ch ?_ (sub_trans hl rfl)
    | with_reducible refine State.logEvent_ch ?_ (sub_trans hl rfl)
    | with_reducible refine State.wrs_ch ?_ (sub_trans hl rfl)
    | split
    | ((with_reducible refine Changes.mk ?_ ?_); rotate_left; (intro x hx; cases x <;> first | exact (hx (mem_of_sub hl (by decide))).elim | (dsimp only [Piece.put]; done) | (dsimp only [Piece.put]; rfl)))

theorem State.placeSpare_ch {pl : List Piece} {s0 s t : State} {q : Nat} {burin : Bool} {unit : Nat} (ht : s.placeSpare q burin unit = some t)
    (hc : Changes pl s0 s) (hl : subPieces [.regs] pl = true) : Changes pl s0 t := by
  unfold State.placeSpare at ht
  dsimp only at ht
  repeat' split at ht
  all_goals first
    | (cases ht; done)
    | (cases ht
       repeat' first
         | with_reducible exact hc
         | with_reducible refine State.wrs_ch ?_ hl
         | with_reducible refine State.wr_ch ?_ hl
         | split)

theorem State.substitute_ch {pl : List Piece} {s0 : State} {s : State} {q : Nat} {burin : Bool} {unit : Nat} (hc : Changes pl s0 s) (hl : subPieces [.regs, .msixPend, .log, .repair, .boot, .out] pl = true) :
    Changes pl s0 (State.substitute s q burin unit) := by
  unfold State.substitute
  try dsimp only
  repeat' first
    | with_reducible exact hc
    | with_reducible assumption
    | with_reducible refine State.listAppend_ch ?_ (sub_trans hl rfl)
    | with_reducible refine State.repairEnd_ch ?_ (sub_trans hl rfl)
    | with_reducible refine State.logEvent_ch ?_ (sub_trans hl rfl)
    | with_reducible refine State.placeSpare_ch (by assumption) ?_ (sub_trans hl rfl)
    | split

theorem State.retirePage_ch {pl : List Piece} {s0 : State} {s : State} {half region : Nat} (hc : Changes pl s0 s) (hl : subPieces [.regions] pl = true) :
    Changes pl s0 (State.retirePage s half region) := by
  unfold State.retirePage
  try dsimp only
  repeat' first
    | with_reducible exact hc
    | with_reducible assumption
    | split
    | ((with_reducible refine Changes.mk ?_ ?_); rotate_left; (intro x hx; cases x <;> first | exact (hx (mem_of_sub hl (by decide))).elim | (dsimp only [Piece.put]; done) | (dsimp only [Piece.put]; rfl)))

theorem State.retireBank_ch {pl : List Piece} {s0 : State} {s : State} {half bank : Nat} (hc : Changes pl s0 s) (hl : subPieces [.regions, .badBanks] pl = true) :
    Changes pl s0 (State.retireBank s half bank) := by
  unfold State.retireBank
  try dsimp only
  repeat' first
    | with_reducible exact hc
    | with_reducible assumption
    | with_reducible refine State.retirePage_ch ?_ (sub_trans hl rfl)
    | with_reducible refine Changes.each ?_ (fun _ _ _ => ?_)
    | split
    | ((with_reducible refine Changes.mk ?_ ?_); rotate_left; (intro x hx; cases x <;> first | exact (hx (mem_of_sub hl (by decide))).elim | (dsimp only [Piece.put]; done) | (dsimp only [Piece.put]; rfl)))

theorem State.retireHalf_ch {pl : List Piece} {s0 : State} {s : State} {h : Nat} (hc : Changes pl s0 s) (hl : subPieces [.quarters, .stk, .stkCode] pl = true) :
    Changes pl s0 (State.retireHalf s h) := by
  unfold State.retireHalf
  try dsimp only
  repeat' first
    | with_reducible exact hc
    | with_reducible assumption
    | with_reducible refine State.setQ_ch ?_ (sub_trans hl rfl)
    | split
    | ((with_reducible refine Changes.mk ?_ ?_); rotate_left; (intro x hx; cases x <;> first | exact (hx (mem_of_sub hl (by decide))).elim | (dsimp only [Piece.put]; done) | (dsimp only [Piece.put]; rfl)))

theorem State.retired_ch {pl : List Piece} {s0 : State} {s : State} {cmd : Nat} {l : Loc} (hc : Changes pl s0 s) (hl : subPieces [.regs, .msixPend, .log, .repair, .boot, .out] pl = true) :
    Changes pl s0 (State.retired s cmd l) := by
  unfold State.retired
  try dsimp only
  repeat' first
    | with_reducible exact hc
    | with_reducible assumption
    | with_reducible refine State.listAppend_ch ?_ (sub_trans hl rfl)
    | with_reducible refine State.repairEnd_ch ?_ (sub_trans hl rfl)
    | with_reducible refine State.logEvent_ch ?_ (sub_trans hl rfl)
    | split

theorem State.retire_ch {pl : List Piece} {s0 : State} {s : State} {granule q half region bank : Nat} (hc : Changes pl s0 s) (hl : subPieces [.regs, .quarters, .stk, .stkCode, .regions, .rowCopy, .badBanks, .msixPend, .log, .repair, .boot, .out] pl = true) :
    Changes pl s0 (State.retire s granule q half region bank) := by
  unfold State.retire
  try dsimp only
  repeat' first
    | with_reducible exact hc
    | with_reducible assumption
    | with_reducible refine State.retired_ch ?_ (sub_trans hl rfl)
    | with_reducible refine State.retireHalf_ch ?_ (sub_trans hl rfl)
    | with_reducible refine State.retireBank_ch ?_ (sub_trans hl rfl)
    | with_reducible refine State.retirePage_ch ?_ (sub_trans hl rfl)
    | with_reducible refine State.repairStart_ch ?_ (sub_trans hl rfl)
    | with_reducible refine State.repairEnd_ch ?_ (sub_trans hl rfl)
    | with_reducible refine State.logEvent_ch ?_ (sub_trans hl rfl)
    | split
    | ((with_reducible refine Changes.mk ?_ ?_); rotate_left; (intro x hx; cases x <;> first | exact (hx (mem_of_sub hl (by decide))).elim | (dsimp only [Piece.put]; done) | (dsimp only [Piece.put]; rfl)))

theorem State.copyWord_ch {pl : List Piece} {s0 : State} {s : State} {a : Nat} (hc : Changes pl s0 s) (hl : subPieces [.regs, .stk, .stkCode, .parts, .msixPend, .log, .out] pl = true) :
    Changes pl s0 (State.copyWord s a) := by
  unfold State.copyWord
  try dsimp only
  repeat' first
    | with_reducible exact hc
    | with_reducible assumption
    | with_reducible refine State.stkLog_ch ?_ (sub_trans hl rfl)
    | with_reducible refine State.stkRaw_ch ?_ (sub_trans hl rfl)
    | split

theorem State.rowSwitch_ch {pl : List Piece} {s0 : State} {s : State} (hc : Changes pl s0 s) (hl : subPieces [.regs, .stk, .stkCode, .rowMap, .rowCopy, .parts, .pools, .msixPend, .log, .repair, .boot, .out] pl = true) :
    Changes pl s0 (State.rowSwitch s) := by
  unfold State.rowSwitch
  try dsimp only
  repeat' first
    | with_reducible exact hc
    | with_reducible assumption
    | with_reducible refine State.copyWord_ch ?_ (sub_trans hl rfl)
    | with_reducible refine State.retired_ch ?_ (sub_trans hl rfl)
    | with_reducible refine State.unwithhold_ch ?_ (sub_trans hl rfl)
    | with_reducible refine Changes.each ?_ (fun _ _ _ => ?_)
    | split
    | ((with_reducible refine Changes.mk ?_ ?_); rotate_left; (intro x hx; cases x <;> first | exact (hx (mem_of_sub hl (by decide))).elim | (dsimp only [Piece.put]; done) | (dsimp only [Piece.put]; rfl)))

theorem State.rowTimeout_ch {pl : List Piece} {s0 : State} {s : State} (hc : Changes pl s0 s) (hl : subPieces [.regs, .rowCopy, .repair] pl = true) :
    Changes pl s0 (State.rowTimeout s) := by
  unfold State.rowTimeout
  try dsimp only
  repeat' first
    | with_reducible exact hc
    | with_reducible assumption
    | with_reducible refine State.repairEnd_ch ?_ (sub_trans hl rfl)
    | split
    | ((with_reducible refine Changes.mk ?_ ?_); rotate_left; (intro x hx; cases x <;> first | exact (hx (mem_of_sub hl (by decide))).elim | (dsimp only [Piece.put]; done) | (dsimp only [Piece.put]; rfl)))

theorem State.regionInit_ch {pl : List Piece} {s0 : State} {s : State} {half region : Nat} (hc : Changes pl s0 s) (hl : subPieces [.regs, .repair] pl = true) :
    Changes pl s0 (State.regionInit s half region) := by
  unfold State.regionInit
  try dsimp only
  repeat' first
    | with_reducible exact hc
    | with_reducible assumption
    | with_reducible refine State.repairStart_ch ?_ (sub_trans hl rfl)
    | with_reducible refine State.repairEnd_ch ?_ (sub_trans hl rfl)
    | split

theorem State.zeroRegion_ch {pl : List Piece} {s0 : State} {s : State} {key : Nat} (hc : Changes pl s0 s) (hl : subPieces [.stk, .stkCode, .wcb, .held] pl = true) :
    Changes pl s0 (State.zeroRegion s key) := by
  unfold State.zeroRegion
  try dsimp only
  repeat' first
    | with_reducible exact hc
    | with_reducible assumption
    | split
    | ((with_reducible refine Changes.mk ?_ ?_); rotate_left; (intro x hx; cases x <;> first | exact (hx (mem_of_sub hl (by decide))).elim | (dsimp only [Piece.put]; done) | (dsimp only [Piece.put]; rfl)))

theorem State.regionInitDone_ch {pl : List Piece} {s0 : State} {s : State} (hc : Changes pl s0 s) (hl : subPieces [.regs, .stk, .stkCode, .wcb, .held, .repair] pl = true) :
    Changes pl s0 (State.regionInitDone s) := by
  unfold State.regionInitDone
  try dsimp only
  repeat' first
    | with_reducible exact hc
    | with_reducible assumption
    | with_reducible refine State.zeroRegion_ch ?_ (sub_trans hl rfl)
    | with_reducible refine State.repairEnd_ch ?_ (sub_trans hl rfl)
    | split

theorem State.refetchHost_ch {pl : List Piece} {s0 : State} {s : State} {half region : Nat} {host : HostData} (hc : Changes pl s0 s) (hl : subPieces [.regs, .stk, .stkCode, .wcb, .held, .msixPend, .wins, .log, .repair, .out] pl = true) :
    Changes pl s0 (State.refetchHost s half region host) := by
  unfold State.refetchHost
  try dsimp only
  repeat' first
    | with_reducible exact hc
    | with_reducible assumption
    | with_reducible refine State.refetchEnd_ch ?_ (sub_trans hl rfl)
    | with_reducible refine State.repairStart_ch ?_ (sub_trans hl rfl)
    | with_reducible refine State.repairEnd_ch ?_ (sub_trans hl rfl)
    | with_reducible refine State.svcLand_ch ?_ (sub_trans hl rfl)
    | with_reducible refine State.logEvent_ch ?_ (sub_trans hl rfl)
    | with_reducible refine Changes.each ?_ (fun _ _ _ => ?_)
    | split

theorem State.refetchPeer_ch {pl : List Piece} {s0 : State} {s : State} {half region : Nat} (hc : Changes pl s0 s) (hl : subPieces [.regs, .msixPend, .wins, .log, .repair, .out] pl = true) :
    Changes pl s0 (State.refetchPeer s half region) := by
  unfold State.refetchPeer
  try dsimp only
  repeat' first
    | with_reducible exact hc
    | with_reducible assumption
    | with_reducible refine State.refetchEnd_ch ?_ (sub_trans hl rfl)
    | with_reducible refine State.updWin_ch ?_ (sub_trans hl rfl)
    | with_reducible refine State.repairStart_ch ?_ (sub_trans hl rfl)
    | with_reducible refine State.repairEnd_ch ?_ (sub_trans hl rfl)
    | split

theorem State.refetchVerify_ch {pl : List Piece} {s0 : State} {s : State} (hc : Changes pl s0 s) (hl : subPieces [.regs, .parts, .reqs, .msixPend, .wins, .log, .repair, .out] pl = true) :
    Changes pl s0 (State.refetchVerify s) := by
  unfold State.refetchVerify
  try dsimp only
  repeat' first
    | with_reducible exact hc
    | with_reducible assumption
    | with_reducible refine State.refetchEnd_ch ?_ (sub_trans hl rfl)
    | with_reducible refine State.stkLog_ch ?_ (sub_trans hl rfl)
    | with_reducible refine State.repaired_ch ?_ (sub_trans hl rfl)
    | with_reducible refine Changes.each ?_ (fun _ _ _ => ?_)
    | split

theorem State.partCmd_ch {pl : List Piece} {s0 : State} {s : State} {f : State → State} (hc : Changes pl s0 s) (hl : subPieces [.regs, .msixPend, .out] pl = true) (hf : ∀ s, Changes pl s0 s → Changes pl s0 (f s)) :
    Changes pl s0 (State.partCmd s f) := by
  unfold State.partCmd
  try dsimp only
  repeat' first
    | with_reducible exact hc
    | with_reducible assumption
    | with_reducible refine hf _ ?_
    | with_reducible refine State.pcmdLost_ch ?_ (sub_trans hl rfl)
    | with_reducible refine State.pcmdBusy_ch ?_ (sub_trans hl rfl)
    | split

theorem State.partCmdBy_ch {pl : List Piece} {s0 : State} {s : State} {src : Src} {p op : Nat} {f : State → State} (hc : Changes pl s0 s) (hl : subPieces [.regs, .msixPend, .heldAccess, .out] pl = true) (hf : ∀ s, Changes pl s0 s → Changes pl s0 (f s)) :
    Changes pl s0 (State.partCmdBy s src p op f) := by
  unfold State.partCmdBy
  try dsimp only
  repeat' first
    | with_reducible exact hc
    | with_reducible assumption
    | with_reducible refine hf _ ?_
    | with_reducible refine State.partCmd_ch ?_ (sub_trans hl rfl) (fun _ _ => ?_)
    | with_reducible refine State.access_ch ?_ (sub_trans hl rfl) (fun _ _ => ?_)
    | split

theorem State.partCfg_ch {pl : List Piece} {s0 : State} {s : State} {p : Nat} {v : W64} (hc : Changes pl s0 s) (hl : subPieces [.regs] pl = true) :
    Changes pl s0 (State.partCfg s p v) := by
  unfold State.partCfg
  try dsimp only
  repeat' first
    | with_reducible exact hc
    | with_reducible assumption
    | with_reducible refine State.wrs_ch ?_ (sub_trans hl rfl)
    | with_reducible refine State.wr_ch ?_ (sub_trans hl rfl)
    | split

theorem State.fetchPlate_ch {pl : List Piece} {s0 : State} {s : State} {op p : Nat} {img : PlateImage} (hc : Changes pl s0 s) (hl : subPieces [.regs, .stk, .stkCode, .wcb, .held, .parts, .pcmd, .msixPend, .log, .out] pl = true) :
    Changes pl s0 (State.fetchPlate s op p img) := by
  unfold State.fetchPlate
  try dsimp only
  repeat' first
    | with_reducible exact hc
    | with_reducible assumption
    | with_reducible refine State.fillAreas_ch ?_ (sub_trans hl rfl)
    | with_reducible refine State.refusePlate_ch ?_ (sub_trans hl rfl)
    | with_reducible refine State.pcmdEnd_ch ?_ (sub_trans hl rfl)
    | split
    | ((with_reducible refine Changes.mk ?_ ?_); rotate_left; (intro x hx; cases x <;> first | exact (hx (mem_of_sub hl (by decide))).elim | (dsimp only [Piece.put]; done) | (dsimp only [Piece.put]; rfl)))

theorem State.cmdLoad_ch {pl : List Piece} {s0 : State} {s : State} {p : Nat} {img : PlateImage} (hc : Changes pl s0 s) (hl : subPieces [.regs, .stk, .stkCode, .wcb, .held, .parts, .pcmd, .msixPend, .log, .out] pl = true) :
    Changes pl s0 (State.cmdLoad s p img) := by
  unfold State.cmdLoad
  try dsimp only
  repeat' first
    | with_reducible exact hc
    | with_reducible assumption
    | with_reducible refine State.fetchPlate_ch ?_ (sub_trans hl rfl)
    | with_reducible refine State.pcmdEnd_ch ?_ (sub_trans hl rfl)
    | split

theorem State.cmdPreempt_ch {pl : List Piece} {s0 : State} {s : State} {p : Nat} {img : PlateImage} (hc : Changes pl s0 s) (hl : subPieces [.regs, .stk, .stkCode, .wcb, .held, .parts, .pcmd, .msixPend, .log, .out] pl = true) :
    Changes pl s0 (State.cmdPreempt s p img) := by
  unfold State.cmdPreempt
  try dsimp only
  repeat' first
    | with_reducible exact hc
    | with_reducible assumption
    | with_reducible refine State.fetchPlate_ch ?_ (sub_trans hl rfl)
    | with_reducible refine State.pcmdEnd_ch ?_ (sub_trans hl rfl)
    | split

theorem State.stopPart_ch {pl : List Piece} {s0 : State} {s : State} {p : Nat} (hc : Changes pl s0 s) (hl : subPieces [.regs, .parts] pl = true) :
    Changes pl s0 (State.stopPart s p) := by
  unfold State.stopPart
  try dsimp only
  repeat' first
    | with_reducible exact hc
    | with_reducible assumption
    | with_reducible refine State.askStop_ch ?_ (sub_trans hl rfl)
    | split

theorem State.pollStops_ch {pl : List Piece} {s0 : State} {s : State} (hc : Changes pl s0 s) (hl : subPieces [.regs, .aon, .quarters, .vat, .vatCode, .maps, .press, .burin, .churn, .seqs, .parts, .pcmd, .msixPend, .ports, .wins, .groups, .log, .out, .free] pl = true) :
    Changes pl s0 (State.pollStops s) := by
  unfold State.pollStops
  try dsimp only
  repeat' first
    | with_reducible exact hc
    | with_reducible assumption
    | with_reducible refine State.loadFetched_ch ?_ (sub_trans hl rfl)
    | split

theorem State.fetchDone_ch {pl : List Piece} {s0 : State} {s : State} (hc : Changes pl s0 s) (hl : subPieces [.regs, .aon, .quarters, .vat, .vatCode, .maps, .press, .burin, .churn, .seqs, .parts, .pcmd, .msixPend, .ports, .wins, .groups, .log, .out, .free] pl = true) :
    Changes pl s0 (State.fetchDone s) := by
  unfold State.fetchDone
  try dsimp only
  repeat' first
    | with_reducible exact hc
    | with_reducible assumption
    | with_reducible refine State.pollStops_ch ?_ (sub_trans hl rfl)
    | with_reducible refine State.stopPart_ch ?_ (sub_trans hl rfl)
    | with_reducible refine State.loadFetched_ch ?_ (sub_trans hl rfl)
    | with_reducible refine State.refusePlate_ch ?_ (sub_trans hl rfl)
    | with_reducible refine State.pcmdEnd_ch ?_ (sub_trans hl rfl)
    | with_reducible refine Changes.each ?_ (fun _ _ _ => ?_)
    | split
    | ((with_reducible refine Changes.mk ?_ ?_); rotate_left; (intro x hx; cases x <;> first | exact (hx (mem_of_sub hl (by decide))).elim | (dsimp only [Piece.put]; done) | (dsimp only [Piece.put]; rfl)))

theorem State.cmdStop_ch {pl : List Piece} {s0 : State} {s : State} {p : Nat} (hc : Changes pl s0 s) (hl : subPieces [.regs, .parts, .pcmd, .msixPend, .out] pl = true) :
    Changes pl s0 (State.cmdStop s p) := by
  unfold State.cmdStop
  try dsimp only
  repeat' first
    | with_reducible exact hc
    | with_reducible assumption
    | with_reducible refine State.stopPart_ch ?_ (sub_trans hl rfl)
    | with_reducible refine State.pcmdEnd_ch ?_ (sub_trans hl rfl)
    | split
    | ((with_reducible refine Changes.mk ?_ ?_); rotate_left; (intro x hx; cases x <;> first | exact (hx (mem_of_sub hl (by decide))).elim | (dsimp only [Piece.put]; done) | (dsimp only [Piece.put]; rfl)))

theorem State.saveDone_ch {pl : List Piece} {s0 : State} {s : State} {p : Nat} (hc : Changes pl s0 s) (hl : subPieces [.regs, .aon, .quarters, .dieFence, .vat, .vatCode, .work, .stk, .stkCode, .maps, .wcb, .held, .press, .burin, .churn, .seqs, .parts, .pcmd, .msixPend, .rmt, .ports, .wins, .groups, .sendings, .log, .repair, .boot, .out, .free] pl = true) :
    Changes pl s0 (State.saveDone s p) := by
  unfold State.saveDone
  try dsimp only
  repeat' first
    | with_reducible exact hc
    | with_reducible assumption
    | with_reducible refine State.pollStops_ch ?_ (sub_trans hl rfl)
    | with_reducible refine State.save_ch ?_ (sub_trans hl rfl)
    | with_reducible refine State.pollStopCmd_ch ?_ (sub_trans hl rfl)
    | with_reducible refine State.releaseQuarters_ch ?_ (sub_trans hl rfl)
    | with_reducible refine State.pollRepair_ch ?_ (sub_trans hl rfl)
    | split

theorem State.resumePart_ch {pl : List Piece} {s0 : State} {s : State} {p : Nat} (hc : Changes pl s0 s) (hl : subPieces [.regs, .aon, .quarters, .vat, .vatCode, .maps, .press, .burin, .churn, .seqs, .parts, .pcmd, .msixPend, .ports, .wins, .groups, .log, .out, .free] pl = true) :
    Changes pl s0 (State.resumePart s p) := by
  unfold State.resumePart
  try dsimp only
  repeat' first
    | with_reducible exact hc
    | with_reducible assumption
    | with_reducible refine State.pollWaking_ch ?_ (sub_trans hl rfl)
    | with_reducible refine State.takeQuarters_ch ?_ (sub_trans hl rfl)
    | with_reducible refine State.pcmdEnd_ch ?_ (sub_trans hl rfl)
    | with_reducible refine State.updPart_ch ?_ (sub_trans hl rfl)
    | split
    | ((with_reducible refine Changes.mk ?_ ?_); rotate_left; (intro x hx; cases x <;> first | exact (hx (mem_of_sub hl (by decide))).elim | (dsimp only [Piece.put]; done) | (dsimp only [Piece.put]; rfl)))

theorem State.cmdUnload_ch {pl : List Piece} {s0 : State} {s : State} {p : Nat} (hc : Changes pl s0 s) (hl : subPieces [.regs, .quarters, .dieFence, .work, .stk, .stkCode, .maps, .wcb, .held, .burin, .seqs, .parts, .pcmd, .msixPend, .rmt, .ports, .wins, .groups, .sendings, .log, .repair, .boot, .out] pl = true) :
    Changes pl s0 (State.cmdUnload s p) := by
  unfold State.cmdUnload
  try dsimp only
  repeat' first
    | with_reducible exact hc
    | with_reducible assumption
    | with_reducible refine State.askStop_ch ?_ (sub_trans hl rfl)
    | with_reducible refine State.unloadPart_ch ?_ (sub_trans hl rfl)
    | with_reducible refine State.setPState_ch ?_ (sub_trans hl rfl)
    | with_reducible refine State.pcmdEnd_ch ?_ (sub_trans hl rfl)
    | with_reducible refine State.updPart_ch ?_ (sub_trans hl rfl)
    | split
    | ((with_reducible refine Changes.mk ?_ ?_); rotate_left; (intro x hx; cases x <;> first | exact (hx (mem_of_sub hl (by decide))).elim | (dsimp only [Piece.put]; done) | (dsimp only [Piece.put]; rfl)))

theorem State.wcbMerge_ch {pl : List Piece} {s0 : State} {s : State} {half word : Nat} (hc : Changes pl s0 s) (hl : subPieces [.regs, .stk, .stkCode, .wcb, .held, .parts, .msixPend, .log, .out] pl = true) :
    Changes pl s0 (State.wcbMerge s half word) := by
  unfold State.wcbMerge
  try dsimp only
  repeat' first
    | with_reducible exact hc
    | with_reducible assumption
    | with_reducible refine State.wcbLand_ch ?_ (sub_trans hl rfl)
    | split

theorem State.landHeld_ch {pl : List Piece} {s0 : State} {s : State} {h : Held} (hc : Changes pl s0 s) (hl : subPieces [.stk, .stkCode, .wcb, .held, .wins] pl = true) :
    Changes pl s0 (State.landHeld s h) := by
  unfold State.landHeld
  try dsimp only
  repeat' first
    | with_reducible exact hc
    | with_reducible assumption
    | with_reducible refine State.countCell_ch ?_ (sub_trans hl rfl)
    | with_reducible refine State.svcLand_ch ?_ (sub_trans hl rfl)
    | with_reducible refine State.stkRaw_ch ?_ (sub_trans hl rfl)
    | split
    | ((with_reducible refine Changes.mk ?_ ?_); rotate_left; (intro x hx; cases x <;> first | exact (hx (mem_of_sub hl (by decide))).elim | (dsimp only [Piece.put]; done) | (dsimp only [Piece.put]; rfl)))

theorem State.heldLand_ch {pl : List Piece} {s0 : State} {s : State} {half word : Nat} (hc : Changes pl s0 s) (hl : subPieces [.stk, .stkCode, .wcb, .held, .wins] pl = true) :
    Changes pl s0 (State.heldLand s half word) := by
  unfold State.heldLand
  try dsimp only
  repeat' first
    | with_reducible exact hc
    | with_reducible assumption
    | with_reducible refine State.landHeld_ch ?_ (sub_trans hl rfl)
    | split

theorem State.refillStart_ch {pl : List Piece} {s0 : State} {s : State} {v : Nat} (hc : Changes pl s0 s) (hl : subPieces [.regs, .refill] pl = true) :
    Changes pl s0 (State.refillStart s v) := by
  unfold State.refillStart
  try dsimp only
  repeat' first
    | with_reducible exact hc
    | with_reducible assumption
    | with_reducible refine State.wr_ch ?_ (sub_trans hl rfl)
    | with_reducible refine State.setReg_ch ?_ (sub_trans hl rfl)
    | split
    | ((with_reducible refine Changes.mk ?_ ?_); rotate_left; (intro x hx; cases x <;> first | exact (hx (mem_of_sub hl (by decide))).elim | (dsimp only [Piece.put]; done) | (dsimp only [Piece.put]; rfl)))

theorem State.refillPail_ch {pl : List Piece} {s0 : State} {s : State} {r : Refill} {g : Region} {j : Nat} (hc : Changes pl s0 s) (hl : subPieces [.regs, .stk, .stkCode, .wcb, .held, .parts, .msixPend, .log, .out] pl = true) :
    Changes pl s0 (State.refillPail s r g j) := by
  unfold State.refillPail
  try dsimp only
  repeat' first
    | with_reducible exact hc
    | with_reducible assumption
    | with_reducible refine State.putRow_ch ?_ (sub_trans hl rfl)
    | with_reducible refine State.svcPut_ch ?_ (sub_trans hl rfl)
    | with_reducible refine State.stkLog_ch ?_ (sub_trans hl rfl)
    | with_reducible refine Changes.each ?_ (fun _ _ _ => ?_)
    | split

theorem State.refillDone_ch {pl : List Piece} {s0 : State} {s : State} (hc : Changes pl s0 s) (hl : subPieces [.regs, .stk, .stkCode, .wcb, .held, .refill, .parts, .reqs, .msixPend, .log, .out] pl = true) :
    Changes pl s0 (State.refillDone s) := by
  unfold State.refillDone
  try dsimp only
  repeat' first
    | with_reducible exact hc
    | with_reducible assumption
    | with_reducible refine State.refillPail_ch ?_ (sub_trans hl rfl)
    | with_reducible refine State.refillEnd_ch ?_ (sub_trans hl rfl)
    | with_reducible refine State.repaired_ch ?_ (sub_trans hl rfl)
    | with_reducible refine State.addFault_ch ?_ (sub_trans hl rfl)
    | with_reducible refine Changes.each ?_ (fun _ _ _ => ?_)
    | split

theorem State.regionAttr_ch {pl : List Piece} {s0 : State} {s : State} {v : Nat} (hc : Changes pl s0 s) (hl : subPieces [.regions] pl = true) :
    Changes pl s0 (State.regionAttr s v) := by
  unfold State.regionAttr
  try dsimp only
  repeat' first
    | with_reducible exact hc
    | with_reducible assumption
    | split
    | ((with_reducible refine Changes.mk ?_ ?_); rotate_left; (intro x hx; cases x <;> first | exact (hx (mem_of_sub hl (by decide))).elim | (dsimp only [Piece.put]; done) | (dsimp only [Piece.put]; rfl)))

theorem State.laneSwitch_ch {pl : List Piece} {s0 : State} {s : State} {k group lane : Nat} (hc : Changes pl s0 s) (hl : subPieces [.regs, .lanes, .msixPend, .log, .out, .free] pl = true) :
    Changes pl s0 (State.laneSwitch s k group lane) := by
  unfold State.laneSwitch
  try dsimp only
  repeat' first
    | with_reducible exact hc
    | with_reducible assumption
    | with_reducible refine State.fault_ch ?_ (sub_trans hl rfl)
    | with_reducible refine State.drawn_ch ?_ (sub_trans hl rfl)
    | with_reducible refine State.incSat_ch ?_ (sub_trans hl rfl)
    | with_reducible refine State.wr_ch ?_ (sub_trans hl rfl)
    | split
    | ((with_reducible refine Changes.mk ?_ ?_); rotate_left; (intro x hx; cases x <;> first | exact (hx (mem_of_sub hl (by decide))).elim | (dsimp only [Piece.put]; done) | (dsimp only [Piece.put]; rfl)))

theorem State.slotCfgWrite_ch {pl : List Piece} {s0 : State} {s : State} {v : Nat} (hc : Changes pl s0 s) (hl : subPieces [.regs] pl = true) :
    Changes pl s0 (State.slotCfgWrite s v) := by
  unfold State.slotCfgWrite
  try dsimp only
  repeat' first
    | with_reducible exact hc
    | with_reducible assumption
    | with_reducible refine State.wr_ch ?_ (sub_trans hl rfl)
    | split

theorem State.watchdog_ch {pl : List Piece} {s0 : State} {s : State} {input target : Nat} {locked : Bool} (hc : Changes pl s0 s) (hl : subPieces [.regs, .msixPend, .log, .out] pl = true) :
    Changes pl s0 (State.watchdog s input target locked) := by
  unfold State.watchdog
  try dsimp only
  repeat' first
    | with_reducible exact hc
    | with_reducible assumption
    | with_reducible refine State.fault_ch ?_ (sub_trans hl rfl)
    | with_reducible refine State.wrs_ch ?_ (sub_trans hl rfl)
    | with_reducible refine State.wr_ch ?_ (sub_trans hl rfl)
    | split

theorem State.sendMgmt_ch {pl : List Piece} {s0 : State} {s : State} {j : Nat} {m : MgmtMsg} (hc : Changes pl s0 s) (hl : subPieces [.ports] pl = true) :
    Changes pl s0 (State.sendMgmt s j m) := by
  unfold State.sendMgmt
  try dsimp only
  repeat' first
    | with_reducible exact hc
    | with_reducible assumption
    | with_reducible refine State.egress_ch ?_ (sub_trans hl rfl)
    | with_reducible refine Changes.each ?_ (fun _ _ _ => ?_)
    | split

theorem State.rmtStart_ch {pl : List Piece} {s0 : State} {s : State} {write : Bool} (hc : Changes pl s0 s) (hl : subPieces [.regs, .rmt, .ports] pl = true) :
    Changes pl s0 (State.rmtStart s write) := by
  unfold State.rmtStart
  try dsimp only
  repeat' first
    | with_reducible exact hc
    | with_reducible assumption
    | with_reducible refine State.sendMgmt_ch ?_ (sub_trans hl rfl)
    | with_reducible refine State.rmtEnd_ch ?_ (sub_trans hl rfl)
    | with_reducible refine State.wr_ch ?_ (sub_trans hl rfl)
    | split
    | ((with_reducible refine Changes.mk ?_ ?_); rotate_left; (intro x hx; cases x <;> first | exact (hx (mem_of_sub hl (by decide))).elim | (dsimp only [Piece.put]; done) | (dsimp only [Piece.put]; rfl)))

theorem State.rmtTimeout_ch {pl : List Piece} {s0 : State} {s : State} (hc : Changes pl s0 s) (hl : subPieces [.regs, .rmt] pl = true) :
    Changes pl s0 (State.rmtTimeout s) := by
  unfold State.rmtTimeout
  try dsimp only
  repeat' first
    | with_reducible exact hc
    | with_reducible assumption
    | with_reducible refine State.rmtEnd_ch ?_ (sub_trans hl rfl)
    | split

theorem State.tlpFaults_ch {pl : List Piece} {s0 : State} {s : State} {f : Nat} {reach : Nat → Nat} {loc : Nat → Loc} {as : List Nat} (hc : Changes pl s0 s) (hl : subPieces [.regs, .msixPend, .log, .out] pl = true) :
    Changes pl s0 (State.tlpFaults s f reach loc as) := by
  unfold State.tlpFaults
  try dsimp only
  repeat' first
    | with_reducible exact hc
    | with_reducible assumption
    | with_reducible refine State.logEvent_ch ?_ (sub_trans hl rfl)
    | with_reducible refine State.fnFlag_ch ?_ (sub_trans hl rfl)
    | split

theorem State.vatMerge_ch {pl : List Piece} {s0 : State} {s : State} {w : TlpWord} {poison : Bool} (hc : Changes pl s0 s) (hl : subPieces [.regs, .vat, .vatCode, .msixPend, .log, .out] pl = true) :
    Changes pl s0 (State.vatMerge s w poison) := by
  unfold State.vatMerge
  try dsimp only
  repeat' first
    | with_reducible exact hc
    | with_reducible assumption
    | with_reducible refine State.vatLog_ch ?_ (sub_trans hl rfl)
    | with_reducible refine State.vatPut_ch ?_ (sub_trans hl rfl)
    | split

theorem State.hubLog_ch {pl : List Piece} {s0 : State} {s : State} {p : Option Nat} {dies : List Nat} (hc : Changes pl s0 s) (hl : subPieces [.regs, .msixPend, .log, .out] pl = true) :
    Changes pl s0 (State.hubLog s p dies) := by
  unfold State.hubLog
  try dsimp only
  repeat' first
    | with_reducible exact hc
    | with_reducible assumption
    | with_reducible refine State.logEvent_ch ?_ (sub_trans hl rfl)
    | with_reducible refine Changes.each ?_ (fun _ _ _ => ?_)
    | split

theorem State.bar2_ch {pl : List Piece} {s0 : State} {s : State} {f tc : Nat} {t : Tlp} {hub : List Nat} (hc : Changes pl s0 s) (hl : subPieces [.regs, .vat, .vatCode, .msixPend, .log, .out, .free] pl = true) :
    Changes pl s0 (State.bar2 s f tc t hub) := by
  unfold State.bar2
  try dsimp only
  repeat' first
    | with_reducible exact hc
    | with_reducible assumption
    | with_reducible refine State.hubLog_ch ?_ (sub_trans hl rfl)
    | with_reducible refine State.vatMerge_ch ?_ (sub_trans hl rfl)
    | with_reducible refine State.tlpFaults_ch ?_ (sub_trans hl rfl)
    | with_reducible refine State.edgeUse_ch ?_ (sub_trans hl rfl)
    | with_reducible refine State.vatLog_ch ?_ (sub_trans hl rfl)
    | with_reducible refine State.logEvent_ch ?_ (sub_trans hl rfl)
    | with_reducible refine State.emit_ch ?_ (sub_trans hl rfl)
    | with_reducible refine Changes.each ?_ (fun _ _ _ => ?_)
    | with_reducible refine Changes.foldl ?_ (fun _ _ _ => ?_)
    | with_reducible refine Changes.foldl_fst ?_ (fun _ _ _ => ?_)
    | split

theorem State.poisonedRead_ch {pl : List Piece} {s0 : State} {s : State} {l : List Nat} (hc : Changes pl s0 s) (hl : subPieces [.regs, .msixPend, .log, .out] pl = true) :
    Changes pl s0 (s.poisonedRead l) := by
  cases l with
  | nil => exact hc
  | cons a t => unfold State.poisonedRead; exact State.logEvent_ch hc (sub_trans hl rfl)

theorem State.barPut_ch {pl : List Piece} {s0 : State} {s : State} {w : TlpWord} {poison : Bool} (hc : Changes pl s0 s) (hl : subPieces [.regs, .stk, .stkCode, .wcb, .held, .parts, .msixPend, .log, .out] pl = true) :
    Changes pl s0 (State.barPut s w poison) := by
  unfold State.barPut
  try dsimp only
  repeat' first
    | with_reducible exact hc
    | with_reducible assumption
    | with_reducible refine State.svcWrite_ch ?_ (sub_trans hl rfl)
    | split

theorem State.bar4_ch {pl : List Piece} {s0 : State} {s : State} {f tc : Nat} {t : Tlp} {hub : List Nat} (hc : Changes pl s0 s)
    (hl : subPieces [.regs, .stk, .stkCode, .wcb, .held, .parts, .msixPend, .log, .out] pl = true) : Changes pl s0 (State.bar4 s f tc t hub) := by
  unfold State.bar4
  extract_lets base loc
  clear_value base loc
  split
  · exact hc
  · split
    · exact State.emit_ch hc (sub_trans hl rfl)
    · split
      · extract_lets ws bad ok late s1 s2
        have h1 : Changes pl s0 s1 := State.hubLog_ch (State.tlpFaults_ch hc (sub_trans hl rfl)) (sub_trans hl rfl)
        clear_value ws bad ok late s1
        have h2 : Changes pl s0 s2 := by
          dsimp only [s2]
          repeat' first
            | with_reducible exact h1
            | with_reducible refine State.logEvent_ch ?_ (sub_trans hl rfl)
            | with_reducible refine Changes.each ?_ (fun _ _ _ => ?_)
            | with_reducible refine State.barPut_ch ?_ (sub_trans hl rfl)
            | with_reducible assumption
            | split
        clear_value s2
        split
        · exact State.emit_ch h2 (sub_trans hl rfl)
        · exact h2
      · extract_lets
        split
        · exact State.emit_ch (State.tlpFaults_ch hc (sub_trans hl rfl)) (sub_trans hl rfl)
        · refine State.emit_ch ?_ (sub_trans hl rfl)
          refine State.poisonedRead_ch ?_ (sub_trans hl rfl)
          refine State.hubLog_ch ?_ (sub_trans hl rfl)
          refine Changes.each hc (fun _ _ _ => ?_)
          exact State.stkReadLog_ch (by assumption) (sub_trans hl rfl)

theorem State.win4Base_ch {pl : List Piece} {s0 : State} {s : State} {f : Nat} {v : W64} (hc : Changes pl s0 s) (hl : subPieces [.regs, .msixPend, .out] pl = true) :
    Changes pl s0 (State.win4Base s f v) := by
  unfold State.win4Base
  try dsimp only
  repeat' first
    | with_reducible exact hc
    | with_reducible assumption
    | with_reducible refine State.fnFlag_ch ?_ (sub_trans hl rfl)
    | with_reducible refine State.wr_ch ?_ (sub_trans hl rfl)
    | split

theorem State.rqCfg_ch {pl : List Piece} {s0 : State} {s : State} {i : Nat} {v : W64} (hc : Changes pl s0 s) (hl : subPieces [.regs, .rings, .msixPend, .out] pl = true) :
    Changes pl s0 (State.rqCfg s i v) := by
  unfold State.rqCfg
  try dsimp only
  repeat' first
    | with_reducible exact hc
    | with_reducible assumption
    | with_reducible refine State.fnFlag_ch ?_ (sub_trans hl rfl)
    | with_reducible refine State.wrs_ch ?_ (sub_trans hl rfl)
    | split
    | ((with_reducible refine Changes.mk ?_ ?_); rotate_left; (intro x hx; cases x <;> first | exact (hx (mem_of_sub hl (by decide))).elim | (dsimp only [Piece.put]; done) | (dsimp only [Piece.put]; rfl)))

theorem State.cqCfg_ch {pl : List Piece} {s0 : State} {s : State} {f : Nat} {v : W64} (hc : Changes pl s0 s) (hl : subPieces [.regs, .cqs, .msixPend, .out] pl = true) :
    Changes pl s0 (State.cqCfg s f v) := by
  unfold State.cqCfg
  try dsimp only
  repeat' first
    | with_reducible exact hc
    | with_reducible assumption
    | with_reducible refine State.updCq_ch ?_ (sub_trans hl rfl)
    | with_reducible refine State.fnFlag_ch ?_ (sub_trans hl rfl)
    | with_reducible refine State.wrs_ch ?_ (sub_trans hl rfl)
    | split

theorem State.ringCfg_ch {pl : List Piece} {s0 : State} {s : State} {a : Nat} {v : W64} (hc : Changes pl s0 s) (hl : subPieces [.regs, .rings, .cqs, .msixPend, .out] pl = true) :
    Changes pl s0 (State.ringCfg s a v) := by
  unfold State.ringCfg
  try dsimp only
  repeat' first
    | with_reducible exact hc
    | with_reducible assumption
    | with_reducible refine State.cqCfg_ch ?_ (sub_trans hl rfl)
    | with_reducible refine State.rqCfg_ch ?_ (sub_trans hl rfl)
    | split

theorem State.entry_ch {pl : List Piece} {s0 : State} {s : State} {f k : Nat} {r : RingRead} (hc : Changes pl s0 s) (hl : subPieces [.regs, .quarters, .dieFence, .vat, .vatCode, .work, .plateT, .stk, .stkCode, .maps, .wcb, .held, .press, .burin, .churn, .seqs, .parts, .pcmd, .reqs, .pools, .cqs, .dmaQ, .msixPend, .rmt, .ports, .wins, .groups, .sendings, .log, .repair, .boot, .out, .free] pl = true) :
    Changes pl s0 (State.entry s f k r) := by
  unfold State.entry
  try dsimp only
  repeat' first
    | with_reducible exact hc
    | with_reducible assumption
    | with_reducible refine State.cancelReq_ch ?_ (sub_trans hl rfl)
    | with_reducible refine State.submitReq_ch ?_ (sub_trans hl rfl)
    | with_reducible refine State.logEvent_ch ?_ (sub_trans hl rfl)
    | with_reducible refine State.fnFlag_ch ?_ (sub_trans hl rfl)
    | split
    | ((with_reducible refine Changes.mk ?_ ?_); rotate_left; (intro x hx; cases x <;> first | exact (hx (mem_of_sub hl (by decide))).elim | (dsimp only [Piece.put]; done) | (dsimp only [Piece.put]; rfl)))

theorem State.advance_ch {pl : List Piece} {s0 : State} {s : State} {i : Nat} (hc : Changes pl s0 s) (hl : subPieces [.aon, .rings] pl = true) :
    Changes pl s0 (State.advance s i) := by
  unfold State.advance
  try dsimp only
  repeat' first
    | with_reducible exact hc
    | with_reducible assumption
    | split
    | ((with_reducible refine Changes.mk ?_ ?_); rotate_left; (intro x hx; cases x <;> first | exact (hx (mem_of_sub hl (by decide))).elim | (dsimp only [Piece.put]; done) | (dsimp only [Piece.put]; rfl)))

theorem State.visitReads_ch {pl : List Piece} {s0 s : State} {f k : Nat} {l : List RingRead} (hc : Changes pl s0 s) (hl : subPieces [.regs, .aon, .quarters, .dieFence, .vat, .vatCode, .work, .plateT, .stk, .stkCode, .maps, .wcb, .held, .press, .burin, .churn, .seqs, .parts, .pcmd, .reqs, .pools, .rings, .cqs, .dmaQ, .msixPend, .rmt, .ports, .wins, .groups, .sendings, .log, .repair, .boot, .out, .free] pl = true) :
    Changes pl s0 (s.visitReads f k l).1 := by
  induction l generalizing s with
  | nil => exact hc
  | cons r t ih =>
    unfold State.visitReads
    split
    · exact ih (State.entry_ch (State.advance_ch hc (sub_trans hl rfl)) (sub_trans hl rfl))
    · exact hc

theorem State.visit_ch {pl : List Piece} {s0 : State} {s : State} {f k : Nat} {rs : List RingRead} (hc : Changes pl s0 s) (hl : subPieces [.regs, .aon, .quarters, .dieFence, .vat, .vatCode, .work, .plateT, .stk, .stkCode, .maps, .wcb, .held, .press, .burin, .churn, .seqs, .parts, .pcmd, .reqs, .pools, .rings, .cqs, .dmaQ, .msixPend, .rmt, .ports, .wins, .groups, .sendings, .log, .repair, .boot, .out, .free] pl = true) :
    Changes pl s0 (State.visit s f k rs) := by
  unfold State.visit
  try dsimp only
  repeat' first
    | with_reducible exact hc
    | with_reducible assumption
    | with_reducible refine State.visitReads_ch ?_ (sub_trans hl rfl)
    | with_reducible refine State.emit_ch ?_ (sub_trans hl rfl)
    | split

theorem State.forwardEntry_ch {pl : List Piece} {s0 : State} {s : State} {r : RingRead} (hc : Changes pl s0 s) (hl : subPieces [.ports] pl = true) :
    Changes pl s0 (State.forwardEntry s r) := by
  unfold State.forwardEntry
  try dsimp only
  repeat' first
    | with_reducible exact hc
    | with_reducible assumption
    | with_reducible refine State.sendMgmt_ch ?_ (sub_trans hl rfl)
    | split

theorem State.ringTick_ch {pl : List Piece} {s0 : State} {s : State} {reads : List RingRead} {consumed : List (Fin 64 × Nat)} (hc : Changes pl s0 s) (hl : subPieces [.regs, .aon, .quarters, .dieFence, .vat, .vatCode, .work, .plateT, .stk, .stkCode, .maps, .wcb, .held, .press, .burin, .churn, .seqs, .parts, .pcmd, .reqs, .pools, .rings, .cqs, .dmaQ, .msixPend, .rmt, .ports, .wins, .groups, .sendings, .log, .repair, .boot, .out, .free] pl = true) :
    Changes pl s0 (State.ringTick s reads consumed) := by
  unfold State.ringTick
  try dsimp only
  repeat' first
    | with_reducible exact hc
    | with_reducible assumption
    | with_reducible refine State.forwardEntry_ch ?_ (sub_trans hl rfl)
    | with_reducible refine State.visit_ch ?_ (sub_trans hl rfl)
    | with_reducible refine State.pollShips_ch ?_ (sub_trans hl rfl)
    | with_reducible refine State.assemble_ch ?_ (sub_trans hl rfl)
    | with_reducible refine State.cqRead_ch ?_ (sub_trans hl rfl)
    | with_reducible refine State.cqTail_ch ?_ (sub_trans hl rfl)
    | with_reducible refine State.cqFlush_ch ?_ (sub_trans hl rfl)
    | with_reducible refine State.checkTree_ch ?_ (sub_trans hl rfl)
    | with_reducible refine State.settle_ch ?_ (sub_trans hl rfl)
    | with_reducible refine Changes.each ?_ (fun _ _ _ => ?_)
    | split

theorem State.dropArrivals_ch {pl : List Piece} {s0 : State} {s : State} {f : Nat} (hc : Changes pl s0 s) (hl : subPieces [.regs, .vat, .vatCode, .stk, .stkCode, .wcb, .held, .parts, .reqs, .pools, .msixPend, .wins, .log, .out] pl = true) :
    Changes pl s0 (State.dropArrivals s f) := by
  unfold State.dropArrivals
  try dsimp only
  repeat' first
    | with_reducible exact hc
    | with_reducible assumption
    | with_reducible refine State.retireReq_ch ?_ (sub_trans hl rfl)
    | with_reducible refine Changes.each ?_ (fun _ _ _ => ?_)
    | split

theorem State.resetFn_ch {pl : List Piece} {s0 : State} {s : State} {f : Nat} (hc : Changes pl s0 s) (hl : subPieces [.regs, .vat, .vatCode, .stk, .stkCode, .wcb, .held, .parts, .bound, .reqs, .pools, .rings, .cqs, .dmaQ, .cfgSpace, .masked, .msixPend, .wins, .log, .out] pl = true) :
    Changes pl s0 (State.resetFn s f) := by
  unfold State.resetFn
  try dsimp only
  repeat' first
    | with_reducible exact hc
    | with_reducible assumption
    | with_reducible refine State.dropArrivals_ch ?_ (sub_trans hl rfl)
    | with_reducible refine State.updReq_ch ?_ (sub_trans hl rfl)
    | with_reducible refine State.wr_ch ?_ (sub_trans hl rfl)
    | with_reducible refine Changes.each ?_ (fun _ _ _ => ?_)
    | split
    | ((with_reducible refine Changes.mk ?_ ?_); rotate_left; (intro x hx; cases x <;> first | exact (hx (mem_of_sub hl (by decide))).elim | (dsimp only [Piece.put]; done) | (dsimp only [Piece.put]; rfl)))

theorem State.flrUnload_ch {pl : List Piece} {s0 : State} {s : State} {p : Nat} (hc : Changes pl s0 s) (hl : subPieces [.regs, .quarters, .dieFence, .work, .stk, .stkCode, .maps, .wcb, .held, .burin, .seqs, .parts, .pcmd, .msixPend, .rmt, .ports, .wins, .groups, .sendings, .log, .repair, .boot, .out] pl = true) :
    Changes pl s0 (State.flrUnload s p) := by
  unfold State.flrUnload
  try dsimp only
  repeat' first
    | with_reducible exact hc
    | with_reducible assumption
    | with_reducible refine State.failPcmd_ch ?_ (sub_trans hl rfl)
    | with_reducible refine State.unloadPart_ch ?_ (sub_trans hl rfl)
    | with_reducible refine State.withdrawAll_ch ?_ (sub_trans hl rfl)
    | split

theorem State.flr_ch {pl : List Piece} {s0 : State} {s : State} {f : Nat} (hc : Changes pl s0 s) (hl : subPieces [.regs, .quarters, .dieFence, .vat, .vatCode, .work, .stk, .stkCode, .maps, .wcb, .held, .burin, .seqs, .parts, .bound, .pcmd, .reqs, .pools, .rings, .cqs, .dmaQ, .cfgSpace, .masked, .vfEnable, .numVfs, .msixPend, .rmt, .ports, .wins, .groups, .sendings, .log, .repair, .boot, .out] pl = true) :
    Changes pl s0 (State.flr s f) := by
  unfold State.flr
  try dsimp only
  repeat' first
    | with_reducible exact hc
    | with_reducible assumption
    | with_reducible refine State.flrUnload_ch ?_ (sub_trans hl rfl)
    | with_reducible refine State.resetFn_ch ?_ (sub_trans hl rfl)
    | with_reducible refine Changes.each ?_ (fun _ _ _ => ?_)
    | split
    | ((with_reducible refine Changes.mk ?_ ?_); rotate_left; (intro x hx; cases x <;> first | exact (hx (mem_of_sub hl (by decide))).elim | (dsimp only [Piece.put]; done) | (dsimp only [Piece.put]; rfl)))

end Sys2Proof.Machine
end

