-- ==== Sys2Proof/Laws/EffectsPart.lean ====
section
/-! SUPPORT. What each operation may change, as the pieces of the state in `Changes`: ports, time, the frame strobe, power and update. -/

namespace Sys2Proof.Machine

open Sys2Proof

set_option maxRecDepth 4000
set_option linter.all false

theorem State.setLaser_ch {pl : List Piece} {s0 : State} {s : State} {m v : Nat} (hc : Changes pl s0 s) (hl : subPieces [.regs] pl = true) :
    Changes pl s0 (State.setLaser s m v) := by
  unfold State.setLaser
  try dsimp only
  repeat' first
    | with_reducible exact hc
    | with_reducible assumption
    | with_reducible refine State.wr_ch ?_ (sub_trans hl rfl)
    | split

theorem State.laserCtrl_ch {pl : List Piece} {s0 : State} {s : State} {mask : Nat} (hc : Changes pl s0 s) (hl : subPieces [.regs] pl = true) :
    Changes pl s0 (State.laserCtrl s mask) := by
  unfold State.laserCtrl
  try dsimp only
  repeat' first
    | with_reducible exact hc
    | with_reducible assumption
    | with_reducible refine State.setLaser_ch ?_ (sub_trans hl rfl)
    | with_reducible refine State.wr_ch ?_ (sub_trans hl rfl)
    | with_reducible refine Changes.each ?_ (fun _ _ _ => ?_)
    | split

theorem State.lose_ch {pl : List Piece} {s0 : State} {s : State} {j : Nat} (hc : Changes pl s0 s) (hl : subPieces [.regs, .msixPend, .rmt, .ports, .wins, .groups, .sendings, .log, .repair, .out] pl = true) :
    Changes pl s0 (State.lose s j) := by
  unfold State.lose
  try dsimp only
  repeat' first
    | with_reducible exact hc
    | with_reducible assumption
    | with_reducible refine State.portDown_ch ?_ (sub_trans hl rfl)
    | split

theorem State.laserPull_ch {pl : List Piece} {s0 : State} {s : State} {m : Nat} (hc : Changes pl s0 s) (hl : subPieces [.regs, .msixPend, .rmt, .ports, .wins, .groups, .sendings, .log, .repair, .out] pl = true) :
    Changes pl s0 (State.laserPull s m) := by
  unfold State.laserPull
  try dsimp only
  repeat' first
    | with_reducible exact hc
    | with_reducible assumption
    | with_reducible refine State.lose_ch ?_ (sub_trans hl rfl)
    | with_reducible refine State.setLaser_ch ?_ (sub_trans hl rfl)
    | with_reducible refine State.fault_ch ?_ (sub_trans hl rfl)
    | with_reducible refine Changes.each ?_ (fun _ _ _ => ?_)
    | split

theorem State.startTrain_ch {pl : List Piece} {s0 : State} {s : State} {j : Nat} (hc : Changes pl s0 s) (hl : subPieces [.regs, .ports] pl = true) :
    Changes pl s0 (State.startTrain s j) := by
  unfold State.startTrain
  try dsimp only
  repeat' first
    | with_reducible exact hc
    | with_reducible assumption
    | with_reducible refine State.setPortState_ch ?_ (sub_trans hl rfl)
    | split

theorem State.enablePort_ch {pl : List Piece} {s0 : State} {s : State} {j : Nat} (hc : Changes pl s0 s) (hl : subPieces [.regs, .ports] pl = true) :
    Changes pl s0 (State.enablePort s j) := by
  unfold State.enablePort
  try dsimp only
  repeat' first
    | with_reducible exact hc
    | with_reducible assumption
    | with_reducible refine State.startTrain_ch ?_ (sub_trans hl rfl)
    | with_reducible refine State.wr_ch ?_ (sub_trans hl rfl)
    | split

theorem State.disablePort_ch {pl : List Piece} {s0 : State} {s : State} {j : Nat} (hc : Changes pl s0 s) (hl : subPieces [.regs, .msixPend, .rmt, .ports, .wins, .groups, .sendings, .log, .repair, .out] pl = true) :
    Changes pl s0 (State.disablePort s j) := by
  unfold State.disablePort
  try dsimp only
  repeat' first
    | with_reducible exact hc
    | with_reducible assumption
    | with_reducible refine State.portDown_ch ?_ (sub_trans hl rfl)
    | with_reducible refine State.wr_ch ?_ (sub_trans hl rfl)
    | split

theorem State.sendLinkBytes_ch {pl : List Piece} {s0 : State} {s : State} {j use : Nat} {bytes : List Byte} (hc : Changes pl s0 s) (hl : subPieces [.ports] pl = true) :
    Changes pl s0 (State.sendLinkBytes s j use bytes) := by
  unfold State.sendLinkBytes
  try dsimp only
  repeat' first
    | with_reducible exact hc
    | with_reducible assumption
    | with_reducible refine State.egress_ch ?_ (sub_trans hl rfl)
    | with_reducible refine Changes.each ?_ (fun _ _ _ => ?_)
    | split

theorem State.sendLink_ch {pl : List Piece} {s0 : State} {s : State} {j use : Nat} (hc : Changes pl s0 s) (hl : subPieces [.ports, .free] pl = true) :
    Changes pl s0 (State.sendLink s j use) := by
  unfold State.sendLink
  try dsimp only
  repeat' first
    | with_reducible exact hc
    | with_reducible assumption
    | with_reducible refine State.sendLinkBytes_ch ?_ (sub_trans hl rfl)
    | split
    | ((with_reducible refine Changes.mk ?_ ?_); rotate_left; (intro x hx; cases x <;> first | exact (hx (mem_of_sub hl (by decide))).elim | (dsimp only [Piece.put]; done) | (dsimp only [Piece.put]; rfl)))

theorem State.enterAuth_ch {pl : List Piece} {s0 : State} {s : State} {j : Nat} (hc : Changes pl s0 s) (hl : subPieces [.regs, .ports, .free] pl = true) :
    Changes pl s0 (State.enterAuth s j) := by
  unfold State.enterAuth
  try dsimp only
  repeat' first
    | with_reducible exact hc
    | with_reducible assumption
    | with_reducible refine State.sendLinkBytes_ch ?_ (sub_trans hl rfl)
    | with_reducible refine State.setPortState_ch ?_ (sub_trans hl rfl)
    | with_reducible refine State.updPort_ch ?_ (sub_trans hl rfl)
    | with_reducible refine State.drawn_ch ?_ (sub_trans hl rfl)
    | split
    | ((with_reducible refine Changes.mk ?_ ?_); rotate_left; (intro x hx; cases x <;> first | exact (hx (mem_of_sub hl (by decide))).elim | (dsimp only [Piece.put]; done) | (dsimp only [Piece.put]; rfl)))

theorem State.trainRetry_ch {pl : List Piece} {s0 : State} {s : State} {j : Nat} {trained : Bool} (hc : Changes pl s0 s) (hl : subPieces [.regs, .msixPend, .rmt, .ports, .wins, .groups, .sendings, .log, .repair, .out, .free] pl = true) :
    Changes pl s0 (State.trainRetry s j trained) := by
  unfold State.trainRetry
  try dsimp only
  repeat' first
    | with_reducible exact hc
    | with_reducible assumption
    | with_reducible refine State.enterAuth_ch ?_ (sub_trans hl rfl)
    | with_reducible refine State.portDown_ch ?_ (sub_trans hl rfl)
    | with_reducible refine State.setPortState_ch ?_ (sub_trans hl rfl)
    | with_reducible refine State.wrs_ch ?_ (sub_trans hl rfl)
    | split

theorem State.fullTrain_ch {pl : List Piece} {s0 : State} {s : State} {j : Nat} {found : List Nat} (hc : Changes pl s0 s) (hl : subPieces [.regs, .msixPend, .rmt, .ports, .wins, .groups, .sendings, .log, .repair, .out] pl = true) :
    Changes pl s0 (State.fullTrain s j found) := by
  unfold State.fullTrain
  try dsimp only
  repeat' first
    | with_reducible exact hc
    | with_reducible assumption
    | with_reducible refine State.portDown_ch ?_ (sub_trans hl rfl)
    | with_reducible refine State.setPortState_ch ?_ (sub_trans hl rfl)
    | with_reducible refine State.wrs_ch ?_ (sub_trans hl rfl)
    | split

theorem State.authFail_ch {pl : List Piece} {s0 : State} {s : State} {j : Nat} (hc : Changes pl s0 s) (hl : subPieces [.regs, .msixPend, .ports, .log, .out] pl = true) :
    Changes pl s0 (State.authFail s j) := by
  unfold State.authFail
  try dsimp only
  repeat' first
    | with_reducible exact hc
    | with_reducible assumption
    | with_reducible refine State.setPortState_ch ?_ (sub_trans hl rfl)
    | with_reducible refine State.updPort_ch ?_ (sub_trans hl rfl)
    | with_reducible refine State.fault_ch ?_ (sub_trans hl rfl)
    | split

theorem State.newKeys_ch {pl : List Piece} {s0 : State} {s : State} {j use : Nat} {initiator : Bool} (hc : Changes pl s0 s) (hl : subPieces [.ports, .free] pl = true) :
    Changes pl s0 (State.newKeys s j use initiator) := by
  unfold State.newKeys
  try dsimp only
  repeat' first
    | with_reducible exact hc
    | with_reducible assumption
    | with_reducible refine State.sendLinkBytes_ch ?_ (sub_trans hl rfl)
    | with_reducible refine State.updPort_ch ?_ (sub_trans hl rfl)
    | split
    | ((with_reducible refine Changes.mk ?_ ?_); rotate_left; (intro x hx; cases x <;> first | exact (hx (mem_of_sub hl (by decide))).elim | (dsimp only [Piece.put]; done) | (dsimp only [Piece.put]; rfl)))

theorem State.authDone_ch {pl : List Piece} {s0 : State} {s : State} {j : Nat} {h : Handshake} (hc : Changes pl s0 s) (hl : subPieces [.regs, .msixPend, .ports, .log, .out, .free] pl = true) :
    Changes pl s0 (State.authDone s j h) := by
  unfold State.authDone
  try dsimp only
  repeat' first
    | with_reducible exact hc
    | with_reducible assumption
    | with_reducible refine State.newKeys_ch ?_ (sub_trans hl rfl)
    | with_reducible refine State.sendLinkBytes_ch ?_ (sub_trans hl rfl)
    | with_reducible refine State.setPortState_ch ?_ (sub_trans hl rfl)
    | with_reducible refine State.updPort_ch ?_ (sub_trans hl rfl)
    | with_reducible refine State.fault_ch ?_ (sub_trans hl rfl)
    | with_reducible refine State.drawn_ch ?_ (sub_trans hl rfl)
    | with_reducible refine State.wrs_ch ?_ (sub_trans hl rfl)
    | with_reducible refine State.wr_ch ?_ (sub_trans hl rfl)
    | split

theorem State.handshake_ch {pl : List Piece} {s0 : State} {s : State} {j : Nat} {h : Handshake} (hc : Changes pl s0 s) (hl : subPieces [.regs, .msixPend, .rmt, .ports, .wins, .groups, .sendings, .log, .repair, .out, .free] pl = true) :
    Changes pl s0 (State.handshake s j h) := by
  unfold State.handshake
  try dsimp only
  repeat' first
    | with_reducible exact hc
    | with_reducible assumption
    | with_reducible refine State.authDone_ch ?_ (sub_trans hl rfl)
    | with_reducible refine State.authFail_ch ?_ (sub_trans hl rfl)
    | with_reducible refine State.portDown_ch ?_ (sub_trans hl rfl)
    | with_reducible refine State.fault_ch ?_ (sub_trans hl rfl)
    | split

theorem State.authTimeout_ch {pl : List Piece} {s0 : State} {s : State} {j : Nat} (hc : Changes pl s0 s) (hl : subPieces [.regs, .msixPend, .rmt, .ports, .wins, .groups, .sendings, .log, .repair, .out] pl = true) :
    Changes pl s0 (State.authTimeout s j) := by
  unfold State.authTimeout
  try dsimp only
  repeat' first
    | with_reducible exact hc
    | with_reducible assumption
    | with_reducible refine State.portDown_ch ?_ (sub_trans hl rfl)
    | with_reducible refine State.fault_ch ?_ (sub_trans hl rfl)
    | split

theorem State.authRetry_ch {pl : List Piece} {s0 : State} {s : State} {j : Nat} (hc : Changes pl s0 s) (hl : subPieces [.regs, .ports, .free] pl = true) :
    Changes pl s0 (State.authRetry s j) := by
  unfold State.authRetry
  try dsimp only
  repeat' first
    | with_reducible exact hc
    | with_reducible assumption
    | with_reducible refine State.enterAuth_ch ?_ (sub_trans hl rfl)
    | split

theorem State.rekey_ch {pl : List Piece} {s0 : State} {s : State} {j : Nat} {ok : Bool} (hc : Changes pl s0 s) (hl : subPieces [.regs, .msixPend, .rmt, .ports, .wins, .groups, .sendings, .log, .repair, .out, .free] pl = true) :
    Changes pl s0 (State.rekey s j ok) := by
  unfold State.rekey
  try dsimp only
  repeat' first
    | with_reducible exact hc
    | with_reducible assumption
    | with_reducible refine State.newKeys_ch ?_ (sub_trans hl rfl)
    | with_reducible refine State.sendLink_ch ?_ (sub_trans hl rfl)
    | with_reducible refine State.portDown_ch ?_ (sub_trans hl rfl)
    | with_reducible refine State.fault_ch ?_ (sub_trans hl rfl)
    | split

theorem State.linkLost_ch {pl : List Piece} {s0 : State} {s : State} {j : Nat} (hc : Changes pl s0 s) (hl : subPieces [.regs, .msixPend, .rmt, .ports, .wins, .groups, .sendings, .log, .repair, .out] pl = true) :
    Changes pl s0 (State.linkLost s j) := by
  unfold State.linkLost
  try dsimp only
  repeat' first
    | with_reducible exact hc
    | with_reducible assumption
    | with_reducible refine State.lose_ch ?_ (sub_trans hl rfl)
    | with_reducible refine State.portDown_ch ?_ (sub_trans hl rfl)
    | with_reducible refine State.fault_ch ?_ (sub_trans hl rfl)
    | split

theorem State.keepalive_ch {pl : List Piece} {s0 : State} {s : State} {j : Nat} (hc : Changes pl s0 s) (hl : subPieces [.ports, .free] pl = true) :
    Changes pl s0 (State.keepalive s j) := by
  unfold State.keepalive
  try dsimp only
  repeat' first
    | with_reducible exact hc
    | with_reducible assumption
    | with_reducible refine State.sendLink_ch ?_ (sub_trans hl rfl)
    | with_reducible refine State.updPort_ch ?_ (sub_trans hl rfl)
    | split

theorem State.linkWake_ch {pl : List Piece} {s0 : State} {s : State} {j : Nat} (hc : Changes pl s0 s) (hl : subPieces [.regs] pl = true) :
    Changes pl s0 (State.linkWake s j) := by
  unfold State.linkWake
  try dsimp only
  repeat' first
    | with_reducible exact hc
    | with_reducible assumption
    | with_reducible refine State.startWake_ch ?_ (sub_trans hl rfl)
    | split

theorem State.lambdaSwitch_ch {pl : List Piece} {s0 : State} {s : State} {j lam : Nat} {reported : Bool} (hc : Changes pl s0 s) (hl : subPieces [.regs, .msixPend, .rmt, .ports, .wins, .groups, .sendings, .log, .repair, .out, .free] pl = true) :
    Changes pl s0 (State.lambdaSwitch s j lam reported) := by
  unfold State.lambdaSwitch
  try dsimp only
  repeat' first
    | with_reducible exact hc
    | with_reducible assumption
    | with_reducible refine State.sendLink_ch ?_ (sub_trans hl rfl)
    | with_reducible refine State.portDown_ch ?_ (sub_trans hl rfl)
    | with_reducible refine State.fault_ch ?_ (sub_trans hl rfl)
    | with_reducible refine State.wrs_ch ?_ (sub_trans hl rfl)
    | with_reducible refine State.wr_ch ?_ (sub_trans hl rfl)
    | split

theorem State.takeTime_ch {pl : List Piece} {s0 : State} {s : State} {j : Nat} (hc : Changes pl s0 s) (hl : subPieces [.ports] pl = true) :
    Changes pl s0 (State.takeTime s j) := by
  unfold State.takeTime
  try dsimp only
  repeat' first
    | with_reducible exact hc
    | with_reducible assumption
    | with_reducible refine State.takeCell_ch ?_ (sub_trans hl rfl)
    | split

theorem State.onTime_ch {pl : List Piece} {s0 : State} {s : State} {j domain : Nat} {f : State → State} (hc : Changes pl s0 s) (hl : subPieces [.ports] pl = true) (hf : ∀ s, Changes pl s0 s → Changes pl s0 (f s)) :
    Changes pl s0 (State.onTime s j domain f) := by
  unfold State.onTime
  try dsimp only
  repeat' first
    | with_reducible exact hc
    | with_reducible assumption
    | with_reducible refine hf _ ?_
    | with_reducible refine State.takeTime_ch ?_ (sub_trans hl rfl)
    | split

theorem State.updPtp_ch {pl : List Piece} {s0 : State} {s : State} {j : Nat} {f : Ptp → Ptp} (hc : Changes pl s0 s) (hl : subPieces [.ptp] pl = true) :
    Changes pl s0 (State.updPtp s j f) := by
  unfold State.updPtp
  try dsimp only
  repeat' first
    | with_reducible exact hc
    | with_reducible assumption
    | split
    | ((with_reducible refine Changes.mk ?_ ?_); rotate_left; (intro x hx; cases x <;> first | exact (hx (mem_of_sub hl (by decide))).elim | (dsimp only [Piece.put]; done) | (dsimp only [Piece.put]; rfl)))

theorem State.stepTime_ch {pl : List Piece} {s0 : State} {s : State} {target : Nat} (hc : Changes pl s0 s) (hl : subPieces [.regs, .dt, .aon] pl = true) :
    Changes pl s0 (State.stepTime s target) := by
  unfold State.stepTime
  try dsimp only
  repeat' first
    | with_reducible exact hc
    | with_reducible assumption
    | with_reducible refine State.wr_ch ?_ (sub_trans hl rfl)
    | split
    | ((with_reducible refine Changes.mk ?_ ?_); rotate_left; (intro x hx; cases x <;> first | exact (hx (mem_of_sub hl (by decide))).elim | (dsimp only [Piece.put]; done) | (dsimp only [Piece.put]; rfl)))

theorem State.slew_ch {pl : List Piece} {s0 : State} {s : State} {off : Int} (hc : Changes pl s0 s) (hl : subPieces [.aon, .free] pl = true) :
    Changes pl s0 (State.slew s off) := by
  unfold State.slew
  try dsimp only
  repeat' first
    | with_reducible exact hc
    | with_reducible assumption
    | with_reducible refine State.drawn_ch ?_ (sub_trans hl rfl)
    | split
    | ((with_reducible refine Changes.mk ?_ ?_); rotate_left; (intro x hx; cases x <;> first | exact (hx (mem_of_sub hl (by decide))).elim | (dsimp only [Piece.put]; done) | (dsimp only [Piece.put]; rfl)))

theorem State.servo_ch {pl : List Piece} {s0 : State} {s : State} {off : Int} (hc : Changes pl s0 s) (hl : subPieces [.regs, .dt, .aon, .msixPend, .log, .out, .free] pl = true) :
    Changes pl s0 (State.servo s off) := by
  unfold State.servo
  try dsimp only
  repeat' first
    | with_reducible exact hc
    | with_reducible assumption
    | with_reducible refine State.slew_ch ?_ (sub_trans hl rfl)
    | with_reducible refine State.stepTime_ch ?_ (sub_trans hl rfl)
    | with_reducible refine State.fault_ch ?_ (sub_trans hl rfl)
    | with_reducible refine State.wr_ch ?_ (sub_trans hl rfl)
    | split
    | ((with_reducible refine Changes.mk ?_ ?_); rotate_left; (intro x hx; cases x <;> first | exact (hx (mem_of_sub hl (by decide))).elim | (dsimp only [Piece.put]; done) | (dsimp only [Piece.put]; rfl)))

theorem State.followUp_ch {pl : List Piece} {s0 : State} {s : State} {j seq origin : Nat} (hc : Changes pl s0 s) (hl : subPieces [.regs, .dt, .aon, .msixPend, .ptp, .log, .out, .free] pl = true) :
    Changes pl s0 (State.followUp s j seq origin) := by
  unfold State.followUp
  try dsimp only
  repeat' first
    | with_reducible exact hc
    | with_reducible assumption
    | with_reducible refine State.servo_ch ?_ (sub_trans hl rfl)
    | with_reducible refine State.updPtp_ch ?_ (sub_trans hl rfl)
    | split

theorem State.sendTime_ch {pl : List Piece} {s0 : State} {s : State} {j : Nat} (hc : Changes pl s0 s) (hl : subPieces [.ports, .free] pl = true) :
    Changes pl s0 (State.sendTime s j) := by
  unfold State.sendTime
  try dsimp only
  repeat' first
    | with_reducible exact hc
    | with_reducible assumption
    | with_reducible refine State.egress_ch ?_ (sub_trans hl rfl)
    | with_reducible refine State.drawn_ch ?_ (sub_trans hl rfl)
    | split

theorem State.chooseMaster_ch {pl : List Piece} {s0 : State} {s : State} (hc : Changes pl s0 s) (hl : subPieces [.regs] pl = true) :
    Changes pl s0 (State.chooseMaster s) := by
  unfold State.chooseMaster
  try dsimp only
  repeat' first
    | with_reducible exact hc
    | with_reducible assumption
    | with_reducible refine State.wrs_ch ?_ (sub_trans hl rfl)
    | with_reducible refine State.wr_ch ?_ (sub_trans hl rfl)
    | split

theorem State.announce_ch {pl : List Piece} {s0 : State} {s : State} {j : Nat} {c : ClockSet} (hc : Changes pl s0 s) (hl : subPieces [.regs, .ptp] pl = true) :
    Changes pl s0 (State.announce s j c) := by
  unfold State.announce
  try dsimp only
  repeat' first
    | with_reducible exact hc
    | with_reducible assumption
    | with_reducible refine State.chooseMaster_ch ?_ (sub_trans hl rfl)
    | with_reducible refine State.updPtp_ch ?_ (sub_trans hl rfl)
    | split

theorem State.timeMessages_ch {pl : List Piece} {s0 : State} {s : State} {j : Nat} (hc : Changes pl s0 s) (hl : subPieces [.ports, .ptp, .free] pl = true) :
    Changes pl s0 (State.timeMessages s j) := by
  unfold State.timeMessages
  try dsimp only
  repeat' first
    | with_reducible exact hc
    | with_reducible assumption
    | with_reducible refine State.sendTime_ch ?_ (sub_trans hl rfl)
    | with_reducible refine State.updPtp_ch ?_ (sub_trans hl rfl)
    | split

theorem State.timeTick_ch {pl : List Piece} {s0 : State} {s : State} (hc : Changes pl s0 s) (hl : subPieces [.regs, .ports, .ptp, .free] pl = true) :
    Changes pl s0 (State.timeTick s) := by
  unfold State.timeTick
  try dsimp only
  repeat' first
    | with_reducible exact hc
    | with_reducible assumption
    | with_reducible refine State.timeMessages_ch ?_ (sub_trans hl rfl)
    | with_reducible refine State.chooseMaster_ch ?_ (sub_trans hl rfl)
    | with_reducible refine Changes.each ?_ (fun _ _ _ => ?_)
    | split

theorem State.applyPending_ch {pl : List Piece} {s0 : State} {s : State} (hc : Changes pl s0 s) (hl : subPieces [.slotCfg, .regions] pl = true) :
    Changes pl s0 (State.applyPending s) := by
  unfold State.applyPending
  try dsimp only
  repeat' first
    | with_reducible exact hc
    | with_reducible assumption
    | with_reducible refine Changes.foldl ?_ (fun _ _ _ => ?_)
    | with_reducible refine Changes.foldl_fst ?_ (fun _ _ _ => ?_)
    | split
    | ((with_reducible refine Changes.mk ?_ ?_); rotate_left; (intro x hx; cases x <;> first | exact (hx (mem_of_sub hl (by decide))).elim | (dsimp only [Piece.put]; done) | (dsimp only [Piece.put]; rfl)))

theorem State.closeDue_ch {pl : List Piece} {s0 : State} {s : State} (hc : Changes pl s0 s) (hl : subPieces [.wins] pl = true) :
    Changes pl s0 (State.closeDue s) := by
  unfold State.closeDue
  try dsimp only
  repeat' first
    | with_reducible exact hc
    | with_reducible assumption
    | with_reducible refine Changes.foldl ?_ (fun _ _ _ => ?_)
    | with_reducible refine Changes.foldl_fst ?_ (fun _ _ _ => ?_)
    | split
    | ((with_reducible refine Changes.mk ?_ ?_); rotate_left; (intro x hx; cases x <;> first | exact (hx (mem_of_sub hl (by decide))).elim | (dsimp only [Piece.put]; done) | (dsimp only [Piece.put]; rfl)))

theorem State.startPart_ch {pl : List Piece} {s0 : State} {s : State} {p : Nat} (hc : Changes pl s0 s) (hl : subPieces [.regs, .vat, .vatCode, .work, .burin, .parts, .ports, .wins, .groups, .sendings] pl = true) :
    Changes pl s0 (State.startPart s p) := by
  unfold State.startPart
  try dsimp only
  repeat' first
    | with_reducible exact hc
    | with_reducible assumption
    | with_reducible refine State.takeStop_ch ?_ (sub_trans hl rfl)
    | with_reducible refine State.setPState_ch ?_ (sub_trans hl rfl)
    | with_reducible refine State.updPart_ch ?_ (sub_trans hl rfl)
    | split

theorem State.prune_ch {pl : List Piece} {s0 : State} {s : State} (hc : Changes pl s0 s) (hl : subPieces [.press, .seqs] pl = true) :
    Changes pl s0 (State.prune s) := by
  unfold State.prune
  try dsimp only
  repeat' first
    | with_reducible exact hc
    | with_reducible assumption
    | with_reducible refine Changes.foldl ?_ (fun _ _ _ => ?_)
    | with_reducible refine Changes.foldl_fst ?_ (fun _ _ _ => ?_)
    | split
    | ((with_reducible refine Changes.mk ?_ ?_); rotate_left; (intro x hx; cases x <;> first | exact (hx (mem_of_sub hl (by decide))).elim | (dsimp only [Piece.put]; done) | (dsimp only [Piece.put]; rfl)))

theorem State.frameStart_ch {pl : List Piece} {s0 : State} {s : State} (hc : Changes pl s0 s) (hl : subPieces [.regs, .grid, .quarters, .dieFence, .vat, .vatCode, .work, .plateT, .slotCfg, .stk, .stkCode, .regions, .maps, .wcb, .held, .lanes, .press, .burin, .churn, .seqs, .parts, .pcmd, .measStart, .measEnd, .measOn, .measNext, .reqs, .msixPend, .rmt, .ports, .wins, .groups, .sendings, .log, .repair, .boot, .out] pl = true) :
    Changes pl s0 (State.frameStart s) := by
  unfold State.frameStart
  try dsimp only
  repeat' first
    | with_reducible exact hc
    | with_reducible assumption
    | with_reducible refine State.prune_ch ?_ (sub_trans hl rfl)
    | with_reducible refine State.startPart_ch ?_ (sub_trans hl rfl)
    | with_reducible refine State.closeDue_ch ?_ (sub_trans hl rfl)
    | with_reducible refine State.applyPending_ch ?_ (sub_trans hl rfl)
    | with_reducible refine State.runWork_ch ?_ (sub_trans hl rfl)
    | with_reducible refine State.refreshFrame_ch ?_ (sub_trans hl rfl)
    | with_reducible refine State.gridAdvance_ch ?_ (sub_trans hl rfl)
    | with_reducible refine State.sampleWait_ch ?_ (sub_trans hl rfl)
    | with_reducible refine State.measDue_ch ?_ (sub_trans hl rfl)
    | with_reducible refine State.countFrame_ch ?_ (sub_trans hl rfl)
    | with_reducible refine State.finishUnload_ch ?_ (sub_trans hl rfl)
    | with_reducible refine State.attestServe_ch ?_ (sub_trans hl rfl)
    | with_reducible refine Changes.each ?_ (fun _ _ _ => ?_)
    | split
    | ((with_reducible refine Changes.mk ?_ ?_); rotate_left; (intro x hx; cases x <;> first | exact (hx (mem_of_sub hl (by decide))).elim | (dsimp only [Piece.put]; done) | (dsimp only [Piece.put]; rfl)))

theorem State.broadcastSlow_ch {pl : List Piece} {s0 : State} {s : State} (hc : Changes pl s0 s) (hl : subPieces [.ports, .groups, .pwr] pl = true) :
    Changes pl s0 (State.broadcastSlow s) := by
  unfold State.broadcastSlow
  try dsimp only
  repeat' first
    | with_reducible exact hc
    | with_reducible assumption
    | with_reducible refine State.setSlow_ch ?_ (sub_trans hl rfl)
    | with_reducible refine State.originate_ch ?_ (sub_trans hl rfl)
    | with_reducible refine Changes.each ?_ (fun _ _ _ => ?_)
    | split
    | ((with_reducible refine Changes.mk ?_ ?_); rotate_left; (intro x hx; cases x <;> first | exact (hx (mem_of_sub hl (by decide))).elim | (dsimp only [Piece.put]; done) | (dsimp only [Piece.put]; rfl)))

theorem State.newLevel_ch {pl : List Piece} {s0 : State} {s : State} (hc : Changes pl s0 s) (hl : subPieces [.regs, .msixPend, .ports, .groups, .pwr, .out] pl = true) :
    Changes pl s0 (State.newLevel s) := by
  unfold State.newLevel
  try dsimp only
  repeat' first
    | with_reducible exact hc
    | with_reducible assumption
    | with_reducible refine State.broadcastSlow_ch ?_ (sub_trans hl rfl)
    | with_reducible refine State.partEvent_ch ?_ (sub_trans hl rfl)
    | with_reducible refine State.wr_ch ?_ (sub_trans hl rfl)
    | split

theorem State.slowRepeat_ch {pl : List Piece} {s0 : State} {s : State} (hc : Changes pl s0 s) (hl : subPieces [.ports, .groups, .pwr] pl = true) :
    Changes pl s0 (State.slowRepeat s) := by
  unfold State.slowRepeat
  try dsimp only
  repeat' first
    | with_reducible exact hc
    | with_reducible assumption
    | with_reducible refine State.broadcastSlow_ch ?_ (sub_trans hl rfl)
    | split

theorem State.quarterOff_ch {pl : List Piece} {s0 : State} {s : State} {q : Nat} (hc : Changes pl s0 s) (hl : subPieces [.regs, .quarters, .vat, .vatCode, .stk, .stkCode, .wcb, .held, .parts, .msixPend, .log, .out] pl = true) :
    Changes pl s0 (State.quarterOff s q) := by
  unfold State.quarterOff
  try dsimp only
  repeat' first
    | with_reducible exact hc
    | with_reducible assumption
    | with_reducible refine State.wcbDrain_ch ?_ (sub_trans hl rfl)
    | with_reducible refine State.vatClear_ch ?_ (sub_trans hl rfl)
    | with_reducible refine State.setQ_ch ?_ (sub_trans hl rfl)
    | split

theorem State.quartersOff_ch {pl : List Piece} {s0 : State} {s : State} (hc : Changes pl s0 s) (hl : subPieces [.regs, .quarters, .vat, .vatCode, .stk, .stkCode, .wcb, .held, .parts, .msixPend, .log, .out] pl = true) :
    Changes pl s0 (State.quartersOff s) := by
  unfold State.quartersOff
  try dsimp only
  repeat' first
    | with_reducible exact hc
    | with_reducible assumption
    | with_reducible refine State.quarterOff_ch ?_ (sub_trans hl rfl)
    | with_reducible refine Changes.each ?_ (fun _ _ _ => ?_)
    | split

theorem State.portsLow_ch {pl : List Piece} {s0 : State} {s : State} (hc : Changes pl s0 s) (hl : subPieces [.regs, .ports, .free] pl = true) :
    Changes pl s0 (State.portsLow s) := by
  unfold State.portsLow
  try dsimp only
  repeat' first
    | with_reducible exact hc
    | with_reducible assumption
    | with_reducible refine State.sendLink_ch ?_ (sub_trans hl rfl)
    | with_reducible refine State.setPortState_ch ?_ (sub_trans hl rfl)
    | with_reducible refine State.wrs_ch ?_ (sub_trans hl rfl)
    | with_reducible refine Changes.each ?_ (fun _ _ _ => ?_)
    | split

theorem State.drainAll_ch {pl : List Piece} {s0 : State} {s : State} (hc : Changes pl s0 s) (hl : subPieces [.regs, .stk, .stkCode, .wcb, .held, .parts, .msixPend, .log, .out] pl = true) :
    Changes pl s0 (State.drainAll s) := by
  unfold State.drainAll
  try dsimp only
  repeat' first
    | with_reducible exact hc
    | with_reducible assumption
    | with_reducible refine State.wcbDrain_ch ?_ (sub_trans hl rfl)
    | with_reducible refine Changes.each ?_ (fun _ _ _ => ?_)
    | split

theorem State.retireAll_ch {pl : List Piece} {s0 : State} {s : State} (hc : Changes pl s0 s) (hl : subPieces [.regs, .vat, .vatCode, .stk, .stkCode, .wcb, .held, .parts, .reqs, .pools, .msixPend, .wins, .log, .out] pl = true) :
    Changes pl s0 (State.retireAll s) := by
  unfold State.retireAll
  try dsimp only
  repeat' first
    | with_reducible exact hc
    | with_reducible assumption
    | with_reducible refine State.retireReq_ch ?_ (sub_trans hl rfl)
    | with_reducible refine Changes.each ?_ (fun _ _ _ => ?_)
    | split

theorem State.abandonRepair_ch {pl : List Piece} {s0 : State} {s : State} (hc : Changes pl s0 s) (hl : subPieces [.regs, .quarters, .rowCopy, .msixPend, .wins, .log, .repair, .out] pl = true) :
    Changes pl s0 (State.abandonRepair s) := by
  unfold State.abandonRepair
  try dsimp only
  repeat' first
    | with_reducible exact hc
    | with_reducible assumption
    | with_reducible refine State.refetchEnd_ch ?_ (sub_trans hl rfl)
    | with_reducible refine State.repairEnd_ch ?_ (sub_trans hl rfl)
    | with_reducible refine State.setQ_ch ?_ (sub_trans hl rfl)
    | split
    | ((with_reducible refine Changes.mk ?_ ?_); rotate_left; (intro x hx; cases x <;> first | exact (hx (mem_of_sub hl (by decide))).elim | (dsimp only [Piece.put]; done) | (dsimp only [Piece.put]; rfl)))

theorem State.emptyPart_ch {pl : List Piece} {s0 : State} {s : State} {p : Nat} (hc : Changes pl s0 s) (hl : subPieces [.regs, .quarters, .dieFence, .work, .stk, .stkCode, .maps, .wcb, .held, .burin, .seqs, .parts, .pcmd, .msixPend, .rmt, .ports, .wins, .groups, .sendings, .log, .repair, .boot, .out] pl = true) :
    Changes pl s0 (State.emptyPart s p) := by
  unfold State.emptyPart
  try dsimp only
  repeat' first
    | with_reducible exact hc
    | with_reducible assumption
    | with_reducible refine State.unloadPart_ch ?_ (sub_trans hl rfl)
    | with_reducible refine State.withdrawAll_ch ?_ (sub_trans hl rfl)
    | split

theorem State.abandonCmd_ch {pl : List Piece} {s0 : State} {s : State} (hc : Changes pl s0 s) (hl : subPieces [.regs, .quarters, .dieFence, .work, .stk, .stkCode, .maps, .wcb, .held, .burin, .seqs, .parts, .pcmd, .msixPend, .rmt, .ports, .wins, .groups, .sendings, .log, .repair, .boot, .out] pl = true) :
    Changes pl s0 (State.abandonCmd s) := by
  unfold State.abandonCmd
  try dsimp only
  repeat' first
    | with_reducible exact hc
    | with_reducible assumption
    | with_reducible refine State.emptyPart_ch ?_ (sub_trans hl rfl)
    | with_reducible refine State.pcmdEnd_ch ?_ (sub_trans hl rfl)
    | with_reducible refine Changes.each ?_ (fun _ _ _ => ?_)
    | split

theorem State.shutdownStop_ch {pl : List Piece} {s0 : State} {s : State} {p : Nat} (hc : Changes pl s0 s) (hl : subPieces [.regs, .parts] pl = true) :
    Changes pl s0 (State.shutdownStop s p) := by
  unfold State.shutdownStop
  try dsimp only
  repeat' first
    | with_reducible exact hc
    | with_reducible assumption
    | with_reducible refine State.askStop_ch ?_ (sub_trans hl rfl)
    | split

theorem State.startShutdown_ch {pl : List Piece} {s0 : State} {s : State} (hc : Changes pl s0 s) (hl : subPieces [.regs, .quarters, .dieFence, .work, .stk, .stkCode, .maps, .wcb, .held, .rowCopy, .burin, .seqs, .parts, .pcmd, .msixPend, .rmt, .ports, .wins, .groups, .sendings, .log, .repair, .pwr, .boot, .out] pl = true) :
    Changes pl s0 (State.startShutdown s) := by
  unfold State.startShutdown
  try dsimp only
  repeat' first
    | with_reducible exact hc
    | with_reducible assumption
    | with_reducible refine State.shutdownStop_ch ?_ (sub_trans hl rfl)
    | with_reducible refine State.abandonCmd_ch ?_ (sub_trans hl rfl)
    | with_reducible refine State.abandonRepair_ch ?_ (sub_trans hl rfl)
    | with_reducible refine State.fault_ch ?_ (sub_trans hl rfl)
    | with_reducible refine State.partEvent_ch ?_ (sub_trans hl rfl)
    | with_reducible refine State.wr_ch ?_ (sub_trans hl rfl)
    | with_reducible refine Changes.each ?_ (fun _ _ _ => ?_)
    | split
    | ((with_reducible refine Changes.mk ?_ ?_); rotate_left; (intro x hx; cases x <;> first | exact (hx (mem_of_sub hl (by decide))).elim | (dsimp only [Piece.put]; done) | (dsimp only [Piece.put]; rfl)))

theorem State.graceHalt_ch {pl : List Piece} {s0 : State} {s : State} {p : Nat} (hc : Changes pl s0 s) (hl : subPieces [.regs, .quarters, .dieFence, .work, .stk, .stkCode, .maps, .wcb, .held, .burin, .seqs, .parts, .pcmd, .msixPend, .rmt, .ports, .wins, .groups, .sendings, .log, .repair, .boot, .out] pl = true) :
    Changes pl s0 (State.graceHalt s p) := by
  unfold State.graceHalt
  try dsimp only
  repeat' first
    | with_reducible exact hc
    | with_reducible assumption
    | with_reducible refine State.emptyPart_ch ?_ (sub_trans hl rfl)
    | with_reducible refine State.haltPart_ch ?_ (sub_trans hl rfl)
    | split

theorem State.lastRecords_ch {pl : List Piece} {s0 : State} {s : State} {f : Nat} (hc : Changes pl s0 s) (hl : subPieces [.regs, .cqs, .msixPend, .out] pl = true) :
    Changes pl s0 (State.lastRecords s f) := by
  unfold State.lastRecords
  try dsimp only
  repeat' first
    | with_reducible exact hc
    | with_reducible assumption
    | with_reducible refine State.cqTail_ch ?_ (sub_trans hl rfl)
    | with_reducible refine State.cqFlush_ch ?_ (sub_trans hl rfl)
    | with_reducible refine State.updCq_ch ?_ (sub_trans hl rfl)
    | split

theorem State.trip_ch {pl : List Piece} {s0 : State} {s : State} {pin : Bool} (hc : Changes pl s0 s) (hl : subPieces [.regs, .quarters, .vat, .vatCode, .stk, .stkCode, .wcb, .held, .parts, .msixPend, .log, .pwr, .out] pl = true) :
    Changes pl s0 (State.trip s pin) := by
  unfold State.trip
  try dsimp only
  repeat' first
    | with_reducible exact hc
    | with_reducible assumption
    | with_reducible refine State.quartersOff_ch ?_ (sub_trans hl rfl)
    | with_reducible refine State.wr_ch ?_ (sub_trans hl rfl)
    | split
    | ((with_reducible refine Changes.mk ?_ ?_); rotate_left; (intro x hx; cases x <;> first | exact (hx (mem_of_sub hl (by decide))).elim | (dsimp only [Piece.put]; done) | (dsimp only [Piece.put]; rfl)))

theorem State.pollTrip_ch {pl : List Piece} {s0 : State} {s : State} (hc : Changes pl s0 s) (hl : subPieces [.regs, .quarters, .dieFence, .vat, .vatCode, .work, .stk, .stkCode, .maps, .wcb, .held, .burin, .seqs, .parts, .pcmd, .reqs, .pools, .cqs, .msixPend, .rmt, .ports, .wins, .groups, .sendings, .log, .repair, .pwr, .boot, .out, .free] pl = true) :
    Changes pl s0 (State.pollTrip s) := by
  unfold State.pollTrip
  try dsimp only
  repeat' first
    | with_reducible exact hc
    | with_reducible assumption
    | with_reducible refine State.trip_ch ?_ (sub_trans hl rfl)
    | with_reducible refine State.lastRecords_ch ?_ (sub_trans hl rfl)
    | with_reducible refine State.retireAll_ch ?_ (sub_trans hl rfl)
    | with_reducible refine State.drainAll_ch ?_ (sub_trans hl rfl)
    | with_reducible refine State.portsLow_ch ?_ (sub_trans hl rfl)
    | with_reducible refine State.unloadPart_ch ?_ (sub_trans hl rfl)
    | with_reducible refine Changes.each ?_ (fun _ _ _ => ?_)
    | split

theorem State.graceEnd_ch {pl : List Piece} {s0 : State} {s : State} (hc : Changes pl s0 s) (hl : subPieces [.regs, .quarters, .dieFence, .vat, .vatCode, .work, .stk, .stkCode, .maps, .wcb, .held, .rowCopy, .burin, .seqs, .parts, .pcmd, .reqs, .pools, .cqs, .msixPend, .rmt, .ports, .wins, .groups, .sendings, .log, .repair, .pwr, .boot, .out, .free] pl = true) :
    Changes pl s0 (State.graceEnd s) := by
  unfold State.graceEnd
  try dsimp only
  repeat' first
    | with_reducible exact hc
    | with_reducible assumption
    | with_reducible refine State.pollTrip_ch ?_ (sub_trans hl rfl)
    | with_reducible refine State.graceHalt_ch ?_ (sub_trans hl rfl)
    | with_reducible refine State.abandonRepair_ch ?_ (sub_trans hl rfl)
    | with_reducible refine Changes.each ?_ (fun _ _ _ => ?_)
    | split

theorem State.hardTrip_ch {pl : List Piece} {s0 : State} {s : State} {detail : Nat} (hc : Changes pl s0 s) (hl : subPieces [.regs, .quarters, .dieFence, .vat, .vatCode, .work, .stk, .stkCode, .maps, .wcb, .held, .rowCopy, .burin, .seqs, .parts, .pcmd, .reqs, .pools, .cqs, .msixPend, .rmt, .ports, .wins, .groups, .sendings, .log, .repair, .pwr, .boot, .out] pl = true) :
    Changes pl s0 (State.hardTrip s detail) := by
  unfold State.hardTrip
  try dsimp only
  repeat' first
    | with_reducible exact hc
    | with_reducible assumption
    | with_reducible refine State.trip_ch ?_ (sub_trans hl rfl)
    | with_reducible refine State.abandonRepair_ch ?_ (sub_trans hl rfl)
    | with_reducible refine State.retireAll_ch ?_ (sub_trans hl rfl)
    | with_reducible refine State.updCq_ch ?_ (sub_trans hl rfl)
    | with_reducible refine State.unloadPart_ch ?_ (sub_trans hl rfl)
    | with_reducible refine State.portDown_ch ?_ (sub_trans hl rfl)
    | with_reducible refine State.pcmdEnd_ch ?_ (sub_trans hl rfl)
    | with_reducible refine State.logEvent_ch ?_ (sub_trans hl rfl)
    | with_reducible refine State.wr_ch ?_ (sub_trans hl rfl)
    | with_reducible refine Changes.each ?_ (fun _ _ _ => ?_)
    | split

theorem State.refLoss_ch {pl : List Piece} {s0 : State} {s : State} (hc : Changes pl s0 s) (hl : subPieces [.regs, .aon, .quarters, .dieFence, .vat, .vatCode, .work, .stk, .stkCode, .maps, .wcb, .held, .rowCopy, .burin, .seqs, .parts, .pcmd, .reqs, .pools, .cqs, .msixPend, .rmt, .ports, .wins, .groups, .sendings, .log, .repair, .pwr, .boot, .out, .free] pl = true) :
    Changes pl s0 (State.refLoss s) := by
  unfold State.refLoss
  try dsimp only
  repeat' first
    | with_reducible exact hc
    | with_reducible assumption
    | with_reducible refine State.hardTrip_ch ?_ (sub_trans hl rfl)
    | with_reducible refine State.drawn_ch ?_ (sub_trans hl rfl)
    | split
    | ((with_reducible refine Changes.mk ?_ ?_); rotate_left; (intro x hx; cases x <;> first | exact (hx (mem_of_sub hl (by decide))).elim | (dsimp only [Piece.put]; done) | (dsimp only [Piece.put]; rfl)))

theorem State.supplyLog_ch {pl : List Piece} {s0 : State} {s : State} (hc : Changes pl s0 s) (hl : subPieces [.regs, .msixPend, .log, .out] pl = true) :
    Changes pl s0 (State.supplyLog s) := by
  unfold State.supplyLog
  try dsimp only
  repeat' first
    | with_reducible exact hc
    | with_reducible assumption
    | with_reducible refine State.fault_ch ?_ (sub_trans hl rfl)
    | with_reducible refine State.partEvent_ch ?_ (sub_trans hl rfl)
    | split

theorem State.limit_ch {pl : List Piece} {s0 : State} {s : State} {w : Nat} (hc : Changes pl s0 s) (hl : subPieces [.regs, .msixPend, .ports, .groups, .log, .pwr, .out] pl = true) :
    Changes pl s0 (State.limit s w) := by
  unfold State.limit
  try dsimp only
  repeat' first
    | with_reducible exact hc
    | with_reducible assumption
    | with_reducible refine State.newLevel_ch ?_ (sub_trans hl rfl)
    | with_reducible refine State.fault_ch ?_ (sub_trans hl rfl)
    | with_reducible refine State.partEvent_ch ?_ (sub_trans hl rfl)
    | with_reducible refine State.inc_ch ?_ (sub_trans hl rfl)
    | with_reducible refine State.wr_ch ?_ (sub_trans hl rfl)
    | split
    | ((with_reducible refine Changes.mk ?_ ?_); rotate_left; (intro x hx; cases x <;> first | exact (hx (mem_of_sub hl (by decide))).elim | (dsimp only [Piece.put]; done) | (dsimp only [Piece.put]; rfl)))

theorem State.supplyReading_ch {pl : List Piece} {s0 : State} {s : State} {v a w : Nat} (hc : Changes pl s0 s) (hl : subPieces [.regs, .msixPend, .ports, .groups, .log, .pwr, .out] pl = true) :
    Changes pl s0 (State.supplyReading s v a w) := by
  unfold State.supplyReading
  try dsimp only
  repeat' first
    | with_reducible exact hc
    | with_reducible assumption
    | with_reducible refine State.limit_ch ?_ (sub_trans hl rfl)
    | with_reducible refine State.supplyLog_ch ?_ (sub_trans hl rfl)
    | with_reducible refine State.wrs_ch ?_ (sub_trans hl rfl)
    | with_reducible refine State.wr_ch ?_ (sub_trans hl rfl)
    | split
    | ((with_reducible refine Changes.mk ?_ ?_); rotate_left; (intro x hx; cases x <;> first | exact (hx (mem_of_sub hl (by decide))).elim | (dsimp only [Piece.put]; done) | (dsimp only [Piece.put]; rfl)))

theorem State.supplyWindow_ch {pl : List Piece} {s0 : State} {s : State} (hc : Changes pl s0 s) (hl : subPieces [.regs, .quarters, .dieFence, .work, .stk, .stkCode, .maps, .wcb, .held, .rowCopy, .burin, .seqs, .parts, .pcmd, .msixPend, .rmt, .ports, .wins, .groups, .sendings, .log, .repair, .pwr, .boot, .out] pl = true) :
    Changes pl s0 (State.supplyWindow s) := by
  unfold State.supplyWindow
  try dsimp only
  repeat' first
    | with_reducible exact hc
    | with_reducible assumption
    | with_reducible refine State.supplyLog_ch ?_ (sub_trans hl rfl)
    | with_reducible refine State.startShutdown_ch ?_ (sub_trans hl rfl)
    | with_reducible refine State.wr_ch ?_ (sub_trans hl rfl)
    | split
    | ((with_reducible refine Changes.mk ?_ ?_); rotate_left; (intro x hx; cases x <;> first | exact (hx (mem_of_sub hl (by decide))).elim | (dsimp only [Piece.put]; done) | (dsimp only [Piece.put]; rfl)))

theorem State.limiterWindow_ch {pl : List Piece} {s0 : State} {s : State} (hc : Changes pl s0 s) (hl : subPieces [.regs, .msixPend, .ports, .groups, .pwr, .out] pl = true) :
    Changes pl s0 (State.limiterWindow s) := by
  unfold State.limiterWindow
  try dsimp only
  repeat' first
    | with_reducible exact hc
    | with_reducible assumption
    | with_reducible refine State.newLevel_ch ?_ (sub_trans hl rfl)
    | with_reducible refine State.wr_ch ?_ (sub_trans hl rfl)
    | split
    | ((with_reducible refine Changes.mk ?_ ?_); rotate_left; (intro x hx; cases x <;> first | exact (hx (mem_of_sub hl (by decide))).elim | (dsimp only [Piece.put]; done) | (dsimp only [Piece.put]; rfl)))

theorem State.pkgTemp_ch {pl : List Piece} {s0 : State} {s : State} (hc : Changes pl s0 s) (hl : subPieces [.regs] pl = true) :
    Changes pl s0 (State.pkgTemp s) := by
  unfold State.pkgTemp
  try dsimp only
  repeat' first
    | with_reducible exact hc
    | with_reducible assumption
    | with_reducible refine State.wrs_ch ?_ (sub_trans hl rfl)
    | with_reducible refine Changes.foldl ?_ (fun _ _ _ => ?_)
    | with_reducible refine Changes.foldl_fst ?_ (fun _ _ _ => ?_)
    | split

theorem State.leaveTripped_ch {pl : List Piece} {s0 : State} {s : State} (hc : Changes pl s0 s) (hl : subPieces [.regs, .pwr] pl = true) :
    Changes pl s0 (State.leaveTripped s) := by
  unfold State.leaveTripped
  try dsimp only
  repeat' first
    | with_reducible exact hc
    | with_reducible assumption
    | with_reducible refine State.wr_ch ?_ (sub_trans hl rfl)
    | split
    | ((with_reducible refine Changes.mk ?_ ?_); rotate_left; (intro x hx; cases x <;> first | exact (hx (mem_of_sub hl (by decide))).elim | (dsimp only [Piece.put]; done) | (dsimp only [Piece.put]; rfl)))

theorem State.opticalZone_ch {pl : List Piece} {s0 : State} {s : State} {z st : Nat} (hc : Changes pl s0 s) (hl : subPieces [.regs, .msixPend, .rmt, .ports, .wins, .groups, .sendings, .log, .repair, .out] pl = true) :
    Changes pl s0 (State.opticalZone s z st) := by
  unfold State.opticalZone
  try dsimp only
  repeat' first
    | with_reducible exact hc
    | with_reducible assumption
    | with_reducible refine State.lose_ch ?_ (sub_trans hl rfl)
    | with_reducible refine State.updPort_ch ?_ (sub_trans hl rfl)
    | with_reducible refine Changes.each ?_ (fun _ _ _ => ?_)
    | split

theorem State.hotZone_ch {pl : List Piece} {s0 : State} {s : State} {c : Nat} {r : Int} {prev : Option Int} (hc : Changes pl s0 s) (hl : subPieces [.regs, .quarters, .dieFence, .work, .stk, .stkCode, .maps, .wcb, .held, .rowCopy, .burin, .seqs, .parts, .pcmd, .msixPend, .rmt, .ports, .wins, .groups, .sendings, .log, .repair, .pwr, .boot, .out] pl = true) :
    Changes pl s0 (State.hotZone s c r prev) := by
  unfold State.hotZone
  try dsimp only
  repeat' first
    | with_reducible exact hc
    | with_reducible assumption
    | with_reducible refine State.startShutdown_ch ?_ (sub_trans hl rfl)
    | with_reducible refine State.newLevel_ch ?_ (sub_trans hl rfl)
    | with_reducible refine State.logEvent_ch ?_ (sub_trans hl rfl)
    | with_reducible refine State.inc_ch ?_ (sub_trans hl rfl)
    | with_reducible refine State.wr_ch ?_ (sub_trans hl rfl)
    | split
    | ((with_reducible refine Changes.mk ?_ ?_); rotate_left; (intro x hx; cases x <;> first | exact (hx (mem_of_sub hl (by decide))).elim | (dsimp only [Piece.put]; done) | (dsimp only [Piece.put]; rfl)))

theorem State.zoneReading_ch {pl : List Piece} {s0 : State} {s : State} {z : Nat} {r : Int} (hc : Changes pl s0 s) (hl : subPieces [.regs, .quarters, .dieFence, .work, .stk, .stkCode, .maps, .wcb, .held, .rowCopy, .burin, .seqs, .parts, .pcmd, .msixPend, .rmt, .ports, .wins, .groups, .sendings, .log, .repair, .zones, .pwr, .boot, .out] pl = true) :
    Changes pl s0 (State.zoneReading s z r) := by
  unfold State.zoneReading
  try dsimp only
  repeat' first
    | with_reducible exact hc
    | with_reducible assumption
    | with_reducible refine State.hotZone_ch ?_ (sub_trans hl rfl)
    | with_reducible refine State.opticalZone_ch ?_ (sub_trans hl rfl)
    | with_reducible refine State.leaveTripped_ch ?_ (sub_trans hl rfl)
    | with_reducible refine State.pkgTemp_ch ?_ (sub_trans hl rfl)
    | with_reducible refine State.fault_ch ?_ (sub_trans hl rfl)
    | with_reducible refine State.partEvent_ch ?_ (sub_trans hl rfl)
    | with_reducible refine State.wrs_ch ?_ (sub_trans hl rfl)
    | with_reducible refine State.wr_ch ?_ (sub_trans hl rfl)
    | split
    | ((with_reducible refine Changes.mk ?_ ?_); rotate_left; (intro x hx; cases x <;> first | exact (hx (mem_of_sub hl (by decide))).elim | (dsimp only [Piece.put]; done) | (dsimp only [Piece.put]; rfl)))

theorem State.thermalWindow_ch {pl : List Piece} {s0 : State} {s : State} (hc : Changes pl s0 s) (hl : subPieces [.regs, .msixPend, .ports, .groups, .pwr, .out] pl = true) :
    Changes pl s0 (State.thermalWindow s) := by
  unfold State.thermalWindow
  try dsimp only
  repeat' first
    | with_reducible exact hc
    | with_reducible assumption
    | with_reducible refine State.newLevel_ch ?_ (sub_trans hl rfl)
    | with_reducible refine State.wr_ch ?_ (sub_trans hl rfl)
    | split
    | ((with_reducible refine Changes.mk ?_ ?_); rotate_left; (intro x hx; cases x <;> first | exact (hx (mem_of_sub hl (by decide))).elim | (dsimp only [Piece.put]; done) | (dsimp only [Piece.put]; rfl)))

theorem State.enterDormant_ch {pl : List Piece} {s0 : State} {s : State} (hc : Changes pl s0 s) (hl : subPieces [.regs, .quarters, .vat, .vatCode, .stk, .stkCode, .wcb, .held, .parts, .cqs, .msixPend, .ports, .log, .out, .free] pl = true) :
    Changes pl s0 (State.enterDormant s) := by
  unfold State.enterDormant
  try dsimp only
  repeat' first
    | with_reducible exact hc
    | with_reducible assumption
    | with_reducible refine State.drainAll_ch ?_ (sub_trans hl rfl)
    | with_reducible refine State.portsLow_ch ?_ (sub_trans hl rfl)
    | with_reducible refine State.quartersOff_ch ?_ (sub_trans hl rfl)
    | with_reducible refine State.cqTail_ch ?_ (sub_trans hl rfl)
    | with_reducible refine State.cqFlush_ch ?_ (sub_trans hl rfl)
    | with_reducible refine State.wr_ch ?_ (sub_trans hl rfl)
    | with_reducible refine Changes.each ?_ (fun _ _ _ => ?_)
    | split

theorem State.autoDormant_ch {pl : List Piece} {s0 : State} {s : State} (hc : Changes pl s0 s) (hl : subPieces [.regs, .quarters, .vat, .vatCode, .stk, .stkCode, .wcb, .held, .parts, .cqs, .msixPend, .ports, .log, .out, .free] pl = true) :
    Changes pl s0 (State.autoDormant s) := by
  unfold State.autoDormant
  try dsimp only
  repeat' first
    | with_reducible exact hc
    | with_reducible assumption
    | with_reducible refine State.enterDormant_ch ?_ (sub_trans hl rfl)
    | split

theorem State.wakeEvent_ch {pl : List Piece} {s0 : State} {s : State} {k : Nat} (hc : Changes pl s0 s) (hl : subPieces [.regs] pl = true) :
    Changes pl s0 (State.wakeEvent s k) := by
  unfold State.wakeEvent
  try dsimp only
  repeat' first
    | with_reducible exact hc
    | with_reducible assumption
    | with_reducible refine State.startWake_ch ?_ (sub_trans hl rfl)
    | split

theorem State.quarterAwake_ch {pl : List Piece} {s0 : State} {s : State} {q : Nat} (hc : Changes pl s0 s) (hl : subPieces [.regs, .aon, .quarters, .vat, .vatCode, .maps, .press, .burin, .churn, .seqs, .parts, .pcmd, .msixPend, .ports, .wins, .groups, .log, .repair, .out, .free] pl = true) :
    Changes pl s0 (State.quarterAwake s q) := by
  unfold State.quarterAwake
  try dsimp only
  repeat' first
    | with_reducible exact hc
    | with_reducible assumption
    | with_reducible refine State.pollWaking_ch ?_ (sub_trans hl rfl)
    | with_reducible refine State.repairEnd_ch ?_ (sub_trans hl rfl)
    | with_reducible refine State.quarterClear_ch ?_ (sub_trans hl rfl)
    | with_reducible refine State.setQ_ch ?_ (sub_trans hl rfl)
    | split

theorem State.idleOff_ch {pl : List Piece} {s0 : State} {s : State} {q : Nat} (hc : Changes pl s0 s) (hl : subPieces [.regs, .quarters, .vat, .vatCode, .stk, .stkCode, .wcb, .held, .parts, .msixPend, .log, .out] pl = true) :
    Changes pl s0 (State.idleOff s q) := by
  unfold State.idleOff
  try dsimp only
  repeat' first
    | with_reducible exact hc
    | with_reducible assumption
    | with_reducible refine State.quarterOff_ch ?_ (sub_trans hl rfl)
    | split

theorem State.pressLinkBad_ch {pl : List Piece} {s0 : State} {s : State} {l : Nat} (hc : Changes pl s0 s) (hl : subPieces [.regs, .quarters, .dieFence, .work, .stk, .stkCode, .maps, .wcb, .held, .burin, .seqs, .parts, .pcmd, .msixPend, .rmt, .ports, .wins, .groups, .sendings, .log, .repair, .boot, .out] pl = true) :
    Changes pl s0 (State.pressLinkBad s l) := by
  unfold State.pressLinkBad
  try dsimp only
  repeat' first
    | with_reducible exact hc
    | with_reducible assumption
    | with_reducible refine State.clearFor_ch ?_ (sub_trans hl rfl)
    | with_reducible refine State.dieOff_ch ?_ (sub_trans hl rfl)
    | with_reducible refine State.fenceNow_ch ?_ (sub_trans hl rfl)
    | with_reducible refine State.fault_ch ?_ (sub_trans hl rfl)
    | with_reducible refine State.logEvent_ch ?_ (sub_trans hl rfl)
    | with_reducible refine Changes.each ?_ (fun _ _ _ => ?_)
    | split

theorem State.stackLinkBad_ch {pl : List Piece} {s0 : State} {s : State} {k : Nat} (hc : Changes pl s0 s) (hl : subPieces [.regs, .quarters, .dieFence, .work, .stk, .stkCode, .maps, .wcb, .held, .burin, .seqs, .parts, .pcmd, .msixPend, .rmt, .ports, .wins, .groups, .sendings, .log, .repair, .boot, .out] pl = true) :
    Changes pl s0 (State.stackLinkBad s k) := by
  unfold State.stackLinkBad
  try dsimp only
  repeat' first
    | with_reducible exact hc
    | with_reducible assumption
    | with_reducible refine State.clearFor_ch ?_ (sub_trans hl rfl)
    | with_reducible refine State.fenceNow_ch ?_ (sub_trans hl rfl)
    | with_reducible refine State.setQ_ch ?_ (sub_trans hl rfl)
    | with_reducible refine State.fault_ch ?_ (sub_trans hl rfl)
    | with_reducible refine State.wr_ch ?_ (sub_trans hl rfl)
    | with_reducible refine Changes.each ?_ (fun _ _ _ => ?_)
    | split

theorem State.wakeResume_ch {pl : List Piece} {s0 : State} {s : State} {p : Nat} (hc : Changes pl s0 s) (hl : subPieces [.regs, .aon, .quarters, .vat, .vatCode, .maps, .press, .burin, .churn, .seqs, .parts, .pcmd, .msixPend, .ports, .wins, .groups, .log, .out, .free] pl = true) :
    Changes pl s0 (State.wakeResume s p) := by
  unfold State.wakeResume
  try dsimp only
  repeat' first
    | with_reducible exact hc
    | with_reducible assumption
    | with_reducible refine State.pollWaking_ch ?_ (sub_trans hl rfl)
    | with_reducible refine State.takeQuarters_ch ?_ (sub_trans hl rfl)
    | with_reducible refine State.updPart_ch ?_ (sub_trans hl rfl)
    | split

theorem State.wakeFenced_ch {pl : List Piece} {s0 : State} {s : State} {q : Nat} (hc : Changes pl s0 s) (hl : subPieces [.quarters] pl = true) :
    Changes pl s0 (State.wakeFenced s q) := by
  unfold State.wakeFenced
  try dsimp only
  repeat' first
    | with_reducible exact hc
    | with_reducible assumption
    | with_reducible refine State.setQ_ch ?_ (sub_trans hl rfl)
    | split

theorem State.awake_ch {pl : List Piece} {s0 : State} {s : State} {badPress badStack : List Nat} (hc : Changes pl s0 s) (hl : subPieces [.regs, .aon, .quarters, .dieFence, .vat, .vatCode, .work, .stk, .stkCode, .maps, .wcb, .held, .press, .burin, .churn, .seqs, .parts, .pcmd, .msixPend, .rmt, .ports, .wins, .groups, .sendings, .log, .repair, .boot, .out, .free] pl = true) :
    Changes pl s0 (State.awake s badPress badStack) := by
  unfold State.awake
  try dsimp only
  repeat' first
    | with_reducible exact hc
    | with_reducible assumption
    | with_reducible refine State.wakeFenced_ch ?_ (sub_trans hl rfl)
    | with_reducible refine State.wakeResume_ch ?_ (sub_trans hl rfl)
    | with_reducible refine State.stackLinkBad_ch ?_ (sub_trans hl rfl)
    | with_reducible refine State.pressLinkBad_ch ?_ (sub_trans hl rfl)
    | with_reducible refine State.wr_ch ?_ (sub_trans hl rfl)
    | with_reducible refine Changes.each ?_ (fun _ _ _ => ?_)
    | split
    | ((with_reducible refine Changes.mk ?_ ?_); rotate_left; (intro x hx; cases x <;> first | exact (hx (mem_of_sub hl (by decide))).elim | (dsimp only [Piece.put]; done) | (dsimp only [Piece.put]; rfl)))

theorem State.fuse_ch {pl : List Piece} {s0 : State} {s : State} {f : Fuses → Fuses} (hc : Changes pl s0 s) (hl : subPieces [.fuses] pl = true) :
    Changes pl s0 (State.fuse s f) := by
  unfold State.fuse
  try dsimp only
  repeat' first
    | with_reducible exact hc
    | with_reducible assumption
    | split
    | ((with_reducible refine Changes.mk ?_ ?_); rotate_left; (intro x hx; cases x <;> first | exact (hx (mem_of_sub hl (by decide))).elim | (dsimp only [Piece.put]; done) | (dsimp only [Piece.put]; rfl)))

theorem State.fuseStatus_ch {pl : List Piece} {s0 : State} {s : State} (hc : Changes pl s0 s) (hl : subPieces [.regs] pl = true) :
    Changes pl s0 (State.fuseStatus s) := by
  unfold State.fuseStatus
  try dsimp only
  repeat' first
    | with_reducible exact hc
    | with_reducible assumption
    | with_reducible refine State.wrs_ch ?_ (sub_trans hl rfl)
    | split

theorem State.updateOp_ch {pl : List Piece} {s0 : State} {s : State} {op : Nat} {f : State → State} (hc : Changes pl s0 s) (hl : subPieces [.regs] pl = true) (hf : ∀ s, Changes pl s0 s → Changes pl s0 (f s)) :
    Changes pl s0 (State.updateOp s op f) := by
  unfold State.updateOp
  try dsimp only
  repeat' first
    | with_reducible exact hc
    | with_reducible assumption
    | with_reducible refine hf _ ?_
    | with_reducible refine State.wr_ch ?_ (sub_trans hl rfl)
    | split

theorem State.updateBy_ch {pl : List Piece} {s0 : State} {s : State} {src : Src} {op : Nat} {f : State → State} (hc : Changes pl s0 s) (hl : subPieces [.regs, .heldAccess] pl = true) (hf : ∀ s, Changes pl s0 s → Changes pl s0 (f s)) :
    Changes pl s0 (State.updateBy s src op f) := by
  unfold State.updateBy
  try dsimp only
  repeat' first
    | with_reducible exact hc
    | with_reducible assumption
    | with_reducible refine hf _ ?_
    | with_reducible refine State.updateOp_ch ?_ (sub_trans hl rfl) (fun _ _ => ?_)
    | with_reducible refine State.access_ch ?_ (sub_trans hl rfl) (fun _ _ => ?_)
    | split

theorem State.setCopy_ch {pl : List Piece} {s0 : State} {s : State} {slot : Nat} {c : ImageCopy} (hc : Changes pl s0 s) (hl : subPieces [.boot] pl = true) :
    Changes pl s0 (State.setCopy s slot c) := by
  unfold State.setCopy
  try dsimp only
  repeat' first
    | with_reducible exact hc
    | with_reducible assumption
    | split
    | ((with_reducible refine Changes.mk ?_ ?_); rotate_left; (intro x hx; cases x <;> first | exact (hx (mem_of_sub hl (by decide))).elim | (dsimp only [Piece.put]; done) | (dsimp only [Piece.put]; rfl)))

theorem State.updateImage_ch {pl : List Piece} {s0 : State} {s : State} {img : Option ImageCopy} (hc : Changes pl s0 s) (hl : subPieces [.regs, .boot] pl = true) :
    Changes pl s0 (State.updateImage s img) := by
  unfold State.updateImage
  try dsimp only
  repeat' first
    | with_reducible exact hc
    | with_reducible assumption
    | with_reducible refine State.setCopy_ch ?_ (sub_trans hl rfl)
    | with_reducible refine State.updateEnd_ch ?_ (sub_trans hl rfl)
    | with_reducible refine State.wr_ch ?_ (sub_trans hl rfl)
    | split
    | ((with_reducible refine Changes.mk ?_ ?_); rotate_left; (intro x hx; cases x <;> first | exact (hx (mem_of_sub hl (by decide))).elim | (dsimp only [Piece.put]; done) | (dsimp only [Piece.put]; rfl)))

theorem State.imageDone_ch {pl : List Piece} {s0 : State} {s : State} {ok : Bool} (hc : Changes pl s0 s) (hl : subPieces [.regs, .boot] pl = true) :
    Changes pl s0 (State.imageDone s ok) := by
  unfold State.imageDone
  try dsimp only
  repeat' first
    | with_reducible exact hc
    | with_reducible assumption
    | with_reducible refine State.setCopy_ch ?_ (sub_trans hl rfl)
    | with_reducible refine State.updateEnd_ch ?_ (sub_trans hl rfl)
    | split
    | ((with_reducible refine Changes.mk ?_ ?_); rotate_left; (intro x hx; cases x <;> first | exact (hx (mem_of_sub hl (by decide))).elim | (dsimp only [Piece.put]; done) | (dsimp only [Piece.put]; rfl)))

theorem State.commitSvn_ch {pl : List Piece} {s0 : State} {s : State} (hc : Changes pl s0 s) (hl : subPieces [.regs, .fuses] pl = true) :
    Changes pl s0 (State.commitSvn s) := by
  unfold State.commitSvn
  try dsimp only
  repeat' first
    | with_reducible exact hc
    | with_reducible assumption
    | with_reducible refine State.fuseStatus_ch ?_ (sub_trans hl rfl)
    | with_reducible refine State.fuse_ch ?_ (sub_trans hl rfl)
    | with_reducible refine State.updateEnd_ch ?_ (sub_trans hl rfl)
    | split

theorem State.fuseOwner_ch {pl : List Piece} {s0 : State} {s : State} {hash : Option W512} (hc : Changes pl s0 s) (hl : subPieces [.regs, .fuses] pl = true) :
    Changes pl s0 (State.fuseOwner s hash) := by
  unfold State.fuseOwner
  try dsimp only
  repeat' first
    | with_reducible exact hc
    | with_reducible assumption
    | with_reducible refine State.fuseStatus_ch ?_ (sub_trans hl rfl)
    | with_reducible refine State.fuse_ch ?_ (sub_trans hl rfl)
    | with_reducible refine State.updateEnd_ch ?_ (sub_trans hl rfl)
    | split

theorem State.requireOwner_ch {pl : List Piece} {s0 : State} {s : State} (hc : Changes pl s0 s) (hl : subPieces [.regs, .fuses] pl = true) :
    Changes pl s0 (State.requireOwner s) := by
  unfold State.requireOwner
  try dsimp only
  repeat' first
    | with_reducible exact hc
    | with_reducible assumption
    | with_reducible refine State.fuseStatus_ch ?_ (sub_trans hl rfl)
    | with_reducible refine State.fuse_ch ?_ (sub_trans hl rfl)
    | with_reducible refine State.updateEnd_ch ?_ (sub_trans hl rfl)
    | split

theorem State.revokeVendor_ch {pl : List Piece} {s0 : State} {s : State} (hc : Changes pl s0 s) (hl : subPieces [.regs, .fuses] pl = true) :
    Changes pl s0 (State.revokeVendor s) := by
  unfold State.revokeVendor
  try dsimp only
  repeat' first
    | with_reducible exact hc
    | with_reducible assumption
    | with_reducible refine State.fuse_ch ?_ (sub_trans hl rfl)
    | with_reducible refine State.updateEnd_ch ?_ (sub_trans hl rfl)
    | split

theorem State.disableDebug_ch {pl : List Piece} {s0 : State} {s : State} (hc : Changes pl s0 s) (hl : subPieces [.regs, .fuses] pl = true) :
    Changes pl s0 (State.disableDebug s) := by
  unfold State.disableDebug
  try dsimp only
  repeat' first
    | with_reducible exact hc
    | with_reducible assumption
    | with_reducible refine State.fuseStatus_ch ?_ (sub_trans hl rfl)
    | with_reducible refine State.fuse_ch ?_ (sub_trans hl rfl)
    | with_reducible refine State.updateEnd_ch ?_ (sub_trans hl rfl)
    | split

theorem State.recordArea_ch {pl : List Piece} {s0 : State} {s : State} {bytes : Option (List Byte)} (hc : Changes pl s0 s) (hl : subPieces [.regs, .boot, .free] pl = true) :
    Changes pl s0 (State.recordArea s bytes) := by
  unfold State.recordArea
  try dsimp only
  repeat' first
    | with_reducible exact hc
    | with_reducible assumption
    | with_reducible refine State.updateEnd_ch ?_ (sub_trans hl rfl)
    | with_reducible refine State.wr_ch ?_ (sub_trans hl rfl)
    | split
    | ((with_reducible refine Changes.mk ?_ ?_); rotate_left; (intro x hx; cases x <;> first | exact (hx (mem_of_sub hl (by decide))).elim | (dsimp only [Piece.put]; done) | (dsimp only [Piece.put]; rfl)))

end Sys2Proof.Machine
end

