-- ==== Sys2Proof/Laws/EffectsUnits.lean ====
section
/-! SUPPORT. What each operation may change, as the pieces of the state in `Changes`: register writes, boot, DMA, management, proofs and the idle tick. -/

namespace Sys2Proof.Machine

open Sys2Proof

set_option maxRecDepth 4000
set_option linter.all false

theorem State.portCtrl_ch {pl : List Piece} {s0 : State} {s : State} {j : Nat} {v : W64} (hc : Changes pl s0 s) (hl : subPieces [.regs, .msixPend, .rmt, .ports, .wins, .groups, .sendings, .log, .repair, .out] pl = true) :
    Changes pl s0 (State.portCtrl s j v) := by
  unfold State.portCtrl
  try dsimp only
  repeat' first
    | with_reducible exact hc
    | with_reducible assumption
    | with_reducible refine State.disablePort_ch ?_ (sub_trans hl rfl)
    | with_reducible refine State.enablePort_ch ?_ (sub_trans hl rfl)
    | with_reducible refine State.quarantineClear_ch ?_ (sub_trans hl rfl)
    | with_reducible refine State.portDown_ch ?_ (sub_trans hl rfl)
    | with_reducible refine State.wrs_ch ?_ (sub_trans hl rfl)
    | split

theorem State.winCfg_ch {pl : List Piece} {s0 : State} {s : State} {d : Nat} {v : W64} (hc : Changes pl s0 s) (hl : subPieces [.wins] pl = true) :
    Changes pl s0 (State.winCfg s d v) := by
  unfold State.winCfg
  try dsimp only
  repeat' first
    | with_reducible exact hc
    | with_reducible assumption
    | with_reducible refine State.updWin_ch ?_ (sub_trans hl rfl)
    | split

theorem State.winPeer_ch {pl : List Piece} {s0 : State} {s : State} {d : Nat} {v : W64} (hc : Changes pl s0 s) (hl : subPieces [.wins] pl = true) :
    Changes pl s0 (State.winPeer s d v) := by
  unfold State.winPeer
  try dsimp only
  repeat' first
    | with_reducible exact hc
    | with_reducible assumption
    | with_reducible refine State.updWin_ch ?_ (sub_trans hl rfl)
    | split

theorem State.winDesc_ch {pl : List Piece} {s0 : State} {s : State} {d n : Nat} {v : W64} (hc : Changes pl s0 s) (hl : subPieces [.wins] pl = true) :
    Changes pl s0 (State.winDesc s d n v) := by
  unfold State.winDesc
  try dsimp only
  repeat' first
    | with_reducible exact hc
    | with_reducible assumption
    | with_reducible refine State.updWin_ch ?_ (sub_trans hl rfl)
    | split

theorem State.winCmd_ch {pl : List Piece} {s0 : State} {s : State} {d : Nat} {v : W64} (hc : Changes pl s0 s) (hl : subPieces [.regs, .msixPend, .wins, .log, .out] pl = true) :
    Changes pl s0 (State.winCmd s d v) := by
  unfold State.winCmd
  try dsimp only
  repeat' first
    | with_reducible exact hc
    | with_reducible assumption
    | with_reducible refine State.winClose_ch ?_ (sub_trans hl rfl)
    | with_reducible refine State.winOpen_ch ?_ (sub_trans hl rfl)
    | with_reducible refine State.updWin_ch ?_ (sub_trans hl rfl)
    | split

theorem State.groupCfg_ch {pl : List Piece} {s0 : State} {s : State} {v : W64} (hc : Changes pl s0 s) (hl : subPieces [.groups] pl = true) :
    Changes pl s0 (State.groupCfg s v) := by
  unfold State.groupCfg
  try dsimp only
  repeat' first
    | with_reducible exact hc
    | with_reducible assumption
    | split
    | ((with_reducible refine Changes.mk ?_ ?_); rotate_left; (intro x hx; cases x <;> first | exact (hx (mem_of_sub hl (by decide))).elim | (dsimp only [Piece.put]; done) | (dsimp only [Piece.put]; rfl)))

theorem State.groupEvent_ch {pl : List Piece} {s0 : State} {s : State} {v : W64} (hc : Changes pl s0 s) (hl : subPieces [.groups] pl = true) :
    Changes pl s0 (State.groupEvent s v) := by
  unfold State.groupEvent
  try dsimp only
  repeat' first
    | with_reducible exact hc
    | with_reducible assumption
    | split
    | ((with_reducible refine Changes.mk ?_ ?_); rotate_left; (intro x hx; cases x <;> first | exact (hx (mem_of_sub hl (by decide))).elim | (dsimp only [Piece.put]; done) | (dsimp only [Piece.put]; rfl)))

theorem State.partCmdWord_ch {pl : List Piece} {s0 : State} {s : State} {v : W64} (hc : Changes pl s0 s) (hl : subPieces [.regs, .aon, .quarters, .dieFence, .vat, .vatCode, .work, .stk, .stkCode, .maps, .wcb, .held, .press, .burin, .churn, .seqs, .parts, .pcmd, .msixPend, .rmt, .ports, .wins, .groups, .sendings, .log, .repair, .boot, .out, .free] pl = true) :
    Changes pl s0 (State.partCmdWord s v) := by
  unfold State.partCmdWord
  try dsimp only
  repeat' first
    | with_reducible exact hc
    | with_reducible assumption
    | with_reducible refine State.cmdUnload_ch ?_ (sub_trans hl rfl)
    | with_reducible refine State.resumePart_ch ?_ (sub_trans hl rfl)
    | with_reducible refine State.cmdStop_ch ?_ (sub_trans hl rfl)
    | with_reducible refine State.partCmd_ch ?_ (sub_trans hl rfl) (fun _ _ => ?_)
    | with_reducible refine State.pcmdEnd_ch ?_ (sub_trans hl rfl)
    | split

theorem State.repairWord_ch {pl : List Piece} {s0 : State} {s : State} {v : W64} (hc : Changes pl s0 s) (hl : subPieces [.regs, .quarters, .dieFence, .work, .stk, .stkCode, .regions, .maps, .wcb, .held, .rowCopy, .badBanks, .burin, .seqs, .parts, .pcmd, .msixPend, .rmt, .ports, .wins, .groups, .sendings, .log, .repair, .boot, .out] pl = true) :
    Changes pl s0 (State.repairWord s v) := by
  unfold State.repairWord
  try dsimp only
  repeat' first
    | with_reducible exact hc
    | with_reducible assumption
    | with_reducible refine State.refetchPeer_ch ?_ (sub_trans hl rfl)
    | with_reducible refine State.regionInit_ch ?_ (sub_trans hl rfl)
    | with_reducible refine State.retire_ch ?_ (sub_trans hl rfl)
    | with_reducible refine State.substitute_ch ?_ (sub_trans hl rfl)
    | with_reducible refine State.bistStart_ch ?_ (sub_trans hl rfl)
    | with_reducible refine State.fenceDieCmd_ch ?_ (sub_trans hl rfl)
    | with_reducible refine State.unfenceQuarter_ch ?_ (sub_trans hl rfl)
    | with_reducible refine State.fenceQuarter_ch ?_ (sub_trans hl rfl)
    | with_reducible refine State.repairOp_ch ?_ (sub_trans hl rfl) (fun _ _ => ?_)
    | with_reducible refine State.repairEnd_ch ?_ (sub_trans hl rfl)
    | split

theorem State.updateWord_ch {pl : List Piece} {s0 : State} {s : State} {v : W64} (hc : Changes pl s0 s) (hl : subPieces [.regs, .fuses] pl = true) :
    Changes pl s0 (State.updateWord s v) := by
  unfold State.updateWord
  try dsimp only
  repeat' first
    | with_reducible exact hc
    | with_reducible assumption
    | with_reducible refine State.disableDebug_ch ?_ (sub_trans hl rfl)
    | with_reducible refine State.revokeVendor_ch ?_ (sub_trans hl rfl)
    | with_reducible refine State.requireOwner_ch ?_ (sub_trans hl rfl)
    | with_reducible refine State.commitSvn_ch ?_ (sub_trans hl rfl)
    | with_reducible refine State.updateOp_ch ?_ (sub_trans hl rfl) (fun _ _ => ?_)
    | with_reducible refine State.updateEnd_ch ?_ (sub_trans hl rfl)
    | split

theorem State.pwrCfg_ch {pl : List Piece} {s0 : State} {s : State} {v : W64} (hc : Changes pl s0 s) (hl : subPieces [.regs] pl = true) :
    Changes pl s0 (State.pwrCfg s v) := by
  unfold State.pwrCfg
  try dsimp only
  repeat' first
    | with_reducible exact hc
    | with_reducible assumption
    | with_reducible refine State.wrs_ch ?_ (sub_trans hl rfl)
    | split

theorem State.pwrCmd_ch {pl : List Piece} {s0 : State} {s : State} {v : W64} (hc : Changes pl s0 s) (hl : subPieces [.regs, .quarters, .vat, .vatCode, .stk, .stkCode, .wcb, .held, .parts, .cqs, .msixPend, .ports, .log, .out, .free] pl = true) :
    Changes pl s0 (State.pwrCmd s v) := by
  unfold State.pwrCmd
  try dsimp only
  repeat' first
    | with_reducible exact hc
    | with_reducible assumption
    | with_reducible refine State.enterDormant_ch ?_ (sub_trans hl rfl)
    | with_reducible refine State.startWake_ch ?_ (sub_trans hl rfl)
    | split

theorem State.tickCfg_ch {pl : List Piece} {s0 : State} {s : State} {v : W64} (hc : Changes pl s0 s) (hl : subPieces [.regs] pl = true) :
    Changes pl s0 (State.tickCfg s v) := by
  unfold State.tickCfg
  try dsimp only
  repeat' first
    | with_reducible exact hc
    | with_reducible assumption
    | with_reducible refine State.wr_ch ?_ (sub_trans hl rfl)
    | split

theorem State.rmtCmd_ch {pl : List Piece} {s0 : State} {s : State} {v : W64} (hc : Changes pl s0 s) (hl : subPieces [.regs, .rmt, .ports] pl = true) :
    Changes pl s0 (State.rmtCmd s v) := by
  unfold State.rmtCmd
  try dsimp only
  repeat' first
    | with_reducible exact hc
    | with_reducible assumption
    | with_reducible refine State.rmtStart_ch ?_ (sub_trans hl rfl)
    | split

theorem State.regActs_ch {pl : List Piece} {s0 s t : State} {base i : Nat} {v : W64} (ht : s.regActs base i v = some t) (hc : Changes pl s0 s)
    (hl : subPieces [.regs, .aon, .quarters, .dieFence, .vat, .vatCode, .work, .stk, .stkCode, .regions, .maps, .wcb, .held, .refill, .rowCopy, .badBanks, .press, .burin, .churn, .seqs, .parts, .pcmd, .measStart, .measEnd, .measOn, .measNext, .rings, .cqs, .msixPend, .rmt, .ports, .wins, .groups, .sendings, .log, .repair, .fuses, .boot, .out, .free] pl = true) : Changes pl s0 t := by
  unfold State.regActs at ht
  split at ht <;> first
    | (cases ht; done)
    | (obtain rfl := Option.some.inj ht
       with_reducible first
         | exact State.rmtCmd_ch hc (sub_trans hl rfl)
         | exact State.portCtrl_ch hc (sub_trans hl rfl)
         | exact State.pwrCmd_ch hc (sub_trans hl rfl)
         | exact State.measCfg_ch hc (sub_trans hl rfl)
         | exact State.winDesc_ch hc (sub_trans hl rfl)
         | exact State.logHead_ch hc (sub_trans hl rfl)
         | exact State.repairWord_ch hc (sub_trans hl rfl)
         | exact State.tickCfg_ch hc (sub_trans hl rfl)
         | exact State.partCfg_ch hc (sub_trans hl rfl)
         | exact State.winPeer_ch hc (sub_trans hl rfl)
         | exact State.regionAttr_ch hc (sub_trans hl rfl)
         | exact State.slotCfgWrite_ch hc (sub_trans hl rfl)
         | exact State.refillStart_ch hc (sub_trans hl rfl)
         | exact State.winCfg_ch hc (sub_trans hl rfl)
         | exact State.pwrCfg_ch hc (sub_trans hl rfl)
         | exact State.winCmd_ch hc (sub_trans hl rfl)
         | exact State.updateWord_ch hc (sub_trans hl rfl)
         | exact State.groupCfg_ch hc (sub_trans hl rfl)
         | exact State.partCmdWord_ch hc (sub_trans hl rfl)
         | exact State.win4Base_ch hc (sub_trans hl rfl)
         | exact State.groupEvent_ch hc (sub_trans hl rfl)
         | exact State.rqCfg_ch hc (sub_trans hl rfl)
         | exact State.cqCfg_ch hc (sub_trans hl rfl)
         | exact State.laserCtrl_ch hc (sub_trans hl rfl))

theorem State.regPut_ch {pl : List Piece} {s0 : State} {s : State} {r : RegSpec} {i a : Nat} {v m : W64} (hc : Changes pl s0 s) (hl : subPieces [.regs, .aon, .quarters, .dieFence, .vat, .vatCode, .work, .stk, .stkCode, .regions, .maps, .wcb, .held, .refill, .rowCopy, .badBanks, .press, .burin, .churn, .seqs, .parts, .pcmd, .measStart, .measEnd, .measOn, .measNext, .rings, .cqs, .msixPend, .rmt, .ports, .wins, .groups, .sendings, .log, .repair, .fuses, .boot, .out, .free] pl = true) :
    Changes pl s0 (State.regPut s r i a v m) := by
  unfold State.regPut
  try dsimp only
  repeat' first
    | with_reducible exact hc
    | with_reducible assumption
    | with_reducible refine State.pollRmt_ch ?_ (sub_trans hl rfl)
    | with_reducible refine State.setReg_ch ?_ (sub_trans hl rfl)
    | with_reducible refine State.regActs_ch (by assumption) ?_ (sub_trans hl rfl)
    | split

theorem State.regWrite_ch {pl : List Piece} {s0 : State} {s : State} {a size : Nat} {v : W64} (hc : Changes pl s0 s) (hl : subPieces [.regs, .aon, .quarters, .dieFence, .vat, .vatCode, .work, .stk, .stkCode, .regions, .maps, .wcb, .held, .refill, .rowCopy, .badBanks, .press, .burin, .churn, .seqs, .parts, .pcmd, .measStart, .measEnd, .measOn, .measNext, .rings, .cqs, .msixPend, .rmt, .ports, .wins, .groups, .sendings, .log, .repair, .fuses, .boot, .out, .free] pl = true) :
    Changes pl s0 (State.regWrite s a size v) := by
  unfold State.regWrite
  try dsimp only
  repeat' first
    | with_reducible exact hc
    | with_reducible assumption
    | with_reducible refine State.regPut_ch ?_ (sub_trans hl rfl)
    | split

theorem State.answerMgmt_ch {pl : List Piece} {s0 : State} {s : State} {h : HeldAccess} (hc : Changes pl s0 s) (hl : subPieces [.ports] pl = true) :
    Changes pl s0 (State.answerMgmt s h) := by
  unfold State.answerMgmt
  try dsimp only
  repeat' first
    | with_reducible exact hc
    | with_reducible assumption
    | with_reducible refine State.sendMgmt_ch ?_ (sub_trans hl rfl)
    | split

theorem State.serveHeld_ch {pl : List Piece} {s0 : State} {s : State} {h : HeldAccess} (hc : Changes pl s0 s) (hl : subPieces [.regs, .aon, .quarters, .dieFence, .vat, .vatCode, .work, .stk, .stkCode, .regions, .maps, .wcb, .held, .refill, .rowCopy, .badBanks, .press, .burin, .churn, .seqs, .parts, .pcmd, .measStart, .measEnd, .measOn, .measNext, .rings, .cqs, .msixPend, .rmt, .heldAccess, .ports, .wins, .groups, .sendings, .log, .repair, .fuses, .boot, .out, .free] pl = true) :
    Changes pl s0 (State.serveHeld s h) := by
  unfold State.serveHeld
  try dsimp only
  repeat' first
    | with_reducible exact hc
    | with_reducible assumption
    | with_reducible refine State.answerMgmt_ch ?_ (sub_trans hl rfl)
    | with_reducible refine State.regWrite_ch ?_ (sub_trans hl rfl)
    | with_reducible refine State.access_ch ?_ (sub_trans hl rfl) (fun _ _ => ?_)
    | split

theorem State.wakeComplete_ch {pl : List Piece} {s0 : State} {s : State} {badPress badStack : List Nat} (hc : Changes pl s0 s) (hl : subPieces [.regs, .aon, .quarters, .dieFence, .vat, .vatCode, .work, .stk, .stkCode, .regions, .maps, .wcb, .held, .refill, .rowCopy, .badBanks, .press, .burin, .churn, .seqs, .parts, .pcmd, .measStart, .measEnd, .measOn, .measNext, .rings, .cqs, .msixPend, .rmt, .heldAccess, .ports, .wins, .groups, .sendings, .log, .repair, .fuses, .boot, .out, .free] pl = true) :
    Changes pl s0 (State.wakeComplete s badPress badStack) := by
  unfold State.wakeComplete
  try dsimp only
  repeat' first
    | with_reducible exact hc
    | with_reducible assumption
    | with_reducible refine State.serveHeld_ch ?_ (sub_trans hl rfl)
    | with_reducible refine State.awake_ch ?_ (sub_trans hl rfl)
    | with_reducible refine Changes.each ?_ (fun _ _ _ => ?_)
    | split
    | ((with_reducible refine Changes.mk ?_ ?_); rotate_left; (intro x hx; cases x <;> first | exact (hx (mem_of_sub hl (by decide))).elim | (dsimp only [Piece.put]; done) | (dsimp only [Piece.put]; rfl)))

theorem State.rmtAnswer_ch {pl : List Piece} {s0 : State} {s : State} {r : Rmt} {v : Option W64} (hc : Changes pl s0 s) (hl : subPieces [.regs, .rmt] pl = true) :
    Changes pl s0 (State.rmtAnswer s r v) := by
  unfold State.rmtAnswer
  try dsimp only
  repeat' first
    | with_reducible exact hc
    | with_reducible assumption
    | with_reducible refine State.rmtEnd_ch ?_ (sub_trans hl rfl)
    | with_reducible refine State.wr_ch ?_ (sub_trans hl rfl)
    | split

theorem State.mgmtAccess_ch {pl : List Piece} {s0 : State} {s : State} {j : Nat} {a : Nat} {w : Option (Nat × W64)} (hc : Changes pl s0 s) (hl : subPieces [.regs, .aon, .quarters, .dieFence, .vat, .vatCode, .work, .stk, .stkCode, .regions, .maps, .wcb, .held, .refill, .rowCopy, .badBanks, .press, .burin, .churn, .seqs, .parts, .pcmd, .measStart, .measEnd, .measOn, .measNext, .rings, .cqs, .msixPend, .rmt, .heldAccess, .ports, .wins, .groups, .sendings, .log, .repair, .fuses, .boot, .out, .free] pl = true) :
    Changes pl s0 (State.mgmtAccess s j a w) := by
  unfold State.mgmtAccess
  try dsimp only
  repeat' first
    | with_reducible exact hc
    | with_reducible assumption
    | with_reducible refine State.serveHeld_ch ?_ (sub_trans hl rfl)
    | with_reducible refine State.answerMgmt_ch ?_ (sub_trans hl rfl)
    | split
    | ((with_reducible refine Changes.mk ?_ ?_); rotate_left; (intro x hx; cases x <;> first | exact (hx (mem_of_sub hl (by decide))).elim | (dsimp only [Piece.put]; done) | (dsimp only [Piece.put]; rfl)))

theorem State.mgmtRelay_ch {pl : List Piece} {s0 : State} {s : State} {j : Nat} {cs : List LCell} (hc : Changes pl s0 s) (hl : subPieces [.ports, .free] pl = true) :
    Changes pl s0 (State.mgmtRelay s j cs) := by
  unfold State.mgmtRelay
  try dsimp only
  repeat' first
    | with_reducible exact hc
    | with_reducible assumption
    | with_reducible refine State.egress_ch ?_ (sub_trans hl rfl)
    | with_reducible refine State.drawn_ch ?_ (sub_trans hl rfl)
    | with_reducible refine Changes.each ?_ (fun _ _ _ => ?_)
    | split

theorem State.mgmtMsg_ch {pl : List Piece} {s0 : State} {s : State} {j : Nat} {m : MgmtMsg} (hc : Changes pl s0 s) (hl : subPieces [.regs, .aon, .quarters, .dieFence, .vat, .vatCode, .work, .plateT, .stk, .stkCode, .regions, .maps, .wcb, .held, .refill, .rowCopy, .badBanks, .press, .burin, .churn, .seqs, .parts, .pcmd, .measStart, .measEnd, .measOn, .measNext, .reqs, .pools, .rings, .cqs, .dmaQ, .msixPend, .rmt, .heldAccess, .ports, .wins, .groups, .sendings, .log, .repair, .fuses, .boot, .out, .free] pl = true) :
    Changes pl s0 (State.mgmtMsg s j m) := by
  unfold State.mgmtMsg
  try dsimp only
  repeat' first
    | with_reducible exact hc
    | with_reducible assumption
    | with_reducible refine State.mgmtAccess_ch ?_ (sub_trans hl rfl)
    | with_reducible refine State.rmtAnswer_ch ?_ (sub_trans hl rfl)
    | with_reducible refine State.entry_ch ?_ (sub_trans hl rfl)
    | with_reducible refine State.manage_ch ?_ (sub_trans hl rfl) (fun _ _ => ?_)
    | with_reducible refine State.fire_ch ?_ (sub_trans hl rfl)
    | with_reducible refine State.emit_ch ?_ (sub_trans hl rfl)
    | split

theorem State.mgmtCell_ch {pl : List Piece} {s0 : State} {s : State} {j : Nat} {c : LCell} (hc : Changes pl s0 s) (hl : subPieces [.regs, .aon, .quarters, .dieFence, .vat, .vatCode, .work, .plateT, .stk, .stkCode, .regions, .maps, .wcb, .held, .refill, .rowCopy, .badBanks, .press, .burin, .churn, .seqs, .parts, .pcmd, .measStart, .measEnd, .measOn, .measNext, .reqs, .pools, .rings, .cqs, .dmaQ, .msixPend, .rmt, .heldAccess, .ports, .wins, .groups, .sendings, .log, .repair, .fuses, .boot, .out, .free] pl = true) :
    Changes pl s0 (State.mgmtCell s j c) := by
  unfold State.mgmtCell
  try dsimp only
  repeat' first
    | with_reducible exact hc
    | with_reducible assumption
    | with_reducible refine State.mgmtMsg_ch ?_ (sub_trans hl rfl)
    | with_reducible refine State.mgmtRelay_ch ?_ (sub_trans hl rfl)
    | with_reducible refine State.accept_ch ?_ (sub_trans hl rfl)
    | with_reducible refine State.updPort_ch ?_ (sub_trans hl rfl)
    | split

theorem State.farewell_ch {pl : List Piece} {s0 : State} {s : State} (hc : Changes pl s0 s) (hl : subPieces [.regs, .msixPend, .rmt, .ports, .wins, .groups, .sendings, .log, .repair, .out] pl = true) :
    Changes pl s0 (State.farewell s) := by
  unfold State.farewell
  try dsimp only
  repeat' first
    | with_reducible exact hc
    | with_reducible assumption
    | with_reducible refine State.transmit_ch ?_ (sub_trans hl rfl)
    | with_reducible refine State.withdrawAll_ch ?_ (sub_trans hl rfl)
    | with_reducible refine Changes.each ?_ (fun _ _ _ => ?_)
    | split

theorem State.coldClear_ch {pl : List Piece} {s0 : State} {s : State} (hc : Changes pl s0 s) (hl : subPieces [.regs, .dt, .aon, .grid, .quarters, .dieFence, .vat, .vatCode, .work, .plateT, .slotCfg, .stk, .stkCode, .regions, .maps, .wcb, .held, .cellSeq, .refill, .rowMap, .rowCopy, .badBanks, .lanes, .press, .burin, .churn, .seqs, .parts, .bound, .pcmd, .measStart, .measEnd, .measOn, .measNext, .reqs, .pools, .rings, .cqs, .dmaQ, .cfgSpace, .masked, .vfEnable, .numVfs, .msixPend, .rmt, .heldAccess, .ports, .wins, .groups, .sendings, .ptp, .log, .repair, .scrubStk, .scrubVat, .stkLaps, .vatLaps, .badSpares, .zones, .pwr, .boot] pl = true) :
    Changes pl s0 (State.coldClear s) := by
  unfold State.coldClear
  try dsimp only
  repeat' first
    | with_reducible exact hc
    | with_reducible assumption
    | split
    | ((with_reducible refine Changes.mk ?_ ?_); rotate_left; (intro x hx; cases x <;> first | exact (hx (mem_of_sub hl (by decide))).elim | (dsimp only [Piece.put]; done) | (dsimp only [Piece.put]; rfl)))

theorem State.warmClear_ch {pl : List Piece} {s0 : State} {s : State} (hc : Changes pl s0 s) (hl : subPieces [.regs, .aon, .grid, .quarters, .dieFence, .vat, .vatCode, .work, .plateT, .slotCfg, .stk, .stkCode, .regions, .maps, .wcb, .held, .cellSeq, .refill, .rowMap, .rowCopy, .badBanks, .lanes, .press, .burin, .churn, .seqs, .parts, .bound, .pcmd, .measStart, .measEnd, .measOn, .measNext, .reqs, .pools, .rings, .cqs, .dmaQ, .cfgSpace, .masked, .vfEnable, .numVfs, .msixPend, .rmt, .heldAccess, .ports, .wins, .groups, .sendings, .ptp, .log, .repair, .scrubStk, .scrubVat, .stkLaps, .vatLaps, .badSpares, .zones, .pwr, .boot, .out] pl = true) :
    Changes pl s0 (State.warmClear s) := by
  unfold State.warmClear
  try dsimp only
  repeat' first
    | with_reducible exact hc
    | with_reducible assumption
    | with_reducible refine State.drainAll_ch ?_ (sub_trans hl rfl)
    | with_reducible refine State.landHeld_ch ?_ (sub_trans hl rfl)
    | with_reducible refine State.wr_ch ?_ (sub_trans hl rfl)
    | with_reducible refine Changes.each ?_ (fun _ _ _ => ?_)
    | split
    | ((with_reducible refine Changes.mk ?_ ?_); rotate_left; (intro x hx; cases x <;> first | exact (hx (mem_of_sub hl (by decide))).elim | (dsimp only [Piece.put]; done) | (dsimp only [Piece.put]; rfl)))

theorem State.imageFault_ch {pl : List Piece} {s0 : State} {s : State} {slot detail : Nat} (hc : Changes pl s0 s) (hl : subPieces [.regs, .msixPend, .log, .out] pl = true) :
    Changes pl s0 (State.imageFault s slot detail) := by
  unfold State.imageFault
  try dsimp only
  repeat' first
    | with_reducible exact hc
    | with_reducible assumption
    | with_reducible refine State.logEvent_ch ?_ (sub_trans hl rfl)
    | split

theorem State.pickSlot_ch {pl : List Piece} {s0 s : State} {l : List Nat} (hc : Changes pl s0 s) (hl : subPieces [.regs, .msixPend, .log, .out] pl = true) :
    Changes pl s0 (s.pickSlot l).1 := by
  induction l generalizing s with
  | nil => exact hc
  | cons k t ih =>
    unfold State.pickSlot
    dsimp only
    split
    · exact hc
    · exact ih (State.imageFault_ch hc (sub_trans hl rfl))

theorem State.testFence_ch {pl : List Piece} {s0 : State} {s : State} {q : Nat} {l : Loc} (hc : Changes pl s0 s) (hl : subPieces [.regs, .quarters, .stk, .stkCode, .wcb, .held, .parts, .msixPend, .log, .out] pl = true) :
    Changes pl s0 (State.testFence s q l) := by
  unfold State.testFence
  try dsimp only
  repeat' first
    | with_reducible exact hc
    | with_reducible assumption
    | with_reducible refine State.fenceNow_ch ?_ (sub_trans hl rfl)
    | with_reducible refine State.logEvent_ch ?_ (sub_trans hl rfl)
    | split

theorem State.testUnit_ch {pl : List Piece} {s0 : State} {s : State} {u : Nat} (hc : Changes pl s0 s) (hl : subPieces [.regs, .quarters, .stk, .stkCode, .wcb, .held, .parts, .msixPend, .log, .out] pl = true) :
    Changes pl s0 (State.testUnit s u) := by
  unfold State.testUnit
  try dsimp only
  repeat' first
    | with_reducible exact hc
    | with_reducible assumption
    | with_reducible refine State.testFence_ch ?_ (sub_trans hl rfl)
    | with_reducible refine State.logEvent_ch ?_ (sub_trans hl rfl)
    | with_reducible refine State.placeSpare_ch (by assumption) ?_ (sub_trans hl rfl)
    | split

theorem State.testE2e_ch {pl : List Piece} {s0 : State} {s : State} {d : Nat} (hc : Changes pl s0 s) (hl : subPieces [.regs, .msixPend, .log, .boot, .out] pl = true) :
    Changes pl s0 (State.testE2e s d) := by
  unfold State.testE2e
  try dsimp only
  repeat' first
    | with_reducible exact hc
    | with_reducible assumption
    | with_reducible refine State.logEvent_ch ?_ (sub_trans hl rfl)
    | split
    | ((with_reducible refine Changes.mk ?_ ?_); rotate_left; (intro x hx; cases x <;> first | exact (hx (mem_of_sub hl (by decide))).elim | (dsimp only [Piece.put]; done) | (dsimp only [Piece.put]; rfl)))

theorem State.selfTest_ch {pl : List Piece} {s0 : State} {s : State} {f : BootFindings} (hc : Changes pl s0 s) (hl : subPieces [.regs, .quarters, .dieFence, .work, .stk, .stkCode, .maps, .wcb, .held, .burin, .seqs, .parts, .pcmd, .msixPend, .rmt, .ports, .wins, .groups, .sendings, .log, .repair, .boot, .out] pl = true) :
    Changes pl s0 (State.selfTest s f) := by
  unfold State.selfTest
  try dsimp only
  repeat' first
    | with_reducible exact hc
    | with_reducible assumption
    | with_reducible refine State.testE2e_ch ?_ (sub_trans hl rfl)
    | with_reducible refine State.testUnit_ch ?_ (sub_trans hl rfl)
    | with_reducible refine State.testFence_ch ?_ (sub_trans hl rfl)
    | with_reducible refine State.stackLinkBad_ch ?_ (sub_trans hl rfl)
    | with_reducible refine State.pressLinkBad_ch ?_ (sub_trans hl rfl)
    | with_reducible refine State.trainLanes_ch ?_ (sub_trans hl rfl)
    | with_reducible refine State.wr_ch ?_ (sub_trans hl rfl)
    | with_reducible refine Changes.each ?_ (fun _ _ _ => ?_)
    | split

theorem State.dieFenced_ch {pl : List Piece} {s0 : State} {s : State} {d : Nat} (hc : Changes pl s0 s) (hl : subPieces [.regs, .quarters, .dieFence, .msixPend, .rmt, .ports, .wins, .groups, .sendings, .log, .repair, .out] pl = true) :
    Changes pl s0 (State.dieFenced s d) := by
  unfold State.dieFenced
  try dsimp only
  repeat' first
    | with_reducible exact hc
    | with_reducible assumption
    | with_reducible refine State.dieOff_ch ?_ (sub_trans hl rfl)
    | with_reducible refine State.setQ_ch ?_ (sub_trans hl rfl)
    | with_reducible refine Changes.each ?_ (fun _ _ _ => ?_)
    | split

theorem State.reapply_ch {pl : List Piece} {s0 : State} {s : State} {r : RetRecord} (hc : Changes pl s0 s) (hl : subPieces [.regs, .quarters, .dieFence, .stk, .stkCode, .regions, .rowMap, .badBanks, .msixPend, .rmt, .ports, .wins, .groups, .sendings, .log, .repair, .out] pl = true) :
    Changes pl s0 (State.reapply s r) := by
  unfold State.reapply
  extract_lets q half bank
  clear_value q half bank
  split
  · exact hc
  · split
    · split
      · exact hc
      · cases h : s.placeSpare q (bit r.cmd 12) (bits r.cmd 13 3) with
        | none => exact hc
        | some t => exact State.placeSpare_ch h hc (sub_trans hl rfl)
    · split
      · split
        · exact hc
        · refine Changes.mk hc fun x hx => ?_
          cases x <;> first | exact (hx (mem_of_sub hl (by decide))).elim | rfl
      · exact State.retirePage_ch hc (sub_trans hl rfl)
      · exact State.retireBank_ch hc (sub_trans hl rfl)
      · exact State.retireHalf_ch hc (sub_trans hl rfl)
    · exact State.dieFenced_ch hc (sub_trans hl rfl)
    · exact hc

theorem State.records_ch {pl : List Piece} {s0 : State} {s : State} {slot : Nat} {rs : List (Nat × W64)} (hc : Changes pl s0 s) (hl : subPieces [.regs, .aon, .quarters, .dieFence, .vat, .vatCode, .work, .stk, .stkCode, .regions, .maps, .wcb, .held, .refill, .rowCopy, .badBanks, .press, .burin, .churn, .seqs, .parts, .pcmd, .measStart, .measEnd, .measOn, .measNext, .rings, .cqs, .msixPend, .rmt, .ports, .wins, .groups, .sendings, .log, .repair, .fuses, .boot, .out, .free] pl = true) :
    Changes pl s0 (State.records s slot rs) := by
  unfold State.records
  try dsimp only
  repeat' first
    | with_reducible exact hc
    | with_reducible assumption
    | with_reducible refine State.imageFault_ch ?_ (sub_trans hl rfl)
    | with_reducible refine State.regWrite_ch ?_ (sub_trans hl rfl)
    | with_reducible refine Changes.each ?_ (fun _ _ _ => ?_)
    | split

theorem State.bootFailed_ch {pl : List Piece} {s0 : State} {s : State} {code detail : Nat} (hc : Changes pl s0 s) (hl : subPieces [.regs, .msixPend, .log, .boot, .out] pl = true) :
    Changes pl s0 (State.bootFailed s code detail) := by
  unfold State.bootFailed
  try dsimp only
  repeat' first
    | with_reducible exact hc
    | with_reducible assumption
    | with_reducible refine State.logEvent_ch ?_ (sub_trans hl rfl)
    | split
    | ((with_reducible refine Changes.mk ?_ ?_); rotate_left; (intro x hx; cases x <;> first | exact (hx (mem_of_sub hl (by decide))).elim | (dsimp only [Piece.put]; done) | (dsimp only [Piece.put]; rfl)))

theorem State.showCopy_ch {pl : List Piece} {s0 : State} {s : State} {slot : Nat} {c : ImageCopy} (hc : Changes pl s0 s) (hl : subPieces [.regs] pl = true) :
    Changes pl s0 (State.showCopy s slot c) := by
  unfold State.showCopy
  try dsimp only
  repeat' first
    | with_reducible exact hc
    | with_reducible assumption
    | with_reducible refine State.wrs_ch ?_ (sub_trans hl rfl)
    | with_reducible refine State.wr_ch ?_ (sub_trans hl rfl)
    | with_reducible refine Changes.each ?_ (fun _ _ _ => ?_)
    | split

theorem State.linkUp_ch {pl : List Piece} {s0 : State} {s : State} (hc : Changes pl s0 s) (hl : subPieces [.regs, .free] pl = true) :
    Changes pl s0 (State.linkUp s) := by
  unfold State.linkUp
  try dsimp only
  repeat' first
    | with_reducible exact hc
    | with_reducible assumption
    | with_reducible refine State.drawn_ch ?_ (sub_trans hl rfl)
    | with_reducible refine State.wrs_ch ?_ (sub_trans hl rfl)
    | split

theorem State.identity_ch {pl : List Piece} {s0 : State} {s : State} {bad : Bool} (hc : Changes pl s0 s) (hl : subPieces [.regs, .msixPend, .log, .out] pl = true) :
    Changes pl s0 (State.identity s bad) := by
  unfold State.identity
  try dsimp only
  repeat' first
    | with_reducible exact hc
    | with_reducible assumption
    | with_reducible refine State.logEvent_ch ?_ (sub_trans hl rfl)
    | with_reducible refine State.wr_ch ?_ (sub_trans hl rfl)
    | split

theorem State.bindAll_ch {pl : List Piece} {s0 : State} {s : State} (hc : Changes pl s0 s) (hl : subPieces [.bound] pl = true) :
    Changes pl s0 (State.bindAll s) := by
  unfold State.bindAll
  try dsimp only
  repeat' first
    | with_reducible exact hc
    | with_reducible assumption
    | with_reducible refine Changes.foldl ?_ (fun _ _ _ => ?_)
    | with_reducible refine Changes.foldl_fst ?_ (fun _ _ _ => ?_)
    | split
    | ((with_reducible refine Changes.mk ?_ ?_); rotate_left; (intro x hx; cases x <;> first | exact (hx (mem_of_sub hl (by decide))).elim | (dsimp only [Piece.put]; done) | (dsimp only [Piece.put]; rfl)))

theorem State.bootTrip_ch {pl : List Piece} {s0 : State} {s : State} {z : Nat} {r : Int} (hc : Changes pl s0 s) (hl : subPieces [.regs, .quarters, .dieFence, .vat, .vatCode, .work, .stk, .stkCode, .maps, .wcb, .held, .rowCopy, .burin, .seqs, .parts, .pcmd, .msixPend, .rmt, .ports, .wins, .groups, .sendings, .log, .repair, .zones, .pwr, .boot, .out] pl = true) :
    Changes pl s0 (State.bootTrip s z r) := by
  unfold State.bootTrip
  try dsimp only
  repeat' first
    | with_reducible exact hc
    | with_reducible assumption
    | with_reducible refine State.zoneReading_ch ?_ (sub_trans hl rfl)
    | with_reducible refine State.trip_ch ?_ (sub_trans hl rfl)
    | split
    | ((with_reducible refine Changes.mk ?_ ?_); rotate_left; (intro x hx; cases x <;> first | exact (hx (mem_of_sub hl (by decide))).elim | (dsimp only [Piece.put]; done) | (dsimp only [Piece.put]; rfl)))

theorem State.bootWith_ch {pl : List Piece} {s0 : State} {s : State} {slot : Nat} {c : ImageCopy} {f : BootFindings} (hc : Changes pl s0 s) (hl : subPieces [.regs, .aon, .quarters, .dieFence, .vat, .vatCode, .work, .stk, .stkCode, .regions, .maps, .wcb, .held, .refill, .rowMap, .rowCopy, .badBanks, .press, .burin, .churn, .seqs, .parts, .bound, .pcmd, .measStart, .measEnd, .measOn, .measNext, .rings, .cqs, .msixPend, .rmt, .ports, .wins, .groups, .sendings, .log, .repair, .zones, .pwr, .fuses, .boot, .out, .free] pl = true) :
    Changes pl s0 (State.bootWith s slot c f) := by
  unfold State.bootWith
  try dsimp only
  repeat' first
    | with_reducible exact hc
    | with_reducible assumption
    | with_reducible refine State.bootTrip_ch ?_ (sub_trans hl rfl)
    | with_reducible refine State.bindAll_ch ?_ (sub_trans hl rfl)
    | with_reducible refine State.identity_ch ?_ (sub_trans hl rfl)
    | with_reducible refine State.linkUp_ch ?_ (sub_trans hl rfl)
    | with_reducible refine State.showCopy_ch ?_ (sub_trans hl rfl)
    | with_reducible refine State.bootFailed_ch ?_ (sub_trans hl rfl)
    | with_reducible refine State.records_ch ?_ (sub_trans hl rfl)
    | with_reducible refine State.reapply_ch ?_ (sub_trans hl rfl)
    | with_reducible refine State.dieFenced_ch ?_ (sub_trans hl rfl)
    | with_reducible refine State.selfTest_ch ?_ (sub_trans hl rfl)
    | with_reducible refine State.wr_ch ?_ (sub_trans hl rfl)
    | with_reducible refine Changes.each ?_ (fun _ _ _ => ?_)
    | split
    | ((with_reducible refine Changes.mk ?_ ?_); rotate_left; (intro x hx; cases x <;> first | exact (hx (mem_of_sub hl (by decide))).elim | (dsimp only [Piece.put]; done) | (dsimp only [Piece.put]; rfl)))

theorem State.recover_ch {pl : List Piece} {s0 : State} {s : State} (hc : Changes pl s0 s) (hl : subPieces [.regs, .boot, .free] pl = true) :
    Changes pl s0 (State.recover s) := by
  unfold State.recover
  try dsimp only
  repeat' first
    | with_reducible exact hc
    | with_reducible assumption
    | with_reducible refine State.linkUp_ch ?_ (sub_trans hl rfl)
    | with_reducible refine State.wr_ch ?_ (sub_trans hl rfl)
    | split
    | ((with_reducible refine Changes.mk ?_ ?_); rotate_left; (intro x hx; cases x <;> first | exact (hx (mem_of_sub hl (by decide))).elim | (dsimp only [Piece.put]; done) | (dsimp only [Piece.put]; rfl)))

theorem State.bootRun_ch {pl : List Piece} {s0 : State} {s : State} {f : BootFindings} (hc : Changes pl s0 s) (hl : subPieces [.regs, .aon, .quarters, .dieFence, .vat, .vatCode, .work, .stk, .stkCode, .regions, .maps, .wcb, .held, .refill, .rowMap, .rowCopy, .badBanks, .press, .burin, .churn, .seqs, .parts, .bound, .pcmd, .measStart, .measEnd, .measOn, .measNext, .rings, .cqs, .msixPend, .rmt, .ports, .wins, .groups, .sendings, .log, .repair, .zones, .pwr, .fuses, .boot, .out, .free] pl = true) :
    Changes pl s0 (State.bootRun s f) := by
  unfold State.bootRun
  try dsimp only
  repeat' first
    | with_reducible exact hc
    | with_reducible assumption
    | with_reducible refine State.recover_ch ?_ (sub_trans hl rfl)
    | with_reducible refine State.bootWith_ch ?_ (sub_trans hl rfl)
    | with_reducible refine State.bootFailed_ch ?_ (sub_trans hl rfl)
    | with_reducible refine State.pickSlot_ch ?_ (sub_trans hl rfl)
    | with_reducible refine State.imageFault_ch ?_ (sub_trans hl rfl)
    | with_reducible refine State.fuseStatus_ch ?_ (sub_trans hl rfl)
    | with_reducible refine Changes.each ?_ (fun _ _ _ => ?_)
    | split

theorem State.bootNow_ch {pl : List Piece} {s0 : State} {s : State} {f : BootFindings} (hc : Changes pl s0 s) (hl : subPieces [.regs, .aon, .quarters, .dieFence, .vat, .vatCode, .work, .stk, .stkCode, .regions, .maps, .wcb, .held, .refill, .rowMap, .rowCopy, .badBanks, .press, .burin, .churn, .seqs, .parts, .bound, .pcmd, .measStart, .measEnd, .measOn, .measNext, .rings, .cqs, .msixPend, .rmt, .ports, .wins, .groups, .sendings, .log, .repair, .zones, .pwr, .fuses, .boot, .out, .free] pl = true) :
    Changes pl s0 (State.bootNow s f) := by
  unfold State.bootNow
  try dsimp only
  repeat' first
    | with_reducible exact hc
    | with_reducible assumption
    | with_reducible refine State.bootRun_ch ?_ (sub_trans hl rfl)
    | split
    | ((with_reducible refine Changes.mk ?_ ?_); rotate_left; (intro x hx; cases x <;> first | exact (hx (mem_of_sub hl (by decide))).elim | (dsimp only [Piece.put]; done) | (dsimp only [Piece.put]; rfl)))

theorem State.coldReset_ch {pl : List Piece} {s0 : State} {s : State} {f : BootFindings} (hc : Changes pl s0 s) (hl : subPieces [.regs, .dt, .aon, .grid, .quarters, .dieFence, .vat, .vatCode, .work, .plateT, .slotCfg, .stk, .stkCode, .regions, .maps, .wcb, .held, .cellSeq, .refill, .rowMap, .rowCopy, .badBanks, .lanes, .press, .burin, .churn, .seqs, .parts, .bound, .pcmd, .measStart, .measEnd, .measOn, .measNext, .reqs, .pools, .rings, .cqs, .dmaQ, .cfgSpace, .masked, .vfEnable, .numVfs, .msixPend, .rmt, .heldAccess, .ports, .wins, .groups, .sendings, .ptp, .log, .repair, .scrubStk, .scrubVat, .stkLaps, .vatLaps, .badSpares, .zones, .pwr, .fuses, .boot, .out, .free] pl = true) :
    Changes pl s0 (State.coldReset s f) := by
  unfold State.coldReset
  try dsimp only
  repeat' first
    | with_reducible exact hc
    | with_reducible assumption
    | with_reducible refine State.bootNow_ch ?_ (sub_trans hl rfl)
    | with_reducible refine State.coldClear_ch ?_ (sub_trans hl rfl)
    | with_reducible refine State.farewell_ch ?_ (sub_trans hl rfl)
    | split

theorem State.warmReset_ch {pl : List Piece} {s0 : State} {s : State} {f : BootFindings} (hc : Changes pl s0 s) (hl : subPieces [.regs, .aon, .grid, .quarters, .dieFence, .vat, .vatCode, .work, .plateT, .slotCfg, .stk, .stkCode, .regions, .maps, .wcb, .held, .cellSeq, .refill, .rowMap, .rowCopy, .badBanks, .lanes, .press, .burin, .churn, .seqs, .parts, .bound, .pcmd, .measStart, .measEnd, .measOn, .measNext, .reqs, .pools, .rings, .cqs, .dmaQ, .cfgSpace, .masked, .vfEnable, .numVfs, .msixPend, .rmt, .heldAccess, .ports, .wins, .groups, .sendings, .ptp, .log, .repair, .scrubStk, .scrubVat, .stkLaps, .vatLaps, .badSpares, .zones, .pwr, .fuses, .boot, .out, .free] pl = true) :
    Changes pl s0 (State.warmReset s f) := by
  unfold State.warmReset
  try dsimp only
  repeat' first
    | with_reducible exact hc
    | with_reducible assumption
    | with_reducible refine State.bootNow_ch ?_ (sub_trans hl rfl)
    | with_reducible refine State.warmClear_ch ?_ (sub_trans hl rfl)
    | with_reducible refine State.farewell_ch ?_ (sub_trans hl rfl)
    | split

theorem State.startWatchdog_ch {pl : List Piece} {s0 : State} {s : State} {f : BootFindings} (hc : Changes pl s0 s) (hl : subPieces [.regs, .aon, .grid, .quarters, .dieFence, .vat, .vatCode, .work, .plateT, .slotCfg, .stk, .stkCode, .regions, .maps, .wcb, .held, .cellSeq, .refill, .rowMap, .rowCopy, .badBanks, .lanes, .press, .burin, .churn, .seqs, .parts, .bound, .pcmd, .measStart, .measEnd, .measOn, .measNext, .reqs, .pools, .rings, .cqs, .dmaQ, .cfgSpace, .masked, .vfEnable, .numVfs, .msixPend, .rmt, .heldAccess, .ports, .wins, .groups, .sendings, .ptp, .log, .repair, .scrubStk, .scrubVat, .stkLaps, .vatLaps, .badSpares, .zones, .pwr, .fuses, .boot, .out, .free] pl = true) :
    Changes pl s0 (State.startWatchdog s f) := by
  unfold State.startWatchdog
  try dsimp only
  repeat' first
    | with_reducible exact hc
    | with_reducible assumption
    | with_reducible refine State.warmReset_ch ?_ (sub_trans hl rfl)
    | with_reducible refine State.imageFault_ch ?_ (sub_trans hl rfl)
    | with_reducible refine State.wr_ch ?_ (sub_trans hl rfl)
    | split

theorem State.refRestored_ch {pl : List Piece} {s0 : State} {s : State} {f : BootFindings} (hc : Changes pl s0 s) (hl : subPieces [.regs, .dt, .aon, .grid, .quarters, .dieFence, .vat, .vatCode, .work, .plateT, .slotCfg, .stk, .stkCode, .regions, .maps, .wcb, .held, .cellSeq, .refill, .rowMap, .rowCopy, .badBanks, .lanes, .press, .burin, .churn, .seqs, .parts, .bound, .pcmd, .measStart, .measEnd, .measOn, .measNext, .reqs, .pools, .rings, .cqs, .dmaQ, .cfgSpace, .masked, .vfEnable, .numVfs, .msixPend, .rmt, .heldAccess, .ports, .wins, .groups, .sendings, .ptp, .log, .repair, .scrubStk, .scrubVat, .stkLaps, .vatLaps, .badSpares, .zones, .pwr, .fuses, .boot, .out, .free] pl = true) :
    Changes pl s0 (State.refRestored s f) := by
  unfold State.refRestored
  try dsimp only
  repeat' first
    | with_reducible exact hc
    | with_reducible assumption
    | with_reducible refine State.bootRun_ch ?_ (sub_trans hl rfl)
    | with_reducible refine State.coldClear_ch ?_ (sub_trans hl rfl)
    | with_reducible refine State.leaveTripped_ch ?_ (sub_trans hl rfl)
    | split
    | ((with_reducible refine Changes.mk ?_ ?_); rotate_left; (intro x hx; cases x <;> first | exact (hx (mem_of_sub hl (by decide))).elim | (dsimp only [Piece.put]; done) | (dsimp only [Piece.put]; rfl)))

theorem State.powerLoss_ch {pl : List Piece} {s0 : State} {s : State} (hc : Changes pl s0 s) (hl : subPieces [.regs, .dt, .aon, .grid, .quarters, .dieFence, .vat, .vatCode, .work, .plateT, .slotCfg, .stk, .stkCode, .regions, .maps, .wcb, .held, .cellSeq, .refill, .rowMap, .rowCopy, .badBanks, .lanes, .press, .burin, .churn, .seqs, .parts, .bound, .pcmd, .measStart, .measEnd, .measOn, .measNext, .reqs, .pools, .rings, .cqs, .dmaQ, .cfgSpace, .masked, .vfEnable, .numVfs, .msixPend, .rmt, .heldAccess, .ports, .wins, .groups, .sendings, .ptp, .log, .repair, .scrubStk, .scrubVat, .stkLaps, .vatLaps, .badSpares, .zones, .pwr, .boot] pl = true) :
    Changes pl s0 (State.powerLoss s) := by
  unfold State.powerLoss
  try dsimp only
  repeat' first
    | with_reducible exact hc
    | with_reducible assumption
    | with_reducible refine State.coldClear_ch ?_ (sub_trans hl rfl)
    | split
    | ((with_reducible refine Changes.mk ?_ ?_); rotate_left; (intro x hx; cases x <;> first | exact (hx (mem_of_sub hl (by decide))).elim | (dsimp only [Piece.put]; done) | (dsimp only [Piece.put]; rfl)))

theorem State.dmaPut_ch {pl : List Piece} {s0 : State} {s : State} {t : TDesc} {q : Nat} {d : DmaPiece} {x : W256 × Bool} (hc : Changes pl s0 s) (hl : subPieces [.regs, .vat, .vatCode, .stk, .stkCode, .wcb, .held, .parts, .msixPend, .log, .out] pl = true) :
    Changes pl s0 (State.dmaPut s t q d x) := by
  unfold State.dmaPut
  try dsimp only
  repeat' first
    | with_reducible exact hc
    | with_reducible assumption
    | with_reducible refine State.vatMerge_ch ?_ (sub_trans hl rfl)
    | with_reducible refine State.svcWrite_ch ?_ (sub_trans hl rfl)
    | split

theorem State.fillRows_ch {pl : List Piece} {s0 : State} {s : State} {t : TDesc} {half : Nat} {ps : List DmaPiece} {h : HostData} (hc : Changes pl s0 s) (hl : subPieces [.regs, .stk, .stkCode, .wcb, .held, .parts, .msixPend, .log, .out] pl = true) :
    Changes pl s0 (State.fillRows s t half ps h) := by
  unfold State.fillRows
  try dsimp only
  repeat' first
    | with_reducible exact hc
    | with_reducible assumption
    | with_reducible refine State.putRow_ch ?_ (sub_trans hl rfl)
    | with_reducible refine Changes.each ?_ (fun _ _ _ => ?_)
    | split

theorem State.dmaStatus_ch {pl : List Piece} {s0 : State} {s : State} {d : DmaReq} {code cause : Nat} (hc : Changes pl s0 s) (hl : subPieces [.msixPend, .out] pl = true) :
    Changes pl s0 (State.dmaStatus s d code cause) := by
  unfold State.dmaStatus
  try dsimp only
  repeat' first
    | with_reducible exact hc
    | with_reducible assumption
    | with_reducible refine State.fire_ch ?_ (sub_trans hl rfl)
    | with_reducible refine State.emit_ch ?_ (sub_trans hl rfl)
    | split

theorem State.dmaIn_ch {pl : List Piece} {s0 : State} {s : State} {t : TDesc} {q : Nat} {h : HostData} {open_ : Bool} (hc : Changes pl s0 s) (hl : subPieces [.regs, .vat, .vatCode, .stk, .stkCode, .wcb, .held, .parts, .msixPend, .log, .out, .free] pl = true) :
    Changes pl s0 (State.dmaIn s t q h open_) := by
  unfold State.dmaIn
  try dsimp only
  repeat' first
    | with_reducible exact hc
    | with_reducible assumption
    | with_reducible refine State.fillRows_ch ?_ (sub_trans hl rfl)
    | with_reducible refine State.dmaPut_ch ?_ (sub_trans hl rfl)
    | with_reducible refine State.edgeUse_ch ?_ (sub_trans hl rfl)
    | with_reducible refine Changes.each ?_ (fun _ _ _ => ?_)
    | split

theorem State.dmaOut_ch {pl : List Piece} {s0 : State} {s : State} {d : DmaReq} {t : TDesc} {q : Nat} {h : HostData} (hc : Changes pl s0 s) (hl : subPieces [.regs, .parts, .msixPend, .log, .out, .free] pl = true) :
    Changes pl s0 (State.dmaOut s d t q h) := by
  unfold State.dmaOut
  try dsimp only
  repeat' first
    | with_reducible exact hc
    | with_reducible assumption
    | with_reducible refine State.stkReadLog_ch ?_ (sub_trans hl rfl)
    | with_reducible refine State.edgeUse_ch ?_ (sub_trans hl rfl)
    | with_reducible refine State.vatLog_ch ?_ (sub_trans hl rfl)
    | with_reducible refine State.emit_ch ?_ (sub_trans hl rfl)
    | with_reducible refine Changes.each ?_ (fun _ _ _ => ?_)
    | split

theorem State.dmaRun_ch {pl : List Piece} {s0 : State} {s : State} {d : DmaReq} {h : HostData} (hc : Changes pl s0 s) (hl : subPieces [.regs, .vat, .vatCode, .stk, .stkCode, .wcb, .held, .parts, .msixPend, .log, .out, .free] pl = true) :
    Changes pl s0 (State.dmaRun s d h) := by
  unfold State.dmaRun
  try dsimp only
  repeat' first
    | with_reducible exact hc
    | with_reducible assumption
    | with_reducible refine State.dmaOut_ch ?_ (sub_trans hl rfl)
    | with_reducible refine State.dmaIn_ch ?_ (sub_trans hl rfl)
    | with_reducible refine State.dmaStatus_ch ?_ (sub_trans hl rfl)
    | with_reducible refine State.hubLog_ch ?_ (sub_trans hl rfl)
    | with_reducible refine State.updPart_ch ?_ (sub_trans hl rfl)
    | with_reducible refine State.logEvent_ch ?_ (sub_trans hl rfl)
    | split

theorem State.hostDma_ch {pl : List Piece} {s0 : State} {s : State} {e : Nat} {h : HostData} (hc : Changes pl s0 s) (hl : subPieces [.regs, .vat, .vatCode, .stk, .stkCode, .wcb, .held, .parts, .dmaQ, .msixPend, .log, .out, .free] pl = true) :
    Changes pl s0 (State.hostDma s e h) := by
  unfold State.hostDma
  try dsimp only
  repeat' first
    | with_reducible exact hc
    | with_reducible assumption
    | with_reducible refine State.dmaRun_ch ?_ (sub_trans hl rfl)
    | split
    | ((with_reducible refine Changes.mk ?_ ?_); rotate_left; (intro x hx; cases x <;> first | exact (hx (mem_of_sub hl (by decide))).elim | (dsimp only [Piece.put]; done) | (dsimp only [Piece.put]; rfl)))

theorem State.unmask_ch {pl : List Piece} {s0 : State} {s : State} {fn : Nat} (hc : Changes pl s0 s) (hl : subPieces [.masked, .msixPend, .out] pl = true) :
    Changes pl s0 (State.unmask s fn) := by
  unfold State.unmask
  try dsimp only
  repeat' first
    | with_reducible exact hc
    | with_reducible assumption
    | with_reducible refine State.emit_ch ?_ (sub_trans hl rfl)
    | with_reducible refine Changes.each ?_ (fun _ _ _ => ?_)
    | split
    | ((with_reducible refine Changes.mk ?_ ?_); rotate_left; (intro x hx; cases x <;> first | exact (hx (mem_of_sub hl (by decide))).elim | (dsimp only [Piece.put]; done) | (dsimp only [Piece.put]; rfl)))

theorem State.configWrite_ch {pl : List Piece} {s0 : State} {s : State} {fn reg : Nat} {v : W32} (hc : Changes pl s0 s) (hl : subPieces [.cfgSpace, .masked, .vfEnable, .numVfs, .msixPend, .out] pl = true) :
    Changes pl s0 (State.configWrite s fn reg v) := by
  unfold State.configWrite
  try dsimp only
  repeat' first
    | with_reducible exact hc
    | with_reducible assumption
    | with_reducible refine State.unmask_ch ?_ (sub_trans hl rfl)
    | split
    | ((with_reducible refine Changes.mk ?_ ?_); rotate_left; (intro x hx; cases x <;> first | exact (hx (mem_of_sub hl (by decide))).elim | (dsimp only [Piece.put]; done) | (dsimp only [Piece.put]; rfl)))

theorem State.config_ch {pl : List Piece} {s0 : State} {s : State} {fn : Nat} {write : Bool} {reg : Nat} {v : W32} (hc : Changes pl s0 s) (hl : subPieces [.cfgSpace, .masked, .vfEnable, .numVfs, .msixPend, .out] pl = true) :
    Changes pl s0 (State.config s fn write reg v) := by
  unfold State.config
  try dsimp only
  repeat' first
    | with_reducible exact hc
    | with_reducible assumption
    | with_reducible refine State.configWrite_ch ?_ (sub_trans hl rfl)
    | with_reducible refine State.emit_ch ?_ (sub_trans hl rfl)
    | split

theorem State.mctpWake_ch {pl : List Piece} {s0 : State} {s : State} {i3c : Bool} (hc : Changes pl s0 s) (hl : subPieces [.regs] pl = true) :
    Changes pl s0 (State.mctpWake s i3c) := by
  unfold State.mctpWake
  try dsimp only
  repeat' first
    | with_reducible exact hc
    | with_reducible assumption
    | with_reducible refine State.startWake_ch ?_ (sub_trans hl rfl)
    | split

theorem State.spdm_ch {pl : List Piece} {s0 : State} {s : State} {i3c : Bool} {code : Nat} {content : List Byte} (hc : Changes pl s0 s) (hl : subPieces [.regs, .out] pl = true) :
    Changes pl s0 (State.spdm s i3c code content) := by
  unfold State.spdm
  try dsimp only
  repeat' first
    | with_reducible exact hc
    | with_reducible assumption
    | with_reducible refine State.mctpWake_ch ?_ (sub_trans hl rfl)
    | with_reducible refine State.emit_ch ?_ (sub_trans hl rfl)
    | split

theorem State.spdmSigned_ch {pl : List Piece} {s0 : State} {s : State} {i3c : Bool} {code : Nat} {content : List Byte} (hc : Changes pl s0 s) (hl : subPieces [.regs, .out] pl = true) :
    Changes pl s0 (State.spdmSigned s i3c code content) := by
  unfold State.spdmSigned
  try dsimp only
  repeat' first
    | with_reducible exact hc
    | with_reducible assumption
    | with_reducible refine State.spdm_ch ?_ (sub_trans hl rfl)
    | split

theorem State.challenge_ch {pl : List Piece} {s0 : State} {s : State} {i3c : Bool} {nonce : W256} (hc : Changes pl s0 s) (hl : subPieces [.regs, .out] pl = true) :
    Changes pl s0 (State.challenge s i3c nonce) := by
  unfold State.challenge
  try dsimp only
  repeat' first
    | with_reducible exact hc
    | with_reducible assumption
    | with_reducible refine State.spdmSigned_ch ?_ (sub_trans hl rfl)
    | split

theorem State.vatBytes_ch {pl : List Piece} {s0 : State} {s : State} {a n v : Nat} (hc : Changes pl s0 s) (hl : subPieces [.vat, .vatCode] pl = true) :
    Changes pl s0 (State.vatBytes s a n v) := by
  unfold State.vatBytes
  try dsimp only
  repeat' first
    | with_reducible exact hc
    | with_reducible assumption
    | with_reducible refine State.vatPut_ch ?_ (sub_trans hl rfl)
    | with_reducible refine Changes.each ?_ (fun _ _ _ => ?_)
    | with_reducible refine Changes.foldl ?_ (fun _ _ _ => ?_)
    | with_reducible refine Changes.foldl_fst ?_ (fun _ _ _ => ?_)
    | split

theorem State.writeProof_ch {pl : List Piece} {s0 : State} {s : State} {p i : Nat} (hc : Changes pl s0 s) (hl : subPieces [.vat, .vatCode] pl = true) :
    Changes pl s0 (State.writeProof s p i) := by
  unfold State.writeProof
  try dsimp only
  repeat' first
    | with_reducible exact hc
    | with_reducible assumption
    | with_reducible refine State.vatBytes_ch ?_ (sub_trans hl rfl)
    | split

theorem State.tick_ch {pl : List Piece} {s0 : State} {s : State} (hc : Changes pl s0 s) (hl : subPieces [.dt, .aon] pl = true) :
    Changes pl s0 (State.tick s) := by
  unfold State.tick
  try dsimp only
  repeat' first
    | with_reducible exact hc
    | with_reducible assumption
    | split
    | ((with_reducible refine Changes.mk ?_ ?_); rotate_left; (intro x hx; cases x <;> first | exact (hx (mem_of_sub hl (by decide))).elim | (dsimp only [Piece.put]; done) | (dsimp only [Piece.put]; rfl)))

end Sys2Proof.Machine
end

