-- ==== Sys2Proof/Laws/Memory.lean ====
section
/-! SUPPORT. The memories: every operation that writes them keeps their canonical form, a byte outside the word written reads
as before, and a code of another word stands. -/

namespace Sys2Proof.Machine

open Sys2Proof

/-- The fold of `putBytes`, from any address. -/
theorem putBytes_nil (m : NMap Byte) (a : Nat) : putBytes m a [] = m := rfl

/-- One byte, then the rest from the next address. -/
theorem putBytes_cons (m : NMap Byte) (a : Nat) (b : Byte) (bs : List Byte) :
    putBytes m a (b :: bs) = putBytes (mset 0 m a b) (a + 1) bs := rfl

/-- Writing bytes keeps the canonical form. -/
theorem putBytes_mwf (bs : List Byte) : ∀ (m : NMap Byte) (a : Nat), mwf 0 m = true → mwf 0 (putBytes m a bs) = true := by
  induction bs with
  | nil => intro m a h; exact h
  | cons b t ih => intro m a h; rw [putBytes_cons]; exact ih _ _ (mwf_mset _ _ _ _ h)

/-- A byte outside those written reads as before. -/
theorem putBytes_get_out (bs : List Byte) :
    ∀ (m : NMap Byte) (a x : Nat), (x < a ∨ a + bs.length ≤ x) → mget 0 (putBytes m a bs) x = mget 0 m x := by
  induction bs with
  | nil => intro m a x _; rfl
  | cons b t ih =>
    intro m a x h
    rw [putBytes_cons, ih]
    · exact mget_mset_ne _ _ _ _ _ (by simp only [List.length_cons] at h; omega) _
    · simp only [List.length_cons] at h; omega

/-- A byte of those written reads as written. -/
theorem putBytes_get_in (bs : List Byte) :
    ∀ (m : NMap Byte) (a i : Nat) (h : i < bs.length), mget 0 (putBytes m a bs) (a + i) = bs[i] := by
  induction bs with
  | nil => intro m a i h; exact absurd h (by simp)
  | cons b t ih =>
    intro m a i h
    rw [putBytes_cons]
    cases i with
    | zero => rw [putBytes_get_out _ _ _ _ (by omega), Nat.add_zero, mget_mset_same]; rfl
    | succ n =>
      have hn : n < t.length := by simp only [List.length_cons] at h; omega
      rw [show a + (n + 1) = a + 1 + n by omega, ih _ _ _ hn]; rfl

/-- `n` bytes are n bytes. -/
@[simp] theorem leBytes_length : ∀ n x : Nat, (leBytes n x).length = n
  | 0, _ => rfl
  | n + 1, x => by simp [leBytes, leBytes_length n]

/-- Entries taken from another map keep the canonical form, whatever the other map is. -/
theorem replace_mwf {α : Type} [DecidableEq α] [Inhabited α] (p : Nat → Bool) (src : NMap α) (m : NMap α)
    (h : mwf default m = true) : mwf default (m.replace src p) = true := by
  have go : ∀ (src acc : NMap α), mwf default acc = true →
      mwf default (List.foldl (fun acc (e : Nat × α) => if p e.1 then NMap.set acc e.1 e.2 else acc) acc src) = true := by
    intro src
    induction src with
    | nil => intro acc ha; exact ha
    | cons e t ih =>
      intro acc ha
      rw [List.foldl_cons]
      apply ih
      split
      · exact mwf_mset _ _ _ _ ha
      · exact ha
  exact go src _ (mwf_keep _ _ _ h)

/-! ### What the stores write, field by field -/

@[simp] theorem State.vatRaw_vat (s : State) (a : Nat) (d : W256) (code : W16) :
    (s.vatRaw a d code).vat = putBytes s.vat a (leBytes 32 d.toNat) := by simp only [State.vatRaw]
@[simp] theorem State.vatRaw_vatCode (s : State) (a : Nat) (d : W256) (code : W16) :
    (s.vatRaw a d code).vatCode = mset 0 s.vatCode (a / 32) code := by simp only [State.vatRaw]
@[simp] theorem State.stkRaw_stk (s : State) (a : Nat) (d : W256) (code : W16) :
    (s.stkRaw a d code).stk = putBytes s.stk a (leBytes 32 d.toNat) := by simp only [State.stkRaw]
@[simp] theorem State.stkRaw_stkCode (s : State) (a : Nat) (d : W256) (code : W16) :
    (s.stkRaw a d code).stkCode = mset 0 s.stkCode (a / 32) code := by simp only [State.stkRaw]
@[simp] theorem State.vatClear_vat (s : State) (q : Nat) :
    (s.vatClear q).vat = s.vat.keep (fun a => a / 2 ^ 26 != q) := by simp only [State.vatClear]
@[simp] theorem State.vatClear_vatCode (s : State) (q : Nat) :
    (s.vatClear q).vatCode = s.vatCode.keep (fun w => w / 2 ^ 21 != q) := by simp only [State.vatClear]

/-! ### The canonical form is kept -/

/-- A Vat word stored keeps the canonical form. -/
theorem State.vatRaw_memWf {s : State} (a : Nat) (d : W256) (code : W16) (h : mwf 0 s.vat = true ∧ mwf 0 s.vatCode = true) :
    mwf 0 (s.vatRaw a d code).vat = true ∧ mwf 0 (s.vatRaw a d code).vatCode = true := by
  rw [State.vatRaw_vat, State.vatRaw_vatCode]
  exact ⟨putBytes_mwf _ _ _ h.1, mwf_mset _ _ _ _ h.2⟩

/-- A stack word stored keeps the canonical form. -/
theorem State.stkRaw_memWf {s : State} (a : Nat) (d : W256) (code : W16) (h : mwf 0 s.stk = true ∧ mwf 0 s.stkCode = true) :
    mwf 0 (s.stkRaw a d code).stk = true ∧ mwf 0 (s.stkRaw a d code).stkCode = true := by
  rw [State.stkRaw_stk, State.stkRaw_stkCode]
  exact ⟨putBytes_mwf _ _ _ h.1, mwf_mset _ _ _ _ h.2⟩

/-- So does a stack word stored by its region's kind. -/
theorem State.stkPut_memWf {s : State} (a : Nat) (d : W256) (poison : Bool) (h : mwf 0 s.stk = true ∧ mwf 0 s.stkCode = true) :
    mwf 0 (s.stkPut a d poison).stk = true ∧ mwf 0 (s.stkPut a d poison).stkCode = true := by
  unfold State.stkPut
  dsimp only
  split
  · exact State.stkRaw_memWf a d _ h
  · split
    · exact State.stkRaw_memWf a d _ h
    · exact h

/-- Clearing a quarter keeps the canonical form. -/
theorem State.vatClear_memWf {s : State} (q : Nat) (h : mwf 0 s.vat = true ∧ mwf 0 s.vatCode = true) :
    mwf 0 (s.vatClear q).vat = true ∧ mwf 0 (s.vatClear q).vatCode = true := by
  rw [State.vatClear_vat, State.vatClear_vatCode]
  exact ⟨mwf_keep _ _ _ h.1, mwf_keep _ _ _ h.2⟩

/-! ### Reading after a store -/

/-- A Vat byte outside the word stored reads as before. -/
theorem State.vatRaw_out (s : State) (a : Nat) (d : W256) (code : W16) (x : Nat) (h : x < a ∨ a + 32 ≤ x) :
    mget 0 (s.vatRaw a d code).vat x = mget 0 s.vat x := by
  rw [State.vatRaw_vat]
  exact putBytes_get_out _ _ _ _ (by rw [leBytes_length]; exact h)

/-- A stack byte outside the word stored reads as before. -/
theorem State.stkRaw_out (s : State) (a : Nat) (d : W256) (code : W16) (x : Nat) (h : x < a ∨ a + 32 ≤ x) :
    mget 0 (s.stkRaw a d code).stk x = mget 0 s.stk x := by
  rw [State.stkRaw_stk]
  exact putBytes_get_out _ _ _ _ (by rw [leBytes_length]; exact h)

/-- The bytes stored are the word's. -/
theorem State.vatRaw_in (s : State) (a : Nat) (d : W256) (code : W16) (i : Nat) (h : i < (leBytes 32 d.toNat).length) :
    mget 0 (s.vatRaw a d code).vat (a + i) = (leBytes 32 d.toNat)[i] := by
  rw [State.vatRaw_vat]
  exact putBytes_get_in _ _ _ _ h

/-- The code of another word stands. -/
theorem State.vatRaw_code_ne (s : State) (a : Nat) (d : W256) (code : W16) (w : Nat) (h : w ≠ a / 32) :
    mget 0 (s.vatRaw a d code).vatCode w = mget 0 s.vatCode w := by
  rw [State.vatRaw_vatCode]
  exact mget_mset_ne _ _ _ _ _ h _

end Sys2Proof.Machine
end

