-- ==== Sys2Proof/Laws/Work.lean ====
section
/-! SUPPORT. What a plate cycle with one activity does: the activity's own step, and a halt where it meets a hazard. -/

namespace Sys2Proof.Machine

open Sys2Proof

/-- One element is sorted. -/
@[simp] theorem sortBy_one {α : Type} (lt : α → α → Bool) (x : α) : sortBy lt [x] = [x] := rfl

/-- No clash, no fault. -/
theorem State.conflictFault_none {s : State} {p T : Nat} {l : List VAcc} (h : vatClash l = []) : s.conflictFault p T l = s := by
  unfold State.conflictFault
  rw [h]

/-- No hazards, no fault. -/
@[simp] theorem State.unitFault_nil (s : State) (p T : Nat) : s.unitFault p T [] = s := rfl
@[simp] theorem State.churnFault_nil (s : State) (p B : Nat) : s.churnFault p B [] = s := rfl

/-- One activity of a Press engine, a core or the plate DMA engine that meets no other access. -/
theorem State.partCycle_only {s : State} {p T : Nat} {a : Act} (h : s.onlyAct p T a) :
    s.partCycle p T =
      (let r := (s.without p T).actStep p T [] [] a
       if r.2.isEmpty then r.1 else (r.1.unitFault p T r.2).haltPart p wFAULT) := by
  obtain ⟨hc, ha, hv, hs⟩ := h
  have hw : ({ s with work := s.work.filter (fun e => !(e.t == T && e.p == p)) } : State) = s.without p T := rfl
  have hq : (s.without p T).heldQs p = s.heldQs p := rfl
  have hf : List.filter Act.isChurn [a] = [] := by simp [hc]
  have hg : List.filter (fun a => !a.isChurn) [a] = [a] := by simp [hc]
  unfold State.partCycle
  simp only [State.alone] at ha
  simp only [ha, hw, List.map_cons, List.map_nil, sortBy_one, hf, hg, State.churnSteps, State.actSteps, List.foldl_nil,
    List.foldl_cons, List.flatMap_cons, List.flatMap_nil, List.append_nil, hv, hs, hq, List.filterMap_nil, List.nil_append,
    State.conflictFault_none hv, State.churnFault_nil, List.isEmpty_nil, Bool.true_and, Bool.and_true]
  cases hr : ((s.without p T).actStep p T [] [] a).2 with
  | nil => simp
  | cons x t => simp

/-- One activity of a churn. -/
theorem State.partCycle_churn {s : State} {p T : Nat} {a : Act} (hc : a.isChurn = true) (ha : s.alone p T a) :
    s.partCycle p T =
      (let r := (s.without p T).churnStep p T a
       let hz := r.2 ++ r.1.stackHaz T [a] [] (s.heldQs p)
       if hz.isEmpty then r.1 else (r.1.churnFault p (bcAt T) hz).haltPart p wFAULT) := by
  have hw : ({ s with work := s.work.filter (fun e => !(e.t == T && e.p == p)) } : State) = s.without p T := rfl
  have hq : (s.without p T).heldQs p = s.heldQs p := rfl
  have hf : List.filter Act.isChurn [a] = [a] := by simp [hc]
  have hg : List.filter (fun a => !a.isChurn) [a] = [] := by simp [hc]
  unfold State.partCycle
  simp only [State.alone] at ha
  have hv : vatClash [] = [] := rfl
  simp only [ha, hw, List.map_cons, List.map_nil, sortBy_one, hf, hg, State.churnSteps, State.actSteps, List.foldl_nil,
    List.foldl_cons, List.flatMap_nil, hq, List.nil_append, State.conflictFault_none hv, State.unitFault_nil,
    hv, List.isEmpty_nil, Bool.true_and]
  cases hr : ((s.without p T).churnStep p T a).2 with
  | nil =>
    simp only [List.isEmpty_nil, Bool.true_and, List.nil_append]
    cases hs : ((s.without p T).churnStep p T a).1.stackHaz T [a] [] (s.heldQs p) with
    | nil => simp
    | cons x t => simp
  | cons x t => simp

end Sys2Proof.Machine
end

