-- ==== Sys2Proof/Tests/Slice0.lean ====
section
/-! SUPPORT. The package's own tests: a witness for the hypotheses of each statement, small results taken from the manual's words,
and ill-formed commands that the check refuses. -/

open Sys2Proof Sys2Proof.Machine

namespace Sys2Proof.Tests

-- the theorems below are checked one after another: each on a thread of its own would need too much memory at once
set_option Elab.async false

/-! ### Small states -/

/-- The state that an outcome leads to, the given one where it stops. -/
def after (o : Host.Outcome State Fault Refusal) (s : State) : State :=
  match o with
  | .next t => t
  | _ => s

/-- A booted part, AWAKE. -/
def up : State :=
  { State.reset with
    boot := { State.reset.boot with phase := .running }
    regs := mset (regReset (PWR_STATUS_state.addr 0)) [] (PWR_STATUS_state.addr 0) 2 }

/-- A plate with these descriptors. -/
def plate (descs : List (List W64)) : PlateImage := { bytes := [], readError := false, body := { (default : PlateBody) with descs := descs } }

/-- A plate with these descriptors and Press commands; every port has every slot of the first 64 run frames of a segment in
quarters 0 and 1. -/
def pressPlate (descs : List (List W64)) (cmds : List Words4) : PlateImage :=
  { plate descs with body := { (plate descs).body with press := cmds, slots := [0, 1].flatMap (fun q => ((upto 12) ++ [0x10, 0x20, 0x21]).map
    (fun port => ⟨0, 0, 64, 0, 56, q, 0, 256, port⟩)) } }

/-- One activity waits for plate cycle T. -/
def doing (T : Nat) (a : Act) (s : State) : State := { s with work := [⟨T, 0, a⟩] }

/-- A plate of partition 0 runs on quarters 0 and 1. -/
def runs (pl : PlateImage) : State :=
  { ((up.wr PART_STATUS_state 0 2).wr PART_STATUS_held 0 3) with parts := [(0, { (default : Part) with plate := some pl, bind := [0, 1] })] }

/-- A tensor of rank 2 in the Vat: format, base, extents, row stride. -/
def tens2 (fmt base n m stride : Nat) : List W64 :=
  [BitVec.ofNat 64 (2 + fmt * 2 ^ 8), BitVec.ofNat 64 base, 0, 0,
    BitVec.ofNat 64 n, BitVec.ofNat 64 (n + 2 ^ 26), BitVec.ofNat 64 (m + stride * 2 ^ 25), BitVec.ofNat 64 (m + 2 ^ 26)]

/-- A Press descriptor of engine 0, issued at pc 0. -/
def pressW (kind desc slot rowSlot rows acc cls cont kLen ncols : Nat) : Words4 :=
  ⟨BitVec.ofNat 64 kind, BitVec.ofNat 64 (desc + slot * 2 ^ 16 + rowSlot * 2 ^ 21 + rows * 2 ^ 34 + acc * 2 ^ 44 + cls * 2 ^ 53 + cont * 2 ^ 55),
    BitVec.ofNat 64 (kLen * 2 ^ 48), BitVec.ofNat 64 ncols⟩

/-- A churn command of half 0 at bank cycle 0: banks first, n, stride; pail, row; count, reg, acc, lane, fmt, cont, kLen. -/
def churnW (op ind first n stride pail row count reg acc lane fmt cont kLen : Nat) : Words4 :=
  ⟨BitVec.ofNat 64 (op + ind * 2 ^ 46), BitVec.ofNat 64 (first + n * 2 ^ 9 + stride * 2 ^ 19 + pail * 2 ^ 28 + row * 2 ^ 40),
    BitVec.ofNat 64 (count + reg * 2 ^ 10 + acc * 2 ^ 14 + lane * 2 ^ 16 + fmt * 2 ^ 20 + cont * 2 ^ 24 + kLen * 2 ^ 25), 0⟩

/-- Sixteen FP16 ones. -/
def ones16 : W256 := BitVec.ofNat 256 (leNat ((upto 16).flatMap (fun _ => [0x00, 0x3C])))

/-- A fault-free boot. -/
def cleanBoot : BootFindings := ⟨[], [], [], [], [], [], [], false, none, false, none⟩

/-! ### The queue, registers, waits -/

theorem test_step_front : (step { up with pending := [.disableDebug .core, .frameStart] } = exec (.disableDebug .core) { up with pending := [.frameStart] }) := rfl
theorem witness_IdleStepCountsTime : up.pending = [] ∧ up.aon.powered = true ∧ 0 ≤ (up.aon.frac : Int) + 1000000 + up.aon.slewPpm := by decide +kernel
theorem test_idle_dt : (after (step up) up).aon.dt = 1 := by decide +kernel
theorem witness_OperandsDecideTheStop : Instr.wf (.registerWrite .core 4 8 0) = false := by decide +kernel
theorem witness_UnsupportedAccessAnswered : regAccessOk 6 4 = false ∧ regAccessOk 8 2 = false ∧ up.reaches (.fn 0) = true := by decide +kernel

/-- A write that the statement on registers is about. -/
def plainWrite (off size : Nat) (v : W64) : Bool :=
  regAccessOk off size && up.writeOff .core off == some off && up.serves .core off && !needsRow off size v &&
    (match regFind (off / 8 * 8) with
      | some (r, i) => (r.mask (fun _ => true) &&& laneMask off size) != 0 && r.off != 0x90110 &&
          (up.regActs r.off i (up.actValue r (off / 8 * 8) (laneValue off size v) (laneMask off size))).isNone
      | none => false)
theorem witness_RegisterWriteByAccessCode : plainWrite 0x28 8 0x55 = true ∧ plainWrite 0x40020 4 7 = true ∧ plainWrite 0xA0034 4 7 = true ∧
    regAccessOk 2 4 = false := by decide +kernel
/-- A write of the half of INT_REPAIR_CMD that holds no op. -/
theorem witness_SplitCommand : splitCommand 0xA0028 = some 0 ∧ splitCommand 0x40010 = some 32 ∧ regAccessOk 0xA002C 4 = true ∧
    up.writeOff .core 0xA002C = some 0xA002C ∧ (regFind 0xA0028).isSome = true ∧ needsRow 0xA002C 4 7 = false ∧ up.serves .core 0xA002C = true := by
  decide +kernel

/-- R8, R6: a one clears a W1C bit of DEV_IRQ_CAUSE, a zero keeps it. -/
theorem test_w1c : (after (exec (.registerWrite .core (DEV_IRQ_CAUSE_cause.addr 0) 8 1) (up.wr DEV_IRQ_CAUSE_cause 0 3))
    up).rd DEV_IRQ_CAUSE_cause 0 = 2 := by decide +kernel
/-- R5: a 32-bit write of a half of INT_REPAIR_ARG keeps the other half, and reads see each half. -/
theorem test_halves : let s := after (exec (.registerWrite .core 0xA0034 4 0xFFFF00000007) (up.wr INT_REPAIR_ARG_arg 0 5)) up
    s.rd INT_REPAIR_ARG_arg 0 = 7 * 2 ^ 32 + 5 ∧ s.readAt 0xA0034 4 = 7 ∧ s.readAt 0xA0032 4 = 0xFFFFFFFFFFFFFFFF := by decide +kernel

/-- A plate that waits from run frame 0, for what the first release of the firmware ends; the part is in run frame 1. -/
def waits (k : WaitKind) (count : Nat) : State :=
  ((runs (plate [])).updPart 0 (fun x => { x with wait := some ⟨k, 0, 0, count⟩, releases := 1 })).wr PKG_RUN_FRAME_runFrame 0 1

theorem witness_WaitsAreReached : (runs (plate [])).running 0 = true := by decide +kernel
theorem witness_WaitsEnd : let s := waits .ring 0
    (s.part 0).wait = some ⟨.ring, 0, 0, 0⟩ ∧ s.started 0 = true ∧ 0 < s.runFrame ∧ s.stopDue 0 = none ∧
      s.waitTrue 0 ⟨.ring, 0, 0, 0⟩ = true ∧ s.waitTrue 0 ⟨.time 5, 0, 0, 0⟩ = false ∧ s.waitExpired 0 ⟨.time 5, 0, 0, 0⟩ = false ∧
      (s.updPart 0 (fun x => { x with stop := some (.stop, 0) }) |>.wr PKG_GRID_FRAME_gridFrame 0 1).stopDue 0 = some .stop := by decide +kernel
/-- R240: a wait on a send counter has no group. -/
theorem test_send_wait : let s := waits (.count (.sendCounter 3) false 5 1) 5
    s.winGroup 0 (.sendCounter 3) = none ∧ ((after (exec (.waitRelease 0) s) up).part 0).wait = none := by decide +kernel

/-- A plate whose window 5 of logical quarter 0 belongs to group 1, in a state, on whose count it waits since dt 0. -/
def grouped (st dt : Nat) : State :=
  { ((runs { plate [] with body := { (default : PlateBody) with
      windows := [⟨0, 5, [], 1, 0, false, some 1, []⟩], groups := [⟨1, 0, 2, [⟨0, 0, 1, none⟩], []⟩] } }).updPart 0
        (fun x => { x with wait := some ⟨.count (.window 0 5) false 64 100, 0, 0, 0⟩ })).wr PKG_RUN_FRAME_runFrame 0 1 with
    groups := NMap.set [] (groupKey 0 1) { state := st, members := 2, tag := 7, inTag := 7, links := [{ port := 0, peer := 1, fp := none }] }
    aon := { dt := dt } }

theorem witness_PeerTimeout : let w : Wait := ⟨.count (.window 0 5) false 64 100, 0, 0, 0⟩
    let s := grouped 2 100
    (s.part 0).wait = some w ∧ s.winGroup 0 (.window 0 5) = some 1 ∧ (s.group 0 1).state ≠ 3 ∧ s.waitTrue 0 w = false ∧ s.stopDue 0 = none ∧
      100 * s.slowF (s.group 0 1) ≤ 16 * (s.dt - 0) ∧ s.started 0 = true ∧ 0 < s.runFrame ∧ ((grouped 3 0).group 0 1).state = 3 ∧
      (grouped 2 99).waitExpired 0 w = false := by decide +kernel
/-- R255: a wait whose limit has run out halts its partition with TIMEOUT, and it is UNLOADING until its windows close. -/
theorem test_peer_timeout : let f (dt : Nat) := ((after (exec (.peerTimeout 0) (grouped 2 dt)) up).group 0 1).timeout
    (f 100, f 99) = (true, false) := by decide +kernel
/-- R240: with the group withdrawn the wait ends its partition. -/
theorem test_peer_withdrawn : let t := after (exec (.waitRelease 0) (grouped 3 0)) up
    t.pstate 0 ≠ 2 ∧ t.on PART_STATUS_halted 0 = true := by decide +kernel

/-- Break point 3 at frame f of segment 0, in run frame 0 and grid frame 1, with a stop asked for in frame 0. -/
def breaks (f : Nat) : State :=
  ((runs { plate [] with body := { (default : PlateBody) with breaks := [⟨3, 0, f, []⟩] } }).updPart 0
    (fun x => { x with stop := some (.stop, 0) })).wr PKG_GRID_FRAME_gridFrame 0 1
theorem witness_BreakPoint : (breaks 0).running 0 = true ∧
    ((breaks 0).part 0).plate.any (fun pl => pl.body.breaks.find? (fun b => b.num == 3) == some ⟨3, 0, 0, []⟩) = true ∧
    ((breaks 0).part 0).stop = some (.stop, 0) ∧ 0 < (breaks 0).gridFrame ∧ ((breaks 0).part 0).seg = 0 ∧
    (breaks 0).runFrame = ((breaks 0).part 0).segStart + 0 ∧ (breaks 1).runFrame ≠ ((breaks 1).part 0).segStart + 1 ∧
    ((runs (plate [])).part 0).stop = none := by decide +kernel
theorem test_break_point : (after (exec (.breakPoint 0 3) (breaks 0)) up).pstate 0 = 4 ∧ (after (exec (.breakPoint 0 3) (breaks 1)) up).pstate 0 = 2 := by
  decide +kernel

/-- A plate held at a post in run frame 0; the part is in run frame f. -/
def holdsPost (f : Nat) : State := ((runs (plate [])).updPart 0 (fun x => { x with heldPost := [(⟨0x25, 1, 0⟩, 0)] })).wr PKG_RUN_FRAME_runFrame 0 f
theorem witness_NoticesArePosted : let s := holdsPost 1
    (s.part 0).heldPost = [(⟨0x25, 1, 0⟩, 0)] ∧ (s.part 0).wait = none ∧ s.started 0 = true ∧ 0 < s.runFrame ∧ (s.part 0).notices.length < 256 ∧
      s.stopDue 0 = none ∧ (runs (plate [])).running 0 = true ∧
      (s.updPart 0 (fun x => { x with stop := some (.stop, 0) }) |>.wr PKG_GRID_FRAME_gridFrame 0 1).stopDue 0 = some .stop := by decide +kernel
/-- R28: a held post is made in a later run frame. -/
theorem test_held_post : let f (n : Nat) := ((after (exec (.noticePostResume 0) (holdsPost n)) up).part 0).notices.length
    (f 0, f 1) = (0, 1) := by decide +kernel
/-- A plate with a proof of one entry over one word of the Vat, its slot at 4096 + 20. -/
def proves : State :=
  (runs { plate [] with body := { (default : PlateBody) with proofs := [⟨4096 + 20, [tens2 0 0 8 1 32], false⟩] } }).vatPut 0 0x3F800000 false
theorem witness_PostProof : let u := proves.settle
    u.running 0 = true ∧ (u.part 0).plate.any (fun pl => (pl.body.proofs[bits 0 0 16]?).isSome) = true ∧ u.phys 0 ((4096 + 20) / 2 ^ 26) = some 0 ∧
      vatPopulated ((0 * 2 ^ 26 + 4116) / 32 * 32) = true ∧ vatPopulated ((0 * 2 ^ 26 + 4116) / 32 * 32 + 32) = true := by decide +kernel
theorem witness_StepCommit : (runs (plate [])).running 0 = true ∧ ((runs (plate [])).part 0).notices.length < 256 := by decide +kernel
/-- R193: the commit count is posted with code 0x20. -/
theorem test_step_commit : ((after (exec (.stepCommit 0) (runs (plate []))) up).part 0).notices = [⟨0x20, 1, 0⟩] := by decide +kernel

theorem witness_FrameStart : up.framesRun = true := by decide +kernel
theorem witness_MeasWindowEnd : let s := { up with aon := { dt := 100000 } }
    s.measOn = true ∧ s.measEnd ≤ s.dt := by decide +kernel
theorem witness_MeasCfg : up.serves (.fn 0) (PART_MEAS_CFG_window.addr 0) = true ∧ up.measOn = true := by decide +kernel
/-- R25: a frame counts in both frame counters. -/
theorem test_frame : (after (exec .frameStart up) up).rd PKG_GRID_FRAME_gridFrame 0 = 1 ∧
    (after (exec .frameStart up) up).rd PKG_RUN_FRAME_runFrame 0 = 1 := by decide +kernel

/-! ### Ill-formed commands -/

theorem wf_statLoad : Instr.wf (.statLoad 0 (pressW 2 0 0 0 0 0 2 0 0 2) []) = false := by decide +kernel
theorem wf_streamLoad : Instr.wf (.streamLoad 0 (pressW 1 0 0 0 1 0 2 0 0 0) []) = false := by decide +kernel
theorem wf_pass : Instr.wf (.pass 0 { pressW 3 0 0 0 1 0 0 0 32 0 with w3 := 0x400 }) = false := by decide +kernel
theorem wf_drain : Instr.wf (.drain 0 { pressW 4 0 0 0 1 0 0 0 0 1 with w2 := 0x400000000000000 } []) = false := by decide +kernel
theorem wf_fill : Instr.wf (.fill 0 (pressW 4 0 0 0 1 0 0 0 0 1) []) = false := by decide +kernel
theorem wf_xload : Instr.wf (.xload 0 (churnW 1 0 0 1 1 0 0 16 1 0 0 0 0 0)) = false := by decide +kernel
theorem wf_dot : Instr.wf (.dot 0 (churnW 2 0 0 1 1 0 0 1 0 0 0 0 0 16)) = false := by decide +kernel
theorem wf_accOut : Instr.wf (.accOut 0 (churnW 4 0 0 1 1 0 0 2 0 3 0 0 0 0)) = false := by decide +kernel
theorem wf_sumOut : Instr.wf (.sumOut 0 (churnW 5 0 511 2 1 0 0 0 0 0 0 0 0 0)) = false := by decide +kernel
theorem wf_score : Instr.wf (.score 0 (churnW 8 0 0 1 1 0 0 0 0 0 0 1 0 32)) = false := by decide +kernel
theorem wf_pmax : Instr.wf (.pmax 0 (churnW 9 0 0 1 1 0 0 0 0 3 0 0 0 0)) = false := by decide +kernel
theorem wf_pexp : Instr.wf (.pexp 0 (churnW 10 0 0 0 1 0 0 0 0 0 0 0 0 0)) = false := by decide +kernel
theorem wf_psum : Instr.wf (.psum 0 (churnW 11 0 0 257 1 0 0 0 0 0 0 0 0 0)) = false := by decide +kernel
theorem wf_wacc : Instr.wf (.wacc 0 (churnW 12 0 0 1 1 0 0 0 0 2 0 1 0 16)) = false := by decide +kernel
theorem wf_churn_op : Instr.wf (.dot 0 (churnW 8 0 0 1 1 0 0 1 0 0 0 1 0 64)) = false := by decide +kernel
theorem wf_ring : Instr.wf (.submit { (default : RingRead) with bytes := [0] }) = false := by decide +kernel
theorem wf_ringTick : Instr.wf (.ringTick [{ (default : RingRead) with bytes := [0] }] []) = false := by decide +kernel
theorem wf_codeword : Instr.wf (.codewordReceive 0 { (default : Codeword) with cells := List.replicate 9 default }) = false := by decide +kernel

/-! ### Arithmetic and Press -/

theorem witness_SumsRoundToNearest : (3 : Int) ≠ 0 := by decide
/-- R49: 2^24 + 1 is a tie and goes to the even 2^24; 3 · 2^-150 goes to 2 · 2^-149; 2^128 to an infinity; -1 · 2^-200 to -0. -/
theorem test_round : roundFp32 16777217 0 = 0x4B800000#32 ∧ roundFp32 3 (-150) = 2#32 ∧ roundFp32 1 128 = 0x7F800000#32 ∧
    roundFp32 (-1) (-200) = 0x80000000#32 := by decide +kernel
/-- R34, R44: the sum of two infinities of opposite signs is the canonical NaN; 1/3 by nearest. -/
theorem test_fp32 : fadd 0x7F800000#32 0xFF800000#32 = 0x7FC00000#32 ∧ fdiv 0x3F800000#32 0x40400000#32 = 0x3EAAAAAB#32 ∧
    fsqrt 0x40000000#32 = 0x3FB504F3#32 := by decide +kernel

abbrev dStat := pressW 1 0 3 0 0 0 2 0 0 2
abbrev dStream := pressW 2 0 0 5 2 0 2 0 0 0
abbrev dPass := pressW 3 0 3 5 2 7 0 0 2 0
abbrev dDrain := pressW 4 1 0 0 2 7 0 0 0 2
abbrev dFill := pressW 5 1 0 0 2 9 0 0 0 2

/-- FP16 ones in two rows of two, and an FP32 tensor behind them for results. -/
def pressUp : State :=
  ((runs (pressPlate [tens2 1 0 2 2 32, tens2 0 4096 2 2 32] [dStat, dStream, dPass, dDrain, dFill])).vatPut 0 0x3C003C00 false).vatPut
    32 0x3C003C00 false

theorem witness_PressCommands : pressUp.running 0 = true ∧ pressUp.plateT ≤ 0 ∧ (Instr.statLoad 0 dStat [0, 1]).wf = true ∧
    (Instr.streamLoad 0 dStream [0, 1]).wf = true ∧ (Instr.pass 0 dPass).wf = true ∧ (Instr.drain 0 dDrain [3, 4]).wf = true ∧
    (Instr.fill 0 dFill [3, 4]).wf = true ∧ [dStat, dStream, dPass, dDrain, dFill].all (fun d => pressUp.pressOk 0 d &&
      pressUp.takesOk 0 (pressUp.pressCtx 0 d) (if d == dPass then [] else [3, 4]) && (pressUp.pressCtx 0 d).t0 == 0) = true := by
  decide +kernel

/-- The hypotheses of the statements on one activity alone in its cycle. -/
def one (s : State) (T : Nat) (a : Act) : Bool :=
  !a.isChurn && (s.work.filter (fun e => e.t == T && e.p == 0)) == [⟨T, 0, a⟩] && (vatClash ((s.without 0 T).vatAccs 0 T a)).isEmpty &&
    ((s.without 0 T).stackHaz T [] ((s.without 0 T).stkAccs a) (s.heldQs 0)).isEmpty

/-- The tile's words 0 and 32 move in cycles 5 and 5, or 5 and 6; a pass from cycle 0 reads tile 3. -/
abbrev aStat := Act.load dStat [(0, 5), (32, 5)] []
abbrev aStat2 := Act.load dStat [(0, 5), (32, 6)] []
abbrev aStream := Act.load dStream [(0, 5), (32, 5)] []
def reading (s : State) : State := s.updPress 0 (fun e => { e with passes := [⟨0, 2, 3, 5, 7⟩] })

theorem witness_Loads : one (doing 5 aStat pressUp) 5 aStat = true ∧ one (doing 5 aStat2 pressUp) 5 aStat2 = true ∧
    one (doing 5 aStream pressUp) 5 aStream = true ∧ tileBusy (pressUp.press.get 0) 3 5 = false ∧
    tileBusy ((reading pressUp).press.get 0) 3 5 = true ∧ one (doing 5 aStat (reading pressUp)) 5 aStat = true ∧
    rowBusy (pressUp.press.get 0) 5 5 = false ∧ rowBusy (pressUp.press.get 0) 6 5 = false ∧
    rowNeeds (pressUp.pressCtx 0 dStream) 0 = [0] ∧ rowNeeds (pressUp.pressCtx 0 dStream) 1 = [32] := by decide +kernel

/-- Both buffers loaded, a frame later. -/
def loaded : State :=
  let s := after (exec (.statLoad 0 dStat [0, 1]) pressUp) pressUp
  let s := after (exec (.streamLoad 0 dStream [10, 11]) s) s
  s.runWork 12

/-- R119: the tile's first element is the tensor's, FP16 one, usable 4 cycles after its last word. -/
theorem test_statLoad : ((loaded.press.get 0).tiles.get 3).elems.get (512 + 1) = 0x3C00 ∧ ((loaded.press.get 0).tiles.get 3).usable = 5 := by
  decide +kernel
theorem test_streamLoad : ((loaded.press.get 0).rows.get 6).elems.get 1 = 0x3C00 ∧ ((loaded.press.get 0).rows.get 5).usable = 14 := by decide +kernel
/-- R123: a load into a tile that a pass reads stops the partition with cause 2. -/
theorem test_tile_in_use : let t := (doing 5 aStat (reading pressUp)).partCycle 0 5
    t.rd PRESS_FAULT_STATUS_cause 0 = 2 ∧ t.rd PRESS_FAULT_STATUS_pc 0 = 5 ∧ t.running 0 = false := by decide +kernel

theorem witness_PassAccumulates : let s := doing 20 (.pass dPass 0) loaded
    one s 20 (.pass dPass 0) = true ∧ one (doing 10 (.pass dPass 0) loaded) 10 (.pass dPass 0) = true ∧ (s.press.get 0).par = [] ∧
      passHazards (s.press.get 0) (s.pressCtx 0 dPass) 20 0 ((s.without 0 20).unfilled 0 0 20 7) = [] ∧
      passHazards (s.press.get 0) (s.pressCtx 0 dPass) 10 0 ((s.without 0 10).unfilled 0 0 10 7) = [3] ∧
      ((loaded.updPress 0 (fun e => { e with par := [512 * 7 + 3] })).press.get 0).par = [512 * 7 + 3] := by decide +kernel

/-- R115: two products of ones give 2, and CONTINUE adds them to the 1 held. -/
theorem test_pass : let tile := (loaded.press.get 0).tiles.get 3
    let row := (loaded.press.get 0).rows.get 6
    passElem tile row 1 2 false (0x3F800000#32, true) = (0x40000000#32, false) ∧
      passElem tile row 1 2 true (0x3F800000#32, true) = (0x40400000#32, true) := by decide +kernel

/-- Accumulators that hold 1.0 in two rows. -/
def acc1 : State :=
  { pressUp with press := NMap.set [] 0 { acc := [(512 * 7, (0x3F800000#32, false)), (512 * 8 + 1, (0x40000000#32, true))] } }
/-- A pass from cycle 0 into the rows from 7. -/
def adding (s : State) : State := s.updPress 0 (fun e => { e with passes := [⟨0, 2, 0, 0, 7⟩] })
abbrev aDrain := Act.drain dDrain 0 [4]
abbrev aFill := Act.fill dFill 0 0 [4]
abbrev aFill7 := Act.fill (pressW 5 1 0 0 2 7 0 0 0 2) 0 0 [4]

theorem witness_DrainsAndFills : one (doing 3 aDrain acc1) 3 aDrain = true ∧ one (doing 3 aFill acc1) 3 aFill = true ∧
    one (doing 3 aDrain (adding acc1)) 3 aDrain = true ∧ one (doing 3 aFill7 (adding acc1)) 3 aFill7 = true ∧
    accPending (acc1.press.get 0) 7 3 = false ∧ accPending ((adding acc1).press.get 0) 7 3 = true ∧ accPending ((adding acc1).press.get 0) 7 7 = true ∧
    (acc1.press.get 0).par = [] ∧ (acc1.drainWrites 0 (acc1.pressCtx 0 dDrain) 0).map (·.1) = [4096] := by decide +kernel
/-- R119, R124: the drained words hold the accumulators, and the poisoned row is counted. -/
theorem test_drain : let s := (after (exec (.drain 0 dDrain [3, 4]) acc1) up).runWork 5
    s.vatWord 4096 = 0x3F800000 ∧ (s.vatEcc 4128).poison = true ∧ s.rd PRESS_POISON_DRAINS_count 0 = 1 := by decide +kernel
/-- R119: a fill reads the element into the accumulator and zeroes columns outside the tensor. -/
theorem test_fill : let s := acc1.vatPut 4096 0x40A00000 false
    let e := ((after (exec (.fill 0 dFill [3, 4]) s) up).runWork 5).press.get 0
    e.at_ 9 0 = (0x40A00000#32, false) ∧ e.at_ 9 5 = (0#32, false) ∧ e.at_ 7 0 = (0x3F800000#32, false) := by decide +kernel

/-! ### Burin and churns -/

/-- A core of quarter 0 with code at offset 0. -/
def burinUp (ops : List KOp) : State :=
  { runs (pressPlate [tens2 0 0 8 1 32] []) with burin := NMap.set [] 2 { code := NMap.set [] 0 (some (.native ops)) } }

/-- 2 and 3 in lanes, their product. -/
abbrev mulOps : List KOp := [.sconst 1 2, .sconst 2 0x40400000, .splat 3 2, .fbin .mul 4 3 3, .halt]
abbrev aCall := Act.call 2 0 [tens2 0 0 8 1 32] [10] 60
/-- A core whose call ends with cycle 60. -/
def calling : State :=
  { burinUp mulOps with burin := NMap.set [] 2 { call := some ⟨.native mulOps, 3, [tens2 0 0 8 1 32], [10], 0, 4, 120, [], [], false, false, []⟩ } }

theorem witness_KernelCall : let s := burinUp mulOps
    s.coreOf 0 0 2 = 2 ∧ s.running 0 = true ∧ s.plateT ≤ 0 ∧ s.kernelOk 0 0 2 0 0 [0] 60 [] [10] = true ∧
      one (doing 0 aCall s) 0 aCall = true ∧ (s.burin.get 2).code.get 0 = some (.native mulOps) ∧
      one (doing 60 (.callEnd 2) calling) 60 (.callEnd 2) = true ∧ ((calling.burin.get 2).call.map (·.endT)) = some (2 * 60) ∧
      (s.burin.get 2).call = none ∧ one (doing 60 (.callEnd 2) s) 60 (.callEnd 2) = true ∧ calling.running 0 = true := by decide +kernel
/-- R44: 3 × 3 in every lane; the kernel has ended. -/
theorem test_kernel : let c := ((after (exec (.kernelCall 0 0 2 0 [0] ⟨0, 60⟩ [] [10]) (burinUp mulOps)) up).runWork 61).burin.get 2
    vLane c 4 31 = (0x41100000#32, false) ∧ c.call = none := by decide +kernel
/-- R127, R131: an overrun is recorded with cause 7. -/
theorem test_overrun : let s := doing 60 (.callEnd 2) calling
    (after (exec (.burinOverrun 0 0 2 60) s) s).rd PRESS_FAULT_STATUS_cause 0 = 7 := by decide +kernel

abbrev aCoreLoad := Act.coreLoad 2 5 0 0 0 [0] [] []
theorem witness_KernelLanesCompute : let s := (calling.vatPut 0 0x40A00000 false)
    31 < 32 ∧ (calling.burin.get 2).call.isSome = true ∧ one (doing 10 aCoreLoad s) 10 aCoreLoad = true ∧
      s.tAddr 0 (TDesc.ofWords (tens2 0 0 8 1 32)) 0 = 0 := by decide +kernel
/-- R125: the load's lane 0 is the tensor's element. -/
theorem test_core_load : let s := doing 10 aCoreLoad (calling.vatPut 0 0x40A00000 false)
    vLane ((s.partCycle 0 10).burin.get 2) 5 0 = (0x40A00000#32, false) := by decide +kernel

/-- A core with two stores to two banks. -/
def storing : State :=
  { runs (pressPlate [] []) with burin := NMap.set [] 0 { stores := [⟨64, 5, false⟩, ⟨96, 6, true⟩, ⟨128, 7, false⟩] } }
theorem witness_StoresDrain : storing.coreOf 0 0 0 = 0 ∧ storing.running 0 = true ∧ storing.plateT ≤ 10 ∧ (storing.phys 0 0).isSome = true ∧
    one (doing 10 (.coreDrain 0) storing) 10 (.coreDrain 0) = true ∧ (storing.burin.get 0).call = none ∧
    ((doing 10 (.coreDrain 0) storing).without 0 10).storesNow 0 0 10 = [⟨64, 5, false⟩, ⟨96, 6, true⟩] := by decide +kernel
/-- R128: the two oldest stores reach the Vat, the third waits. -/
theorem test_store_drain : let s := (after (exec (.burinStoreDrain 0 0 0 10) storing) up).runWork 11
    s.vatWord 64 = 5 ∧ (s.vatEcc 96).poison = true ∧ (s.burin.get 0).stores = [⟨128, 7, false⟩] := by decide +kernel

/-- Half 0 with words on the broadcast path, and lanes in the churns of banks 4 and 6. -/
def churnUp : State :=
  { runs (plate []) with
    seqs := NMap.set [] 0 { feed := [⟨ones16, false, 0, []⟩, ⟨0, true, 0, []⟩] }
    churn := NMap.set (NMap.set [] (churnKey 0 4) { a := [(0, (0x3F800000#32, false)), (1, (0x40000000#32, false))], cs := 77, rows := [(1, 2)] })
      (churnKey 0 6) { v := [(16, (0x3C00#16, false))] } }

/-- The hypotheses of the statements on a churn command's share of a cycle. -/
def oneChurn (s : State) (T : Nat) (a : Act) (half : Nat) (banks : List Nat) : Bool :=
  a.isChurn && (s.work.filter (fun e => e.t == T && e.p == 0)) == [⟨T, 0, a⟩] &&
    (s.heldQs 0).all (fun h => (activityHaz h ((s.seqAt h).streams (bcAt T) ++ (if h = half then banks else []))).isEmpty)
/-- A command of half 0 at bank cycle 0 meets no register in use. -/
def notBusy (s : State) (d : Words4) (bs : List Nat) : Bool := (busyHaz 0 (s.seqAt 0) bs (churnUses (ChurnCmd.ofWords d) bs.length) 0).isEmpty

abbrev dXload := churnW 1 0 4 2 2 0 0 2 3 0 0 0 0 0
abbrev dAccOut := churnW 4 0 4 2 2 0 0 2 0 0 0 0 0 0
abbrev dSumOut := churnW 5 0 4 2 2 0 0 0 0 0 0 0 0 0
theorem witness_ChurnTransfers : (churnUp.churnAtBc 0 dXload 0).half = 0 ∧ churnUp.churnSet (churnUp.churnAtBc 0 dXload 0) = [4, 6] ∧
    churnUp.running 0 = true ∧ churnUp.plateT ≤ 0 ∧ pcOfBc (churnUp.churnIssue 0 dXload) = 0 ∧
    (churnUp.phys 0 (ChurnCmd.ofWords dXload).lq).isSome = true ∧ (Instr.xload 0 dXload).wf = true ∧ (Instr.accOut 0 dAccOut).wf = true ∧
    (Instr.sumOut 0 dSumOut).wf = true ∧ [dXload, dAccOut, dSumOut].all (notBusy churnUp · [4, 6]) = true ∧
    oneChurn (doing 0 (.xload dXload 0) churnUp) 0 (.xload dXload 0) 0 [] = true ∧ (churnUp.seqAt 0).feed.length = 2 ∧
    oneChurn (doing 0 (.churn dAccOut) churnUp) 0 (.churn dAccOut) 0 [] = true ∧ oneChurn (doing 0 (.churn dSumOut) churnUp) 0 (.churn dSumOut) 0 [] = true ∧
    [4, 6].all (fun b => (churnUp.churnAt 0 b).par.isEmpty) = true ∧
    (((runs (plate [])).seqAt 0).feed.head?).isNone = true := by decide +kernel
/-- R140: XLOAD puts the broadcast word into every churn of its set, poison with it. -/
theorem test_xload : let s := (after (exec (.xload 0 dXload) churnUp) up).runWork 3
    churnReg (s.churnAt 0 6) 3 5 = (0x3C00#16, false) ∧ churnReg (s.churnAt 0 4) 4 0 = (0#16, true) ∧ (s.seqAt 0).feed = [] := by decide +kernel
/-- R150: SUM_OUT sends the check sum with its bank and clears it. -/
theorem test_sum_out : let s := (after (exec (.sumOut 0 dSumOut) churnUp) up).runWork 1
    (s.seqAt 0).up.map (·.data) = [BitVec.ofNat 256 (77 + 4 * 2 ^ 32), BitVec.ofNat 256 (6 * 2 ^ 32)] ∧ (s.churnAt 0 4).cs = 0 := by decide +kernel
theorem test_acc_out : (((after (exec (.accOut 0 (churnW 4 0 4 1 1 0 0 1 0 0 0 0 0 0)) churnUp) up).runWork 1).seqAt 0).up.map (·.data) =
    [BitVec.ofNat 256 (0x3F800000 + 0x40000000 * 2 ^ 32), 0] := by decide +kernel

abbrev dPmax := churnW 9 0 4 1 1 0 0 0 0 0 0 0 0 0
abbrev dPexp := churnW 10 0 4 1 1 0 0 0 0 0 0 0 0 0
abbrev dPsum := churnW 11 0 4 1 1 0 0 0 0 0 0 0 0 0
theorem witness_ChurnLaneCommands : churnUp.churnSet (churnUp.churnAtBc 0 dPmax 0) = [4] ∧
    (Instr.pmax 0 dPmax).wf = true ∧ (Instr.pexp 0 dPexp).wf = true ∧ (Instr.psum 0 dPsum).wf = true ∧
    [dPmax, dPexp, dPsum].all (fun d => notBusy churnUp d [4] && oneChurn (doing 0 (.churn d) churnUp) 0 (.churn d) 0 [] &&
      (churnUp.phys 0 (ChurnCmd.ofWords d).lq).isSome && pcOfBc (churnUp.churnIssue 0 d) == 0) = true := by decide +kernel
/-- R164: the maximum of the lanes is 2; the sum of the lanes is 3. -/
theorem test_pmax : churnLane (((after (exec (.pmax 0 dPmax) churnUp) up).runWork 1).churnAt 0 4) 16 = (0x40000000#32, false) := by decide +kernel
theorem test_psum : churnLane (((after (exec (.psum 0 dPsum) churnUp) up).runWork 1).churnAt 0 4) 17 = (0x40400000#32, false) := by decide +kernel
/-- R164: with a maximum of +0 and a factor of 0 every finite lane becomes 2^0. -/
theorem test_pexp : churnLane (((after (exec (.pexp 0 dPexp) churnUp) up).runWork 1).churnAt 0 4) 1 = (0x3F800000#32, false) := by decide +kernel

/-- An open region of FP16 rows: bank 4 of half 0, pail 0, ones in its first check row. -/
def openUp : State :=
  { churnUp with
    regions := NMap.set [] (regionKey 0 0) { kind := 2, rowLen := 64, sumRegion := 1 }
    churn := NMap.set [] (churnKey 0 4) { v := [(0, (0x3C00#16, false)), (1, (0x3C00#16, false))] } }
    |>.stkRaw (stkAddr 0 4 0 0) ones16 0

abbrev dDot := churnW 2 0 4 1 1 0 0 1 0 0 0 1 0 2
abbrev dScore := churnW 8 0 4 1 1 0 0 1 0 0 0 1 0 64
abbrev dWacc := churnW 12 0 4 1 1 0 0 1 0 0 0 1 0 16
theorem witness_StreamDirect : let c := ChurnCmd.ofWords dDot
    (Instr.dot 0 dDot).wf = true ∧ (Instr.score 0 dScore).wf = true ∧ (Instr.wacc 0 dWacc).wf = true ∧ openUp.running 0 = true ∧
      pcOfBc (openUp.churnIssue 0 dDot) = 0 ∧ (openUp.phys 0 c.lq).isSome = true ∧ c.indirect = false ∧ c.banks = [4] ∧ streamRows c = 1 ∧
      churnRow c.rowLen c.pail c.row 0 = (0, 0) ∧ openUp.openRow 0 4 0 c.rowLen = true ∧ churnUp.openRow 0 4 0 c.rowLen = false ∧
      0 < 512 / c.rowLen ∧ [dDot, dScore, dWacc].all (fun d => notBusy openUp d [4] &&
        oneChurn (doing 0 (.stream d 0 none) openUp) 0 (.stream d 0 none) 0 [4]) = true ∧
      oneChurn (doing 0 (.stream dDot 0 none) churnUp) 0 (.stream dDot 0 none) 0 [4] = true ∧ (openUp.churnAt 0 4).par = [] := by decide +kernel
/-- R150: the row streamed is covered by the check sum, which grows by the sum of its eight 32-bit ones words. -/
theorem test_dot : let s := (after (exec (.dot 0 dDot) openUp) up).runWork 1
    (s.churnAt 0 4).rows = [(0, 0)] ∧ (s.churnAt 0 4).cs = 0x3C003C00 * 8 % 2 ^ 32 := by decide +kernel

/-- An indirect command of class 4 with a queue entry that names the row, or none. -/
def queued (place : Option (Nat × Nat × Nat)) : State :=
  { openUp with seqs := NMap.set [] 0 { queue := [⟨0, false, place⟩] } }
abbrev dDotInd := churnW 2 1 4 0 0 0 0 1 0 0 0 1 0 2
theorem witness_StreamIndirect : let s := queued (some (4, 0, 0))
    let x := s.churnAtBc 0 dDotInd 0
    (Instr.dot 0 dDotInd).wf = true ∧ x.half = 0 ∧ x.c.indirect = true ∧ x.c.first = 4 ∧ (s.seqAt 0).queue = [⟨0, false, some (4, 0, 0)⟩] ∧
      s.entryPlace x ⟨0, false, some (4, 0, 0)⟩ = some (4, 0, 0) ∧ s.entryPlace x ⟨0, false, none⟩ = none ∧
      [none, some (4, 0, 0)].all (fun e => notBusy (queued e) dDotInd [4] && oneChurn (doing 0 (.stream dDotInd 0 none) (queued e)) 0
        (.stream dDotInd 0 none) 0 [4]) = true := by decide +kernel
/-- R144: an entry of -1 gives the class's churn +0. -/
theorem test_dot_none : churnLane (((after (exec (.dot 0 dDotInd) (queued none)) up).runWork 1).churnAt 0 4) 0 = (0#32, false) := by decide +kernel

/-! ### Plate DMA -/

/-- A half whose region 0 is sealed and region 2 open with rows of one word, and a word in the Vat and in each. -/
def dmaUp : State :=
  { (runs (pressPlate [] [])).vatPut 64 9 true with
    regions := NMap.set (NMap.set [] (regionKey 0 0) { kind := 1 }) (regionKey 0 2) { kind := 2, rowLen := 1, sumRegion := 3 } }
    |>.stkPut 0 7 false |>.stkPut (2 * 2 ^ 21) 8 false

abbrev rd1 : DmaSpec := { lq := 0, off := 0, vat := 128, words := 1, takes := [72], bcs := [3], skim := none }
abbrev aGet := Act.get 0 [(.vat 128 0x21, 72)] (some (0x10, true))
abbrev aPut := Act.put (.vat 128 0x21) 7 false
abbrev aTake := Act.take 64 [(.stk 32 false, 72)] none
theorem witness_Read : dmaUp.running 0 = true ∧ dmaUp.phys 0 0 = some 0 ∧ landLq rd1 = 0 ∧ dmaUp.readOk 0 rd1 = true ∧
    ((dmaUp.readWork 0 rd1).map (·.1)).all (fun t => decide (dmaUp.plateT ≤ t)) = true ∧
    one (doing 6 aGet dmaUp) 6 aGet = true ∧ one (doing 72 aPut dmaUp) 72 aPut = true ∧ one (doing 5 aTake dmaUp) 5 aTake = true := by decide +kernel
/-- R155: the word lands at the cycle of its slot, not before. -/
theorem test_read : let s := after (exec (.read 0 rd1) dmaUp) up
    (s.runWork 72).vatWord 128 = 0 ∧ (s.runWork 73).vatWord 128 = 7 := by decide +kernel
/-- R13: an uncorrectable link error is logged, and the word is delivered poisoned. -/
theorem test_link_error : let s := (after (exec (.read 0 { rd1 with errs := [⟨0, true, false⟩] }) dmaUp) up).runWork 73
    (s.vatEcc 128).poison = true ∧ s.rd INT_LOG_STATUS_tail 0 = 1 := by decide +kernel

/-- Two words that have come up the link, the second later. -/
def upWords : State := { dmaUp with seqs := NMap.set [] 0 { up := [⟨3, true, 0, []⟩, ⟨4, false, 90, []⟩] } }
abbrev aCollect := Act.collect 0 256 none
theorem witness_Collect : upWords.phys 0 0 = some 0 ∧ vatRangeOk 256 1 = true ∧ upWords.slotsOk 0 0 0x21 [(9, 256)] = true ∧
    one (doing 9 aCollect upWords) 9 aCollect = true ∧ (upWords.seqAt 0).up.length = 2 ∧
    (({ dmaUp with seqs := NMap.set [] 0 { up := [⟨4, false, 90, []⟩] } }).seqAt 0).up.head?.isSome = true := by decide +kernel
theorem test_collect : let t := (after (exec (.collect 0 0 1 256 ⟨[9], []⟩) upWords) up).runWork 10
    t.vatWord 256 = 3 ∧ (t.vatEcc 256).poison = true ∧ (t.seqAt 0).up = [⟨4, false, 90, []⟩] := by decide +kernel

abbrev wrSealed : DmaSpec := { lq := 0, off := 32, vat := 64, words := 1, takes := [5], bcs := [30], skim := none }
abbrev wrOpen : DmaSpec := { lq := 0, off := 2 * 2 ^ 21 + 32, vat := 64, words := 1, takes := [5], bcs := [30], sumBcs := [31], skim := none }
theorem witness_Write : dmaUp.writeOk 0 wrSealed = true ∧ dmaUp.writeOk 0 wrOpen = true ∧
    ((dmaUp.writeWork 0 wrOpen).map (·.1)) = [5, 68] ∧ dmaUp.plateT = 0 ∧
    [Act.put (.stk 32 false) 9 true, Act.put (.stk (2 * 2 ^ 21 + 32) true) 9 true, Act.put (.stk (2 * 2 ^ 21 + 32) false) 9 true,
      Act.put (.stk (5 * 2 ^ 21) false) 9 true, Act.sum 0 256 0 1].all (fun a => one (doing 66 a dmaUp) 66 a) = true ∧
    sealedKind (dmaUp.kindAt 32) = true ∧ dmaUp.kindAt (2 * 2 ^ 21 + 32) = 2 ∧ dmaUp.kindAt (5 * 2 ^ 21) = 0 ∧
    dmaUp.rowOfWord (2 * 2 ^ 21 + 32) = some (256, 0, 1) ∧ pailRegion 256 0 = 2 ∧ (dmaUp.region 0 2).rowOk = true := by decide +kernel
/-- A hop to the Vat of quarter 4, on another die. -/
def twoDies : State :=
  dmaUp.updPart 0 (fun x => { x with bind := [0, 4], plate := x.plate.map (fun i =>
    { i with body := { i.body with slots := ⟨0, 0, 64, 0, 56, 1, 0, 256, 0x30⟩ :: i.body.slots } }) })
abbrev wrHop : DmaSpec := { lq := 0, off := 128, vat := 64, words := 1, takes := [5], bcs := [21], hop := some 1, skim := none }
theorem witness_WriteHop : twoDies.writeOk 0 wrHop = true ∧ wrHop.hop.bind (twoDies.phys 0) = some 4 ∧
    ((twoDies.hopWork 0 wrHop).map (·.1)).all (fun t => decide (twoDies.plateT ≤ t)) = true := by decide +kernel
/-- R11: a word over the Press link lands 16 pc after it leaves, with its poison. -/
theorem test_write_hop : let s := (after (exec (.write 0 wrHop) twoDies) up).runWork 22
    s.vatWord (4 * 2 ^ 26 + 128) = 9 ∧ (s.vatEcc (4 * 2 ^ 26 + 128)).poison = true := by decide +kernel
/-- R148: a sealed word carries its check bits, poison with them. -/
theorem test_write_sealed : let s := (after (exec (.write 0 wrSealed) dmaUp) up).runWork 70
    s.stkWord 32 = 9 ∧ (s.stkEcc 32).poison = true := by decide +kernel
/-- R149: an open row carries none, and its row's sum is XORed with 1 for a poisoned word. -/
theorem test_write_open : let s := (after (exec (.write 0 wrOpen) dmaUp) up).runWork 70
    s.stkWord (2 * 2 ^ 21 + 32) = 9 ∧ s.stkCodeAt (2 * 2 ^ 21 + 32) = 0 ∧
      (s.sumEntry 0 (s.region 0 2) (stkBank (2 * 2 ^ 21 + 32)) 1).1 = 8 := by decide +kernel

abbrev mv : FillMove := ⟨0, 2 * 2 ^ 21 + 64, 2, 56⟩
abbrev fill1 : FillSpec := { base := 0, moves := [mv], sumBcs := [57] }
theorem witness_FillOpen : dmaUp.fillOpenOk 0 0 fill1 = true ∧ ((dmaUp.fillOpenWork 0 0 fill1).map (·.1)).all (fun t => decide (dmaUp.plateT ≤ t)) = true ∧
    dmaUp.kindAt mv.dst = 2 ∧ [Act.put (.opened mv.dst) 7 false, Act.put (.opened 32) 7 false, Act.curd 0 1 0 [(0, .opened mv.dst, 120)]].all
      (fun a => one (doing 100 a dmaUp) 100 a) = true ∧ dmaUp.kindAt 32 ≠ 2 := by decide +kernel
theorem test_fillOpen : ((after (exec (.fillOpen 0 0 fill1.base fill1.moves fill1.toFillCycles) dmaUp) up).runWork 130).stkWord mv.dst = 7 := by decide +kernel

theorem witness_Feed : dmaUp.feedOk 0 0 (.words [some 64, none]) [4, 5] = true ∧ one (doing 4 (.feed 0 (some 64) none) dmaUp) 4 (.feed 0 (some 64) none) = true := by
  decide +kernel
theorem test_feed : (((after (exec (.feed 0 0 (.words [some 64, none]) ⟨[4, 5], []⟩) dmaUp) up).runWork 6).seqAt 0).feed.map
    (fun w => (w.data, w.poison, w.at_)) = [(9, true, 26), (0, false, 26)] := by
  decide +kernel

/-- A serving plate with one pool of 64 channels, keys in region 8 and values in region 9, BF16; its areas from 1 MiB of Vat
quarter 0 on, the tree in region 12. -/
def serveSpec : ServingSpec :=
  ⟨4, 8, 2, 4, 2, 2, 64, 2, [⟨0, 0, 0, 8, 9, 10 * 2 ^ 21⟩], (0, 1, 0), 2 ^ 20, 2 ^ 20 + 64, 2 ^ 20 + 128, 2 ^ 21, 2 ^ 20 + 65536, 12 * 2 ^ 21, 13 * 2 ^ 21,
    [(14 * 2 ^ 21, 4096)]⟩
/-- A query tensor [D, heads, rows] of FP16 at 2048, whose row is two words, and a work-list entry at 512: page 3, row 1. -/
def queryDesc : List W64 := [BitVec.ofNat 64 (3 + 1 * 2 ^ 8), 2048, 0, 0, 32, 32 + 2 ^ 26, BitVec.ofNat 64 (1 + 64 * 2 ^ 25), 1 + 2 ^ 26, BitVec.ofNat 64 (2 + 64 * 2 ^ 25), 2 + 2 ^ 26]
def serves0 : State :=
  { (runs { pressPlate [queryDesc] [] with body := { (pressPlate [queryDesc] []).body with serving := some serveSpec } }) with
    regions := NMap.set (NMap.set (NMap.set [] (regionKey 0 10) { kind := 1 }) (regionKey 0 12) { kind := 1 }) (regionKey 0 13) { kind := 1 } }
    |>.vatPut 512 (BitVec.ofNat 256 (3 + 1 * 2 ^ 32)) false |>.vatPut 544 (BitVec.ofNat 256 (2 ^ 32 - 1)) false |>.vatPut 2112 0x77 false

theorem witness_Query : serves0.feedOk 0 0 (.query 512 0 0) [4, 6, 7] = true ∧ 2 = (serves0.plateDesc 0 0).rowBytes / 32 ∧
    (let s := serves0.takeInStep 512
     one (doing 6 (.feedRow 0 512 0 0 0 none) s) 6 (.feedRow 0 512 0 0 0 none) = true ∧
      (entryOf (fun w => (s.seqAt 0).taken.word (0, true) w) 512).page = 3 ∧ (entryOf (fun w => (s.seqAt 0).taken.word (0, true) w) 512).row = 1 ∧
      (entryOf (fun w => (s.seqAt 0).taken.word (0, true) w) 512).bad = false) ∧
    (entryOf (fun w => ((serves0.takeInStep 544).seqAt 0).taken.word (0, true) w) 544).page = -1 ∧
    (entryOf (fun w => (serves0.seqAt 0).taken.word (0, true) w) 512).bad = true := by decide +kernel
/-- R171: the query words are those of the row that the entry names. -/
theorem test_query : (((after (exec (.feed 0 0 (.query 512 0 0) ⟨[4, 6, 7], []⟩) serves0) up).runWork 8).seqAt 0).feed.map (·.data) = [0x77, 0] := by
  decide +kernel

theorem witness_Queue : serves0.running 0 = true ∧ serves0.serving 0 = some serveSpec ∧ serves0.queueOk 0 0 4 512 = true ∧
    (serveSpec.pools[0]?).isSome = true ∧ one (doing 4 (.queue 0 0 512) serves0) 4 (.queue 0 0 512) = true := by decide +kernel
theorem test_queue : (((after (exec (.queue 0 0 4 544) serves0) up).runWork 5).seqAt 0).queue.map (·.place) = [none, none] ∧
    (((after (exec (.queue 0 0 4 512) serves0) up).runWork 5).seqAt 0).queue.length = 2 := by decide +kernel

/-- A SUM_OUT word of 5 delivered at 96 that covers check row 0 of bank 256, pail 0; its table word. -/
def summed (v : Nat) : State :=
  { dmaUp.vatPut 96 (BitVec.ofNat 256 (v + 256 * 2 ^ 32)) false with seqs := NMap.set [] 0 { delivered := NMap.set [] 96 [(0, 0)] } }
abbrev chk : CheckCycles := ⟨[1], [2], [80]⟩
def taken (v : Nat) : State := ((summed v).takeInStep 96).tableStep 0 [96] 0
theorem witness_RowSums : (summed 0).rsOk 0 0 96 1 64 1 chk = true ∧ ((summed 0).rsWork 0 0 96 1 64 1 chk).all (fun e => decide ((summed 0).plateT ≤ e.1)) = true ∧
    one (doing 1 (.takeIn 96) (summed 0)) 1 (.takeIn 96) = true ∧
    ((summed 0).takeInStep 96).tableWords 0 [96] = [3 * 2 ^ 21] ∧
    one (doing 4 (.table 0 [96] 0) ((summed 0).takeInStep 96)) 4 (.table 0 [96] 0) = true ∧
    (taken 0).sumAgrees 0 96 = true ∧ (taken 5).sumAgrees 0 96 = false ∧
    [taken 0, taken 5].all (fun s => one (doing 70 (.rsEnd 0 [96] [(64, 80)]) s) 70 (.rsEnd 0 [96] [(64, 80)])) = true ∧
    one (doing 80 (.mark 64 true) dmaUp) 80 (.mark 64 true) = true := by decide +kernel
/-- R150, R151: a check sum of 5 against a recorded sum of 0 poisons the result. -/
theorem test_rscheck : let t := (after (exec (.rscheck 0 0 96 1 ⟨64, 1⟩ chk) (summed 5)) up).runWork 81
    (t.vatEcc 64).poison = true ∧ t.rd STK_ROWSUM_STATUS_valid 0 = 1 := by decide +kernel

/-- A request in slot 3 whose row appends. -/
def appends : State :=
  { (serves0.updPart 0 (fun x => { x with append := [(⟨3, 0, 0, 0⟩, true)] })) with
    reqs := NMap.set [] 3 { st := .decode, part := 0, prompt := [5], gen := [6], pages := [some 0] } }
abbrev kv1 : AppendRow := ⟨3, [(upto 8).map (fun i => ⟨BitVec.ofNat 256 (i + 1), false⟩)]⟩
theorem witness_AppendStep : appends.running 0 = true ∧ appends.appendOk 0 [kv1] [4, 5, 6, 7, 8, 9, 10, 11] = true ∧ appends.serving 0 = some serveSpec := by
  decide +kernel
/-- R174, R175: the record's second word stands in the tail of slot 3. -/
theorem test_append : let s := after (exec (.appendStep 0 ⟨[kv1], [4, 5, 6, 7, 8, 9, 10, 11]⟩) appends) up
    (s.reqs.get 3).len = 1 ∧ (s.part 0).append = [] ∧ (s.runWork 24).stkWord (10 * 2 ^ 21 + 3 * 16 * 256 + 32) = 2 := by decide +kernel

/-! ### Notices, requests and rings -/

/-- A running partition with two notices. -/
def noticed (n : Notice) (s : State) : State := s.updPart 0 (fun x => { x with notices := [n, ⟨0x24, 0, 0⟩] })

theorem witness_NoticesAreTaken : let s := noticed ⟨0x24, 0, 0⟩ (runs (plate []))
    (s.part 0).notices = ⟨0x24, 0, 0⟩ :: [⟨0x24, 0, 0⟩] ∧ (s.part 0).notices.head?.map (·.kind) = some 0x24 ∧
      ((runs (plate [])).part 0).notices.head?.map (·.kind) = none := by decide +kernel
theorem test_proof : ((after (exec (.proof 0) (noticed ⟨0x24, 0, 0⟩ (runs (plate [])))) up).part 0).notices = [⟨0x24, 0, 0⟩] := by decide +kernel
theorem test_reserved_notice : ((after (exec (.reservedNotice 0) (noticed ⟨0x30, 0, 0⟩ (runs (plate [])))) up).part 0).notices = [⟨0x24, 0, 0⟩] := by
  decide +kernel

/-- A plate with a send of one word on logical die 0 and one whose port is on logical die 1, in group 1; frame 1. -/
def sends : State :=
  let pl : PlateImage := { plate [] with body := { (default : PlateBody) with
    sends := [⟨0, 0, tens2 0 64 8 1 32, 1, 0, 5, 3, 2, some 1, 0⟩, ⟨1, 0, tens2 0 64 8 1 32, 1, 0, 5, 3, 2, some 1, 0⟩]
    windows := [⟨0, 5, [], 1, 0, false, some 1, [0]⟩] } }
  { ((runs pl).vatPut 64 9 false).wr PKG_GRID_FRAME_gridFrame 0 1 with
    groups := NMap.set [] (groupKey 0 1) { state := 2, members := 2, links := [{ port := 0, peer := 1, fp := none }] } }
theorem witness_Send : let s := noticed ⟨0x22, 0, 0⟩ sends
    (s.part 0).notices = ⟨0x22, 0, 0⟩ :: [⟨0x24, 0, 0⟩] ∧ (s.settle.part 0).notices = ⟨0x22, 0, 0⟩ :: [⟨0x24, 0, 0⟩] ∧ s.gridFrame = 1 ∧
      s.edgeOpen 1 = true ∧ ({ s with slotCfg := 0 } : State).edgeOpen 1 = false ∧
      (s.settle.part 0).plate.any (fun pl => (pl.body.sends.map (s.settle.sendDieOk 0)) == [true, false]) = true := by decide +kernel
/-- R228: one cell, at the entry's offset, with the word and its valid mask; not in the frame of the post (R242). -/
theorem test_send : ((after (exec (.send 0) (noticed ⟨0x22, 0, 0⟩ sends)) up).sendings.map (fun x => x.cells.map (fun c => (c.offset, c.mask, c.w0)))) =
    [[(3, 1, 9)]] ∧ (after (exec (.send 0) (noticed ⟨0x22, 0, 1⟩ sends)) up).sendings = [] := by decide +kernel
abbrev grantN : Notice := ⟨0x23, 5 * 16 + 7 * 2 ^ 32, 0⟩
theorem witness_Grant : let s := noticed grantN sends
    s.feedsOf 0 0 5 = some (1, [0]) ∧ (s.group 0 1).state = 2 ∧ bits (5 * 16 + 7 * 2 ^ 32) 4 5 = 5 ∧
      ((s.updGroup 0 1 (fun x => { x with state := 1 })).group 0 1).state = 1 ∧ ((s.updGroup 0 1 (fun x => { x with state := 3 })).group 0 1).state = 3 := by
  decide +kernel
theorem test_grant_held : let s := (noticed grantN sends).updGroup 0 1 (fun x => { x with state := 1 })
    ((after (exec (.grant 0) s) up).group 0 1).heldGrants = [(0, 5, 7)] := by decide +kernel

/-- A request record: id, flags, max_new_tokens, prompt length. -/
def recOf (id flags maxNew len : Nat) : List Byte :=
  leBytes 4 id ++ leBytes 4 flags ++ leBytes 24 0 ++ leBytes 4 9 ++ leBytes 4 maxNew ++ leBytes 4 len ++ leBytes 4 0 ++
    leBytes 4 0 ++ leBytes 4 0x3F800000 ++ leBytes 4 0x3F800000 ++ leBytes 12 0 ++ leBytes 8 0 ++ leBytes 32 (2 ^ 256 - 1) ++ leBytes 16 0

/-- A sharing request in slot 3 whose two pages are full, on pages 6 and 7, and the notice of page j. -/
def flushes (j : Nat) : State :=
  noticed ⟨0x21, 3 + j * 2 ^ 16, 0⟩ { serves0 with
    reqs := NMap.set [] 3 { st := .decode, rec_ := recOf 5 1 4 32, prompt := List.replicate 32 2, len := 32, pages := [some 6, some 7] }
    pools := NMap.set [] 0 { counts := [(6, 1), (7, 1)] } }
/-- The same with a node of page 0's content on page 9. -/
def flushesNode (j : Nat) : State :=
  let ts := List.replicate 16 2
  let s := flushes j
  { s with pools := NMap.set [] 0 { counts := [(6, 1), (7, 1), (9, 1)], nodes := NMap.set [] 0 ⟨keyOf (rqDomain (s.req 3).rec_) (s.req 3).tokens 0, rqDomain (s.req 3).rec_, none, 9, 0, ts, 0, true⟩ } }
theorem witness_PageFlush : let u := (flushes 0).managed 0
    (u.part 0).notices = ⟨0x21, 3, 0⟩ :: [⟨0x24, 0, 0⟩] ∧ bits 3 0 10 = 3 ∧ bits 3 16 14 = 0 ∧ (u.req 3).pageAt 0 = some 6 ∧
      rqShare (u.req 3).rec_ = true ∧ (u.pool 0).nodes = [] := by decide +kernel
/-- Page 1's notice, page 0 on no node's page, or on the node's. -/
theorem witness_PageFlushLater : let u := (flushes 1).managed 0
    let s := flushes 1
    let w := ({ s with pools := NMap.set [] 0 { nodes := NMap.set [] 0 ⟨77, 0, none, 6, 0, [], 0, true⟩ } } : State).managed 0
    bits (3 + 2 ^ 16) 16 14 = 1 ∧ (u.req 3).pageAt 1 = some 7 ∧ (u.pool 0).valid = [] ∧ (w.req 3).pageAt 0 = some 6 ∧
      ((w.pool 0).valid.find? (fun e => e.2.page == 6)).map (·.1) = some 0 := by decide +kernel
theorem witness_PageFlushAlone : let s := (flushes 0).updReq 3 (fun r => { r with rec_ := recOf 5 0 4 32 })
    rqShare ((s.managed 0).req 3).rec_ = false ∧ ((s.managed 0).req 3).pageAt 0 = some 6 := by decide +kernel
/-- R181: the tree has a node of that content, and the request takes its page. -/
theorem test_page_flush : let u := (flushesNode 0).managed 0
    let t := after (exec (.pageFlush 0) (flushesNode 0)) up
    ((u.pool 0).find (keyOf (rqDomain (u.req 3).rec_) (u.req 3).tokens 0) (rqDomain (u.req 3).rec_) none (pageTokens (u.req 3).tokens 0)).map
      (·.2.page) = some 9 ∧ (t.req 3).pages = [some 9, some 7] ∧ (t.pool 0).counts.get 9 = 2 ∧ (t.pool 0).counts.get 6 = 0 := by decide +kernel

/-- A request that decodes, with token 4 as the candidate of its row in the Vat. -/
def commits : State :=
  let s := noticed ⟨0x20, 1, 0⟩ ({ serves0 with reqs := NMap.set [] 3 { st := .decode, vf := 2, rec_ := recOf 5 0 2 1, prompt := [8], gen := [6], len := 1 } }.updPart 0
    (fun x => { x with commits := 1, rows := [⟨3, 1, 0, 0⟩], lastRows := [⟨3, 1, 0, 0⟩] }))
  s.vatPut (2 ^ 20 + 65536) 4 false
theorem witness_Commit : let u := commits.managed 0
    (u.part 0).notices = ⟨0x20, 1, 0⟩ :: [⟨0x24, 0, 0⟩] ∧ u.on HIF_CQ_CFG_enable 2 = false ∧ (u.part 0).rerun = none ∧
    (u.verdicts 0).map (fun v => (v.1, v.2.req.st)) = [(3, .retired)] := by decide +kernel
theorem witness_CommitGoesOn : let u := (commits.updReq 3 (fun r => { r with rec_ := recOf 5 0 9 1 })).managed 0
    (u.verdicts 0).map (fun v => (v.1, v.2.req.st, v.2.append)) = [(3, .decode, true)] := by decide +kernel
/-- R206: the max_new_tokens-th token completes the request with MAX_TOKENS. -/
theorem test_commit_complete : (commits.verdicts 0).map (fun v => v.2.entry.map (fun e => (e.status, e.detail, e.token))) = [some (1, 2, some 4)] := by
  decide +kernel
/-- R193: a candidate with a poisoned word is poisoned: the request is held. -/
theorem test_commit_poison : let s := (commits.updReq 3 (fun r => { r with rec_ := recOf 5 0x30000 9 1 })).vatPut (2 ^ 20 + 65536 + 64) 0 true
    (s.candidate 0 3).poison = true := by decide +kernel

theorem witness_KvVerify : let u := (commits.updPart 0 (fun x => { x with kvDirty := true })).managed 0
    u.serving 0 = some serveSpec ∧ mwf default u.reqs = true ∧ (u.part 0).kvDirty = true ∧ u.stepPages 0 = [] ∧ u.tailBad 0 serveSpec 3 = false := by
  decide +kernel
theorem witness_KvVerifyHeld : let u := (commits.updReq 3 (fun r => { r with heldFor := [faultTail] })).managed 0
    3 ∈ u.verifySlots 0 ∧ (u.req 3).heldFor ≠ [] := by decide +kernel
/-- R186: after the verify nothing is held for the tails. -/
theorem test_kv_verify : ((after (exec (.kvVerify 0) (commits.updReq 3 (fun r => { r with heldFor := [faultTail] }))) up).req 3).heldFor = [] := by
  decide +kernel
theorem witness_Fork : let u := commits.managed 0
    (u.req 3).live = true ∧ (u.req 3).part = 0 ∧ (u.req 4).st = .free ∧ (u.part 0).append = [] ∧ reservedAt (u.req 3) = [] := by decide +kernel
set_option maxRecDepth 20000 in
theorem test_fork : ((after (exec (.fork 0 3 4) { commits with pools := NMap.set [] 0 { counts := [(6, 1)] } }) up).req 4).gen = [6] := by decide +kernel

/-- A part whose function 0 has ring 1 of 16 entries, phase 1 expected, with its partition running. -/
def ringUp : State :=
  { ((serves0.wr HIF_RQ_CFG_enable 1 1).wr HIF_RQ_CFG_sizeLog2 1 4) with rings := NMap.set [] 1 ⟨15, true, 2⟩ }
/-- An entry of a kind with a body. -/
def ringEntry (kind : Nat) (body : List Byte) : RingRead :=
  ⟨0, 1, ([1, BitVec.ofNat 8 kind] ++ leBytes 30 0 ++ body ++ leBytes (160 - body.length) 0), [8], 0⟩

theorem witness_Nop : ringReadOk (ringEntry 0 []) = true ∧ ringUp.takes 0 1 (ringEntry 0 []).bytes = true ∧
    entryReserved (ringEntry 0 []).bytes = false ∧ entryKind (ringEntry 0 []).bytes = 0 := by decide +kernel
/-- R292: the last entry of the ring moves the head to 0 and the phase over. -/
theorem test_nop : (after (exec (.nop (ringEntry 0 [])) ringUp) up).rings.get 1 = ⟨0, false, 3⟩ := by decide +kernel
theorem witness_Dma : ringReadOk (ringEntry 3 []) = true ∧ ringUp.takes 0 1 (ringEntry 3 []).bytes = true ∧ entryReserved (ringEntry 3 []).bytes = false ∧
    entryKind (ringEntry 3 []).bytes = 3 := by decide +kernel
theorem test_dma_entry : ((after (exec (.dma (ringEntry 3 [])) ringUp) up).dmaQ.get 1).length = 1 := by decide +kernel
theorem witness_Cancel : let u := ({ ringUp with reqs := NMap.set [] 3 { st := .decode, vf := 0, rec_ := recOf 5 0 2 1 } }).managed (ringUp.bound.get 0)
    let r := ringEntry 2 (leBytes 4 5)
    ringReadOk r = true ∧ u.takes 0 1 r.bytes = true ∧ entryReserved r.bytes = false ∧ entryKind r.bytes = 2 ∧ leAt (entryBody r.bytes) 0 4 = 5 ∧
      u.findReq 0 5 = some 3 ∧ (u.req 3).st ≠ .shipping ∧ u.findReq 0 6 = none ∧ u.on HIF_CQ_CFG_enable 0 = false := by decide +kernel
theorem test_cancel : let s := { ringUp with reqs := NMap.set [] 3 { st := .decode, vf := 0, rec_ := recOf 5 0 2 1 }, aon := { dt := 44 } }
    ((after (exec (.cancel (ringEntry 2 (leBytes 4 5))) s) up).req 3).cancel = some 44 := by decide +kernel
theorem witness_Submit : let r := ringEntry 1 (recOf 5 0 2 1)
    let u := ringUp.managed (ringUp.bound.get 0)
    ringReadOk r = true ∧ u.takes 0 1 r.bytes = true ∧ entryReserved r.bytes = false ∧ entryKind r.bytes = 1 ∧
      u.submitCause 0 (u.bound.get 0) (entryBody r.bytes) = 0 ∧ slots.find? (fun k => (u.req k).st == .free) = some 0 := by decide +kernel
theorem witness_SubmitRefused : let r := ringEntry 1 (recOf 5 0 0 1)
    let u := ringUp.managed (ringUp.bound.get 0)
    ringReadOk r = true ∧ entryKind r.bytes = 1 ∧ u.submitCause 0 (u.bound.get 0) (entryBody r.bytes) = 3 ∧
      u.on HIF_CQ_CFG_enable 0 = false := by decide +kernel
theorem test_submit : ((after (exec (.submit (ringEntry 1 (recOf 5 0 2 1))) ringUp) up).req 0).prompt = [8] := by decide +kernel

theorem witness_RingTick : up.scans = true ∧ State.reset.scans = false ∧ [ringEntry 0 []].all ringReadOk = true := by decide +kernel
theorem witness_RingTickHead : let u := (up.wr HIF_CQ_HEAD_addr 0 64).settle.each (upto 16) State.checkTree
    (up.wr HIF_CQ_HEAD_addr 0 64).scans = true ∧ u.rd HIF_CQ_HEAD_addr 0 ≠ 0 := by decide +kernel
set_option maxRecDepth 20000 in
theorem test_ring_tick : (after (exec (.ringTick [ringEntry 0 []] [(0, 5)]) (ringUp.wr HIF_CQ_HEAD_addr 0 64)) up).rings.get 1 = ⟨0, false, 3⟩ := by
  decide +kernel

/-! ### Cells, groups and shipments -/

/-- A part whose port 1 is in a state of R224. -/
def portAt (st : Nat) : State := up.wr LRT_PORT_STATUS_state 1 st
/-- A NOTICE cell of a kind, of tag 5 and epoch 2: origin, sequence, the kind's fields, word 1. -/
def noticeC (kind origin seq fields w1 : Nat) : LCell := ctlCell 2 kind (noticeWord 5 2 origin seq fields) w1
/-- A WRITE cell of both words to window 130, at an offset. -/
def writeC (off : Nat) : LCell := ⟨1, 3, 130, 0, off, 0, 0, 9, 8, eccCode 9 false, eccCode 8 true⟩

/-- An encrypted port that has sealed so many codewords. -/
def sealing (n : Nat) : State := ((portAt 6).wr LRT_PORT_STATUS_encrypted 1 1).updPort 1 (fun x => { x with keys := some (7, 8), cwCount := n })
theorem witness_CodewordIsSealed : codewords ((sealing 5).portState 1) = true ∧ (sealing 5).on LRT_PORT_STATUS_encrypted 1 = true ∧
    ((sealing 5).port 1).keys = some (7, 8) ∧ ((sealing 5).port 1).cwCount < 2 ^ 40 ∧ 2 ^ 40 ≤ ((sealing (2 ^ 40)).port 1).cwCount := by decide +kernel
theorem witness_CodewordIsSent : codewords (up.portState 1) = false ∧ codewords ((portAt 6).portState 1) = true ∧
    (portAt 6).on LRT_PORT_STATUS_encrypted 1 = false ∧ ((portAt 6).egress 1 (noticeC 2 0 1 0 0)).nextQueued 1 = some (0, noticeC 2 0 1 0 0) ∧
    ((portAt 6).egress 1 (noticeC 2 0 1 0 0)).port 1 = { (default : Port) with egress := [noticeC 2 0 1 0 0] } := by decide +kernel
theorem witness_CodewordIsSentAgain : let s := (portAt 6).updPort 1 (fun x => { x with resend := [writeC 0] })
    (s.port 1).resend = writeC 0 :: [] ∧ codewords (s.portState 1) = true := by decide +kernel
/-- R221: a sequenced cell takes the port's sequence, and stays in the replay buffer. -/
theorem test_codeword_sent :
    ((after (exec (.codewordTransmit 1) (((portAt 6).updPort 1 (fun x => { x with txSeq := 65535 })).egress 1 (noticeC 2 0 1 0 0))) up).port 1).txSeq = 0 := by
  decide +kernel

/-- A codeword of these cells. -/
def cw (cells : List LCell) : Codeword := ⟨false, [], cells, ⟨0, 0⟩, true⟩
theorem witness_CodewordIsReceived : let w := cw [sequenced (writeC 0) 0]
    w.cells.length ≤ 8 ∧ up.portState 1 ≤ 1 ∧ 2 ≤ (portAt 6).portState 1 ∧ w.bad = false ∧ w.tag.kind = 0 ∧
      w.cells.all (fun x => x.typ == 6 || x.hcrc == cellCrc x) = true ∧ (portAt 6).on LRT_PORT_STATUS_encrypted 1 = false ∧
      (sequenced (writeC 0) 0).typ = 1 ∧ (sequenced (writeC 0) 0).seq = ((portAt 6).port 1).rxSeq ∧
      (((portAt 6).port 1).ingress.filter (fun e => !ctlType e)).length < 8192 := by decide +kernel
theorem witness_CodewordIsDiscarded : let c := { sequenced (writeC 0) 0 with hcrc := cellCrc (sequenced (writeC 0) 1) }
    c.typ ≠ 6 ∧ c.hcrc ≠ cellCrc c ∧ ((portAt 6).port 1).discards < 63 ∧ 2 ≤ (portAt 6).portState 1 := by decide +kernel
/-- R221: a good cell is acknowledged by its sequence. -/
theorem test_codeword_received : ((after (exec (.codewordReceive 1 (cw [sequenced (writeC 0) 0])) (portAt 6)) up).port 1).tags = [⟨2, 0⟩] := by
  decide +kernel

/-- Window 130 of die 0: 256 bytes of the Vat from 4096, open to ports 0 and 1. -/
def winUp (space : Nat) : State :=
  { (portAt 6) with
    wins := NMap.set [] (winKey 0 130) { state := 1, mask := 3, desc :=
      [BitVec.ofNat 64 (0xA01 + space * 2 ^ 12), 4096, 0, 0, 256, BitVec.ofNat 64 (256 + 2 ^ 26)] }
    regions := NMap.set [] (regionKey 0 0) { kind := 1 } }
theorem witness_WriteCell : let s := winUp 0
    let u := s.settle
    let k := winKey 0 130
    u.hears 1 (writeC 2) 1 ∧ u.cellWaits 1 (writeC 2) = false ∧ u.writeCause 1 (writeC 2) = none ∧ (u.win k).ship = none ∧ u.repair = none ∧
      u.held = [] ∧ (TDesc.ofWords (u.win k).desc).space = 0 ∧ ({ u with slotCfg := 0x222222 } : State).cellWaits 1 (writeC 2) = true := by
  unfold State.hears; decide +kernel
theorem witness_WriteCellStack : let u := (winUp 1).settle
    let w := u.win (winKey 0 130)
    u.writeCause 1 (writeC 2) = none ∧ (TDesc.ofWords w.desc).space = 1 ∧ (∀ i < 2, u.streaming (stkHalf (u.winAddr w (64 * 2 + 32 * i)))
      (stkBank (u.winAddr w (64 * 2 + 32 * i))) = false ∧ u.waitsHeld (u.winAddr w (64 * 2 + 32 * i)) = false) := by decide +kernel
/-- A cell that came before another of its kind acts before it. -/
theorem witness_WriteCellTurn : let s := (winUp 0).updPort 1 (fun x => { x with ingress := [writeC 0, writeC 2] })
    (s.settle.port 1).turn (writeC 2) = false ∧ (s.settle.port 1).turn (writeC 0) = true := by decide +kernel
/-- R233: the causes at their boundary, and the first that applies. -/
theorem witness_WriteCellDropped : (winUp 0).settle.writeCause 1 (writeC 4) = some dRANGE ∧ (winUp 0).settle.writeCause 1 (writeC 3) = none ∧
    (winUp 0).settle.writeCause 2 (writeC 4) = some dPORT ∧ (portAt 6).settle.writeCause 1 (writeC 0) = some dCLOSED ∧
    (winUp 1 |>.updWin (winKey 0 130) (fun w => { w with desc := w.desc.set 1 (BitVec.ofNat 64 (2 ^ 21)) })).settle.writeCause 1 (writeC 0) = some dREGION := by
  decide +kernel
theorem test_write_cell : let t := after (exec (.writeCell 1 (writeC 2)) (winUp 0)) up
    t.vatWord (4096 + 128) = 9 ∧ (t.vatEcc (4096 + 160)).poison = true ∧ (t.win (winKey 0 130)).bytes = 64 := by decide +kernel
theorem test_write_cell_dropped : let t := after (exec (.writeCell 1 (writeC 4)) (winUp 0)) up
    t.rd LRT_PORT_DROP_count (1 * 8 + dRANGE) = 1 ∧ t.vat = [] := by decide +kernel

/-- A group of one link on port 1, in a state. -/
def linked (st : Nat) : State :=
  { (runs (plate [])) with
    groups := NMap.set [] (groupKey 0 3) { state := st, inTag := 5, inEpoch := 2, member := 0, members := 2, links := [{ port := 1, peer := 1, fp := none }] } }
  |>.wr LRT_PORT_STATUS_state 1 6
/-- FORM's word 1 as the neighbour sends it: module, binding, quarters, members - 1. -/
def formW (s : State) (members : Nat) : Nat := s.moduleId 0 + 0x10 * 2 ^ 128 + 2 * 2 ^ 192 + (members - 1) * 2 ^ 200
theorem witness_Form : let s := linked 1
    let c := noticeC 1 1 1 0 (formW s 2)
    s.hears 1 c 2 ∧ c.aux = 1 ∧ (s.groups.find? (fun e => e.2.state != 0 && e.2.inTag == noticeTag c && e.2.links.any (fun l => l.port == 1))) =
      some (groupKey 0 3, s.group 0 3) ∧ (s.group 0 3).state ≠ 3 ∧ s.formAgrees (groupKey 0 3) 1 c = true ∧
      s.formAgrees (groupKey 0 3) 1 (noticeC 1 1 1 0 (formW s 3)) = false := by unfold State.hears; decide +kernel
theorem test_form : let s := after (exec (.form 1 (noticeC 1 1 1 0 (formW (linked 1) 2))) (linked 1)) up
    ((s.group 0 3).links.map (fun l => (l.form, l.binding)), (s.port 1).egress.map (·.aux)) = ([(true, 0x10)], [2]) := by decide +kernel
/-- The group after the neighbour's FORM. -/
def formedUp : State := { linked 1 with groups := (linked 1).groups.upd 3 (fun x => { x with links := x.links.map (fun (l : GLink) => { l with form := true }) }) }
theorem witness_FormAck : let s := formedUp
    let c := noticeC 2 1 2 0 0
    s.hears 1 c 2 ∧ c.aux = 2 ∧ s.namedGroup 1 c = some 3 ∧ (s.groups.get 3).live = true := by unfold State.hears; decide +kernel
/-- R249: FORM and FORM_ACK on every link make the group OPEN. -/
theorem test_form_ack : let s := formedUp
    ((after (exec (.formAck 1 (noticeC 2 1 2 0 0)) s) up).group 0 3).state = 2 := by decide +kernel
/-- A GRANT of use 7 for window 31 of logical quarter 2. -/
abbrev grantC : LCell := noticeC 3 1 3 (2 + 31 * 16 + 7 * 2 ^ 32) 0
/-- A shipment in slot 9 that waits for window 498 (2 + 31 * 16) of that neighbour. -/
def shipping1 : State := { linked 2 with reqs := NMap.set [] 9 { st := .shipping, shipSent := true, shipFrom := some (1, 3, 1, 498) } }
theorem witness_GrantCell : let s := linked 2
    s.hears 1 grantC 2 ∧ grantC.aux = 3 ∧ s.namedGroup 1 grantC = some 3 ∧ (s.groups.get 3).live = true ∧
      s.shipGrantOf 1 3 (bits grantC.w0.toNat 128 9) = none ∧ (s.groups.get 3).links.findIdx? (fun l => l.port == 1) = some 0 ∧
      shipping1.hears 1 grantC 2 ∧ shipping1.namedGroup 1 grantC = some 3 ∧
      shipping1.shipGrantOf 1 3 (bits grantC.w0.toNat 128 9) = some (65536 + 9) := by unfold State.hears; decide +kernel
theorem test_grant_cell : ((after (exec (.grantCell 1 grantC) (linked 2)) up).group 0 3).grants.get (2 * 32 + 31) = 7 ∧
    ((after (exec (.grantCell 1 grantC) shipping1) up).req 9).shipUse = 7 := by
  decide +kernel
theorem witness_Slow : let s := linked 2
    let c := noticeC 4 1 3 (17 + 50 * 2 ^ 64) 0
    s.hears 1 c 2 ∧ c.aux = 4 ∧ s.namedGroup 1 c = some 3 ∧ (s.groups.get 3).fresh c = true ∧ s.dt < bits c.w0.toNat 192 64 ∧
      (s.groups.get 3).fresh (noticeC 4 1 0 17 0) = false := by unfold State.hears; decide +kernel
/-- R256: a factor of 16 or below cancels, one of 17 stands. -/
theorem test_slow : ((after (exec (.slow 1 (noticeC 4 1 3 (17 + 50 * 2 ^ 64) 0)) (linked 2)) up).group 0 3).slow.get 1 = (17, 50) ∧
    ((after (exec (.slow 1 (noticeC 4 1 3 (16 + 50 * 2 ^ 64) 0)) (linked 2)) up).group 0 3).slow.get 1 = (0, 0) := by decide +kernel
theorem witness_Withdraw : let s := linked 2
    let c := noticeC 5 1 4 8 0
    s.hears 1 c 2 ∧ c.aux = 5 ∧ s.namedGroup 1 c = some 3 ∧ (s.groups.get 3).fresh c = true ∧ (s.groups.get 3).live = true ∧
      (s.groups.get 3).fresh (noticeC 5 0 4 8 0) = false := by unfold State.hears; decide +kernel
theorem test_withdraw : let g := (after (exec (.withdraw 1 (noticeC 5 1 4 8 0)) (linked 2)) up).group 0 3
    (g.state, g.cause, g.origin) = (3, 8, 1) := by decide +kernel

/-- A STOPPING partition whose window of a withdrawn group is still open; its WITHDRAW left at 100. -/
def closingUp (dt : Nat) : State :=
  { (linked 3) with
    groups := (linked 3).groups.upd 3 (fun x => { x with links := x.links.map (fun (l : GLink) => { l with left := some 100 }) })
    wins := NMap.set [] 5 { state := 1, plate := true, owner := 0, group := some 3 }
    aon := { dt := dt } }
  |>.updPart 0 (fun x => { x with closing := some 100 })
theorem witness_WithdrawClose : let s := closingUp 1100
    (up.part 0).closing = none ∧ (s.part 0).closing ≠ none ∧ 5 ∈ s.plateWins 0 ∧ (s.win 5).group = some 3 ∧ (s.win 5).state = 1 ∧
      (s.group 0 3).state = 3 ∧ (s.group 0 3).links.map (·.left) = [some 100] ∧ 100 + 1000 ≤ s.dt ∧ (closingUp 1099).dt < 1100 := by decide +kernel
theorem test_withdraw_close : ((after (exec (.withdrawCloseTimeout 0) (closingUp 1100)) up).win 5).closeReq = true ∧
    ((after (exec (.withdrawCloseTimeout 0) (closingUp 1099)) up).win 5).closeReq = false := by decide +kernel
theorem witness_SlowRepeat : let s := { (up.wr PWR_STATUS_level 0 2) with aon := { dt := 500000 } }
    up.skipLevel = 0 ∧ s.skipLevel ≠ 0 ∧ s.pwr.lastSlow + 500000 ≤ s.dt := by decide +kernel
theorem test_slow_repeat : let s := { (up.wr PWR_STATUS_level 0 2) with aon := { dt := 500000 } }
    (after (exec .slowRepeat s) up).pwr.lastSlow = 500000 := by decide +kernel

/-- A serving partition with an OPEN group of links 0 on port 1 and 1 on port 2; `routes` go on past this member. -/
def shipTo (routes : List (Nat × Nat × Nat)) : State :=
  let s : State := serves0.updPart 0 (fun (x : Part) =>
    { x with plate := x.plate.map (fun (i : PlateImage) => { i with body := { i.body with groups := [⟨3, 0, 3, [], routes⟩] } }) })
  { s with
    regions := NMap.set serves0.regions (regionKey 0 14) { kind := 1 }
    groups := NMap.set [] 3 { state := 2, inTag := 5, inEpoch := 2, member := 0, members := 3, links :=
      [{ port := 1, peer := 1, fp := none }, { port := 2, peer := 2, fp := none }] } }
  |>.wr LRT_PORT_STATUS_state 1 6 |>.wr LRT_PORT_STATUS_state 2 6
abbrev shipUp : State := shipTo []
/-- A SHIP_REQ for id 77 of a length, from member 1. -/
abbrev shipReqC (len : Nat) : LCell := noticeC 6 1 3 (77 + 5 * 2 ^ 32 + len * 2 ^ 64) 0
/-- A length without pages, and the settled state. -/
abbrev shipV0 (c : LCell) : State := (shipUp.settle.takeCell 1 c).checkTree 0
theorem witness_ShipReq : let u := shipUp.settle
    let c := shipReqC 640
    u.notice 1 c 6 3 none ∧ u.shipOf 3 (noticeOrigin c) (bits c.w0.toNat 128 32) = none ∧ (shipV0 c).serving 0 = some serveSpec ∧
      slots.find? (fun i => (u.req i).st == .free) = some 0 ∧ ((shipV0 c).reserveShip 0 5 77 640).2 = some 0 ∧
      ((shipV0 c).freeWins 0).length = 128 ∧ (((shipV0 c).reserveShip 0 5 77 640).1.shipArea 0 0) = some (14 * 2 ^ 21, 4096) := by
  unfold State.notice State.hears; decide +kernel
/-- A manifest of one page, where the pools have none. -/
def noPages : State := shipUp.updPart 0 (fun (x : Part) =>
  { x with plate := x.plate.map (fun (i : PlateImage) => { i with body := { i.body with serving := some { serveSpec with pairs := 0 } } }) })
theorem witness_ShipReqRefused : noPages.serving 0 = some { serveSpec with pairs := 0 } ∧ manifestPages serveSpec 24832 = 1 ∧
    (((noPages.settle.takeCell 1 (shipReqC 24832)).checkTree 0).reserveShip 0 5 77 24832).2 = none := by
  decide +kernel
theorem witness_ShipReqOnward : let u := (shipTo [(6, 1, 1)]).settle
    let c := shipReqC 640
    u.notice 1 c 6 3 (some 2) ∧ u.shipOf 3 (noticeOrigin c) (bits c.w0.toNat 128 32) = none ∧ u.freeWins 0 ≠ [] ∧ u.shipArea 0 0 ≠ none := by
  unfold State.notice State.hears; decide +kernel
/-- A request that waits to ship to member 0 of group 3, asked for at 0; or ships. -/
def waitsUp (st : ReqState) : State :=
  { shipUp with reqs := NMap.set [] 4 { st := st, vf := 0, rec_ := (recOf 77 8 2 1).set 0x45 0x30, prompt := [2], shipTried := some 0 } }
abbrev shipGrantC : LCell := noticeC 7 1 3 (77 + 130 * 2 ^ 32 + 640 * 2 ^ 64) 0
abbrev shipRefuseC : LCell := noticeC 7 1 3 (77 + 2 ^ 40) 0
theorem witness_ShipGrant : let u := (waitsUp .prefill).settle
    let w := (waitsUp .shipping).settle
    let mine (s : State) (f : Req → Bool) := slots.find? (fun i => (s.req i).part == 3 / 16 && f (s.req i) &&
      rqId (s.req i).rec_ == 77 && rqShip (s.req i).rec_ && shipGroup (rqShipTarget (s.req i).rec_) == 3 % 16)
    u.notice 1 shipGrantC 7 3 none ∧ bit shipGrantC.w0.toNat 168 = false ∧ bit shipRefuseC.w0.toNat 168 = true ∧ bits shipGrantC.w0.toNat 128 32 = 77 ∧
      u.notice 1 shipRefuseC 7 3 none ∧ mine u Req.waitsShip = some 4 ∧ (u.req 4).st = .prefill ∧
      mine w (fun r => r.st == .shipping) = some 4 ∧ w.on HIF_CQ_CFG_enable 0 = false := by unfold State.notice State.hears; decide +kernel
theorem test_ship_grant : ((after (exec (.shipGrant 1 shipGrantC) (waitsUp .prefill)) up).req 4).shipGrant = some (130, 640) ∧
    ((after (exec (.shipGrant 1 shipRefuseC) (waitsUp .shipping)) up).req 4).st = .free := by decide +kernel
/-- A window kept for request 77 of member 1, by port 2. -/
abbrev keptShip : Ship := { slot := none, origin := 1, port := 1, key := 3, id := 77, len := 640, chunk := 4096, use := 0, next := some (2, 0) }
abbrev keptWin : Win := { state := 0, mask := 2, ship := some keptShip }
def passes : State := { shipTo [(7, 2, 0)] with wins := NMap.set [] 130 keptWin }
theorem witness_ShipGrantOnward : let u := passes.settle
    let c := noticeC 7 2 3 (77 + 140 * 2 ^ 32 + 640 * 2 ^ 64) 0
    u.notice 2 c 7 3 (some 1) ∧ bit c.w0.toNat 168 = false ∧ bits c.w0.toNat 192 32 ≤ keptShip.chunk ∧ keptWin.ship = some keptShip ∧ u.win 130 = keptWin ∧
      u.wins.find? (fun e => e.2.ship.any (fun x => x.key == 3 && x.id == bits c.w0.toNat 128 32 && x.use == 0 && x.next == some (2, 0))) =
        some (130, keptWin) := by unfold State.notice State.hears; decide +kernel
theorem witness_ShipReqRetry : let s := { waitsUp .prefill with aon := { dt := 10000 } }
    (s.req 4).shipTried = some 0 ∧ (s.req 4).part = 0 ∧ (s.req 4).waitsShip = true ∧ 0 + 10000 ≤ s.dt ∧ ((s.managed 0).req 4).st ≠ .free ∧
      (waitsUp .prefill).dt < 0 + 10000 := by decide +kernel
theorem test_ship_req_retry : ((after (exec (.shipReqRetry 0 4) { waitsUp .prefill with aon := { dt := 10000 } }) up).req 4).shipTried = some 10000 := by
  decide +kernel
/-- The words of a manifest of 15 positions and class offset 9 for function 5, of a module. -/
def shipWords (digest : Nat) : List (W256 × Bool) :=
  bytesWords (leBytes 64 digest ++ recOf 77 8 2 1 ++ leBytes 4 5 ++ leBytes 4 15 ++ leBytes 4 9 ++ leBytes 4 1 ++ leBytes 16 0) ++ List.replicate 13 (0, false)
/-- An ARRIVING entry with all its words. -/
def arrivesUp (digest : Nat) : State :=
  { shipUp with
    reqs := NMap.set [] 4 { st := .arriving, vf := 0, shipFrom := some (1, 3, 1, 130), shipLen := 640, arrived := shipWords digest }
    wins := NMap.set [] 130 { state := 1, mask := 2, bytes := 640, ship := some (Ship.mk (some 4) 1 1 3 77 640 640 1 1 none 0) } }
set_option maxRecDepth 20000 in
theorem witness_ShipmentAccept : let w := ((arrivesUp 0).managed 0).pollShips
    let m := manifestOf serveSpec (shipWords 0)
    w.serving 0 = some serveSpec ∧ mwf default w.reqs = true ∧ (w.req 4).st = .arriving ∧ (w.req 4).part = 0 ∧ (w.req 4).arrived = shipWords 0 ∧
      (w.req 4).shipLen ≤ 32 * (shipWords 0).length ∧ m.digest = (((w.part 0).plate.map plModule).getD 0).toNat ∧ (w.fitPages 0 serveSpec 4 m).2 = true ∧
      (m.length, m.vf, m.classOffset, m.overflow) = (15, 5, 9, true) ∧ (manifestOf serveSpec (shipWords 1)).digest = 1 ∧
      w.on HIF_CQ_CFG_enable 0 = false := by decide +kernel
set_option maxRecDepth 20000 in
/-- R212: the request decodes with the header's fields; one of another module fails with a record. -/
theorem test_shipment_accept : let t := after (exec (.shipmentAccept 0 4 (some 130)) (arrivesUp 0)) up
    ((t.req 4).len, (t.req 4).vf, (t.req 4).reported, (t.win 130).state) = (15, 5, true, 0) := by decide +kernel
set_option maxRecDepth 20000 in
theorem test_shipment_fails : let t := after (exec (.shipmentAccept 0 4 (some 130)) (arrivesUp 1)) up
    (t.req 4).st = .free ∧ (t.cq 0).waiting.length = 1 := by decide +kernel

/-! ### Ports, lasers, software windows, time -/

/-- A part whose lasers give light, with port 1 in a state, enabled or not. -/
def litUp (st en : Nat) (dt : Nat) : State :=
  { ((portAt st).wr LRT_LASER_STATUS_mods 0 0x33333333).wr LRT_PORT_CTRL_enable 1 en with aon := { dt := dt } }
theorem witness_PortEnable : let s := litUp 0 0 0
    s.serves (.fn 0) (LRT_PORT_CTRL_enable.addr 1) = true ∧ s.portState 1 = 0 ∧ bit s.boot.e2eBad (1 / 4) = false ∧
      (s.port 1).heldDown = false ∧ s.lit (1 / 4) = true ∧ bit s.dieFence (1 / 4) = false := by decide +kernel
theorem test_port_enable : (after (exec (.portEnable (.fn 0) 1) (litUp 0 0 0)) up).portState 1 = 2 ∧
    (after (exec (.portEnable (.fn 0) 1) ((litUp 0 0 0).wr LRT_LASER_STATUS_mods 0 0)) up).portState 1 = 1 := by decide +kernel
theorem witness_Train : let s := litUp 1 1 1000000
    (litUp 2 1 0).portState 1 = 2 ∧ s.portState 1 = 1 ∧ s.mayTrain 1 = true ∧ (s.port 1).since + 1000000 ≤ s.dt ∧
      (litUp 1 1 999999).mayTrain 1 = true ∧ (litUp 1 1 999999).dt < ((litUp 1 1 999999).port 1).since + 1000000 := by decide +kernel
/-- R224: training that found no far end leads to DOWN; a DOWN port trains again 10 ms later. -/
theorem test_train : (after (exec (.portTrainRetry 1 false) (litUp 2 1 0)) up).portState 1 = 1 ∧
    (after (exec (.portTrainRetry 1 false) (litUp 1 1 1000000)) up).portState 1 = 2 ∧
    (after (exec (.portTrainRetry 1 false) (litUp 1 1 999999)) up).portState 1 = 1 := by decide +kernel
/-- A LOW port that may train at full rate, or one that does. -/
def fullAt (st : Nat) : State := ((litUp st 1 0).wr LRT_PORT_CTRL_allowFull 1 1)
/-- One that may not. -/
def lowAt (st : Nat) : State := ((litUp st 1 0).wr LRT_PORT_CTRL_allowFull 1 0)
theorem witness_FullTrain : let s := fullAt 5
    let g (l : List Nat) := (s.goodLambdas 1).filter l.contains
    (fullAt 4).portState 1 = 4 ∧ (fullAt 4).mayFull 1 = true ∧ (lowAt 4).mayFull 1 = false ∧ (lowAt 5).portState 1 = 5 ∧
      (lowAt 5).mayFull 1 = false ∧ s.portState 1 = 5 ∧ s.on LRT_PORT_CTRL_allowFull 1 = true ∧ s.rd PWR_STATUS_state 0 ≠ 0 ∧
      (∀ i ∈ upto 17, i < 17) ∧ (∀ i < 16, i ∈ g (upto 17)) ∧ (g ((upto 17).drop 1)).length = 16 ∧ 16 ∈ g ((upto 17).drop 1) ∧
      (g (upto 15)).length = 15 ∧ (g (upto 8)).length = 8 ∧ (g (upto 7)).length < 8 := by decide +kernel
/-- R224: LOW leads to FULL_TRAIN, which ends in LOW where it is no longer allowed. -/
theorem test_full_train_begins : (after (exec (.fullTrain 1 []) (fullAt 4)) up).portState 1 = 5 ∧
    (after (exec (.fullTrain 1 (upto 17)) (lowAt 5)) up).portState 1 = 4 := by decide +kernel
/-- R215, R217: the rate and the wavelengths by how many are good. -/
theorem test_full_train : let f (l : List Nat) := let t := after (exec (.fullTrain 1 l) (fullAt 5)) up
      (t.portState 1, t.rd LRT_PORT_STATUS_rate 1, t.rd LRT_PORT_LAMBDA_active 1, t.rd LRT_PORT_LAMBDA_spareFor 1)
    f (upto 17) = (6, 3, 0xFFFF, 0) ∧ f (0 :: (upto 17).drop 2) = (6, 3, 0x1FFFD, 1) ∧ f ((upto 17).drop 8) = (6, 2, 0xFF00, 0) ∧
      (f (upto 7)).1 = 1 := by decide +kernel

/-- A good handshake without encryption. -/
def hand : Handshake := ⟨[1], 0, true, false, true, false, true⟩
theorem witness_AuthHandshake : let s := (litUp 3 1 0).wr BOOT_STATUS_identityOk 0 1
    s.portState 1 = 3 ∧ hand.chainOk = true ∧ hand.sigOk = true ∧ s.on BOOT_STATUS_identityOk 0 = true ∧
      s.on LRT_GLOBAL_CFG_requireOwner 0 = false ∧ hand.encrypt = false ∧ s.on LRT_PORT_CTRL_encrypt 1 = false ∧
      (s.port 1).prevPeer = none ∧ { hand with sigOk := false }.sigOk = false ∧
      { hand with encrypt := true }.encrypt = true ∧ { hand with encapOk := false }.encapOk = false ∧ hand.encapOk = true := by decide +kernel
theorem test_auth_fails : let t := after (exec (.authHandshake 1 { hand with sigOk := false }) (litUp 3 1 7)) up
    (t.portState 1, (t.port 1).authTries, (t.port 1).since) = (8, 1, 7) := by decide +kernel
/-- R226: an encapsulation that fails leads to DOWN. -/
theorem test_encapsulation_fails : (after (exec (.authHandshake 1 { hand with encrypt := true, encapOk := false })
    ((litUp 3 1 0).wr BOOT_STATUS_identityOk 0 1)) up).portState 1 = 1 := by decide +kernel
theorem witness_AuthTimeout : (litUp 3 1 5000000).portState 1 = 3 ∧ ((litUp 3 1 5000000).port 1).since + 5000000 ≤ (litUp 3 1 5000000).dt ∧
    (litUp 3 1 4999999).dt < ((litUp 3 1 4999999).port 1).since + 5000000 := by decide +kernel
/-- R225: 1 s, 10 s, then 60 s. -/
def failedAt (tries dt : Nat) : State := (litUp 8 1 dt).updPort 1 (fun x => { x with authTries := tries })
theorem witness_AuthRetry : (failedAt 1 100000000).portState 1 = 8 ∧ ((failedAt 1 100000000).port 1).since + 100000000 ≤ (failedAt 1 100000000).dt ∧
    (failedAt 2 999999999).dt < ((failedAt 2 999999999).port 1).since + 1000000000 := by decide +kernel
/-- R225: before the wait of its failures is over a port stays in AUTH_FAILED. -/
theorem test_auth_retry : [failedAt 2 999999999, failedAt 3 5999999999].map (fun s => (after (exec (.authRetry 1) s) up).portState 1) = [8, 8] := by
  decide +kernel
theorem witness_Rekey : let s := (litUp 6 1 0).wr LRT_PORT_STATUS_encrypted 1 1
    s.on LRT_PORT_STATUS_encrypted 1 = true ∧ 4 ≤ s.portState 1 ∧ s.portState 1 ≤ 7 := by decide +kernel
theorem test_rekey_fails : (after (exec (.rekey 1 false) ((litUp 6 1 0).wr LRT_PORT_STATUS_encrypted 1 1)) up).portState 1 = 1 := by decide +kernel

theorem witness_LinkLost : 4 ≤ (litUp 4 1 0).portState 1 ∧ (litUp 7 1 0).portState 1 ≤ 7 ∧ (litUp 2 1 0).portState 1 = 2 ∧
    (litUp 3 1 0).portState 1 ≤ 3 := by decide +kernel
theorem test_link_lost : let t := after (exec (.linkLost 1) (litUp 6 1 0)) up
    (t.portState 1, bit (t.rd INT_CLASS_SEEN_class 0) 8) = (1, true) := by decide +kernel
theorem witness_Keepalive : let s := litUp 3 1 10000
    codewords (s.portState 1) = true ∧ (s.port 1).lastSent + 10000 ≤ s.dt := by decide +kernel
theorem test_keepalive : ((after (exec (.keepalive 1) (litUp 3 1 9999)) up).port 1).egress = [] ∧
    ((after (exec (.keepalive 1) (litUp 3 1 10000)) up).port 1).egress.map (·.typ) = [5] := by decide +kernel
/-- A DORMANT part that wakes by a link. -/
def dormant : State := ((litUp 4 1 0).wr PWR_STATUS_state 0 0).wr PWR_WAKE_CFG_src 0 4
theorem witness_LinkWake : 4 ≤ dormant.portState 1 ∧ dormant.portState 1 ≤ 7 ∧ bit (dormant.rd PWR_WAKE_CFG_src 0) 2 = true ∧
    dormant.rd PWR_STATUS_state 0 = 0 ∧ dormant.pwr.overVolt = false := by decide +kernel
theorem test_link_wake : (after (exec (.linkWake 1) dormant) up).rd PWR_STATUS_state 0 = 1 := by decide +kernel
/-- A port at full rate on its sixteen wavelengths, whose threshold is 5, and the symbols counted on wavelength 15. -/
def fullUp (n : Nat) : State := ((((litUp 6 1 0).wr LRT_PORT_STATUS_rate 1 3).wr LRT_PORT_LAMBDA_active 1 0xFFFF).wr LRT_PORT_CTRL_lambdaThreshold 1 5)
  |>.updPort 1 (fun (x : Port) => { x with sym := NMap.set [] 15 n })
theorem witness_LambdaSpare : let s := fullUp 6
    4 ≤ s.portState 1 ∧ s.portState 1 ≤ 7 ∧ bit (s.rd LRT_PORT_LAMBDA_failed 1) 15 = false ∧
    s.rd LRT_PORT_STATUS_rate 1 = 3 ∧ bit (s.rd LRT_PORT_LAMBDA_active 1) 15 = true ∧
    s.on LRT_PORT_LAMBDA_spareUsed 1 = false ∧ 16 ∈ s.goodLambdas 1 ∧ 9 ≤ (s.goodLambdas 1).length ∧
    s.rd LRT_PORT_CTRL_lambdaThreshold 1 < (s.port 1).symbols 15 ∧
    ((fullUp 5).port 1).symbols 15 ≤ (fullUp 5).rd LRT_PORT_CTRL_lambdaThreshold 1 := by decide +kernel
/-- R217: a wavelength past its threshold gives its share to the spare; at the threshold it stays. -/
theorem test_lambda_spare : let f (s : State) (b : Bool) := let t := after (exec (.lambdaSpareSwitch 1 ⟨15, b⟩) s) up
    (t.rd LRT_PORT_LAMBDA_active 1, t.rd LRT_PORT_LAMBDA_spareFor 1)
    f (fullUp 6) false = (0x17FFF, 15) ∧ f (fullUp 5) false = (0xFFFF, 0) ∧ f (fullUp 5) true = (0x17FFF, 15) := by decide +kernel
theorem witness_QuarantineClear : let s := litUp 7 1 3
    s.serves (.fn 0) (LRT_PORT_CTRL_enable.addr 1) = true ∧ s.portState 1 = 7 := by decide +kernel
theorem test_quarantine_clear : (after (exec (.quarantineClear (.fn 0) 1) (litUp 7 1 3)) up).portState 1 = 6 := by decide +kernel

theorem witness_Laser : let s := litUp 6 1 0
    s.serves (.fn 0) (LRT_LASER_CTRL_removeReq.addr 0) = true ∧ bit (up.laserMod 3) 0 = false ∧ bit (s.laserMod 0) 0 = true ∧
      bit (s.laserMod 0) 3 = false ∧ bit ((s.laserCtrl 1).laserMod 0) 3 = true := by decide +kernel
theorem test_laser_remove : (after (exec (.laserRemoveReq (.fn 0) 0x81#8) ((litUp 6 1 0).wr LRT_LASER_STATUS_mods 0 0x37333333)) up).rd
    LRT_LASER_STATUS_mods 0 = 0x3733333B := by decide +kernel
theorem test_laser_pull : let t := after (exec (.laserPull 0) (litUp 6 1 0)) up
    (t.laserMod 0, t.portState 1, bit (t.rd INT_CLASS_SEEN_class 0) 8) = (0, 1, true) := by decide +kernel
theorem test_laser_insert : (after (exec (.laserInsert 3) up) up).laserMod 3 = 3 := by decide +kernel

/-- Die 0's window 130 is selected, CLOSED, of partition 0 on quarter 0, and no plate's. -/
def selUp (desc : List W64) : State :=
  { ((runs (plate [])).wr PART_STATUS_held 0 1).wr LRT_WIN_SEL_window 0 130 with
    wins := NMap.set [] 130 { owner := 0, desc := desc, cells := 4 } }
def goodDesc : List W64 := [0xA01, 4096, 0, 0, 256, BitVec.ofNat 64 (256 + 2 ^ 26)]
theorem witness_WinOpen : let s := selUp goodDesc
    s.serves (.fn 0) (LRT_WIN_CMD_open.addr 0) = true ∧ s.selWin 0 = 130 ∧ 128 ≤ s.rd LRT_WIN_SEL_window 0 ∧ (s.win 130).state = 0 ∧
      s.winCause goodDesc (fun q => q / 4 == (0 : Fin 4).val && s.ownerQuarter 0 q) id = 0 ∧
      s.winCause (goodDesc.set 0 0x101) (fun q => q / 4 == (0 : Fin 4).val && s.ownerQuarter 0 q) id ≠ 0 ∧
      (s.wr LRT_WIN_SEL_window 0 127).rd LRT_WIN_SEL_window 0 < 128 := by decide +kernel
theorem test_win_open : let t := after (exec (.winOpen (.fn 0) 0) (selUp goodDesc)) up
    ((t.win 130).state, (t.win 130).cells) = (1, 0) := by decide +kernel
/-- R230: a window of a format other than INT8 does not open. -/
theorem test_win_open_format : let t := after (exec (.winOpen (.fn 0) 0) (selUp (goodDesc.set 0 0x101))) up
    ((t.win 130).state, (t.win 130).cause) = (0, 2) := by decide +kernel
theorem test_win_close : ((after (exec (.winClose (.fn 0) 0) ((selUp goodDesc).updWin 130 (fun w => { w with state := 1 }))) up).win 130).closeReq = true := by
  decide +kernel

/-- A part that takes time on port 1, toward its master, with a Sync received at 5000 ns. -/
def timeUp : State :=
  { ((litUp 4 1 100).wr LRT_TIME_CFG_timePorts 0 2).wr LRT_TIME_STATUS_masterPort 0 1 with ptp := NMap.set [] 1 { syncSeq := some 9, syncRx := 5000, delay := 20 } }
  |>.wr LRT_TIME_STATUS_grandmaster 0 0
/-- An announced clock of a priority. -/
def clockOf (p1 : Nat) : ClockSet := ⟨p1, 248, 0xFE, 0xFFFF, 128, 5, 0⟩
theorem witness_Time : let x := timeUp.ptp.get 1
    (litUp 4 1 0).timeOn 1 = false ∧ timeUp.timeOn 1 = true ∧ x.syncSeq = some 9 ∧ timeUp.on LRT_TIME_STATUS_grandmaster 0 = false ∧
      timeUp.rd LRT_TIME_STATUS_masterPort 0 = 1 ∧ timeUp.on LRT_TIME_STATUS_stepped 0 = false ∧ timeUp.rd LRT_TIME_CFG_domain 0 ≠ 1 ∧
      (timeUp.wr LRT_TIME_STATUS_stepped 0 1).on LRT_TIME_STATUS_stepped 0 = true ∧ timeUp.aon.plateLoaded = false ∧
      (timeUp.updPtp 1 (fun x => { x with respSeq := some 9 }) |>.ptp.get 1).respSeq = some 9 ∧
      clockLess (clockOf 0) timeUp.ownClock = true ∧ clockLess (clockOf 255) timeUp.ownClock = false ∧
      (clockOf 0).p1 < 256 ∧ (clockOf 0).cls < 256 ∧ (clockOf 0).acc < 256 ∧ (clockOf 0).var < 65536 ∧ (clockOf 0).p2 < 256 := by decide +kernel
/-- Only the port that takes time can have heard a clock. -/
theorem witness_TimeHeard : ∀ k, k ≠ 1 → timeUp.heard k = none := by
  intro k hk
  have h2 : timeUp.rd LRT_TIME_CFG_timePorts 0 = 2 := by decide +kernel
  have hb : bit 2 k = false := by
    cases k with
    | zero => rfl
    | succ k => cases k with
      | zero => exact absurd rfl hk
      | succ k =>
        have h1 := Nat.one_lt_two_pow (n := k + 1) (by omega)
        have : 2 / 2 ^ (k + 1 + 1) = 0 := Nat.div_eq_of_lt (by rw [Nat.pow_succ]; omega)
        simp [bit, this]
  have : timeUp.timeOn k = false := by simp [State.timeOn, h2, hb]
  simp [State.heard, this]
/-- R236: offset = 5000 - 980 - 20 = 4000 ns ahead. -/
theorem test_follow_up : let t := after (exec (.followUp 1 ⟨0, 9⟩ 980) timeUp) up
    (t.rd LRT_TIME_OFFSET_offset 0, t.on LRT_TIME_STATUS_locked 0, t.dt) = (4000, true, 100) := by decide +kernel
/-- R237: behind by 2000 ns, the one step forward is 200 units; none once a plate was loaded. -/
theorem test_follow_up_step : let t := after (exec (.followUp 1 ⟨0, 9⟩ 6980) timeUp) up
    let u := after (exec (.followUp 1 ⟨0, 9⟩ 6980) { timeUp with aon := { timeUp.aon with plateLoaded := true } }) up
    (t.dt, t.on LRT_TIME_STATUS_stepped 0, u.dt) = (300, true, 100) := by decide +kernel
theorem test_sync : ((after (exec (.sync 1 ⟨0, 10⟩ 77) timeUp) up).ptp.get 1).syncSeq = some 10 ∧
    ((after (exec (.sync 1 ⟨1, 10⟩ 77) timeUp) up).ptp.get 1).syncSeq = some 9 := by decide +kernel
theorem test_pdelay : ((after (exec (.pdelayRespFollowUp 1 ⟨0, 9⟩ 70) (timeUp.updPtp 1 (fun x => { x with respSeq := some 9, t1 := 10, t2 := 60, t4 := 60 }))) up).ptp.get 1).delay = 20 := by
  decide +kernel

/-! ### Partitions -/

/-- The bytes of a plate of one quarter without sections, of a shape, with a digest. -/
def goodBytes (shape digest : Nat) : List Byte :=
  leBytes 8 0x314554414C505844 ++ leBytes 4 1 ++ leBytes 4 0x10000 ++ leBytes 8 0x48 ++ leBytes 2 1 ++ leBytes 2 shape ++ leBytes 4 0 ++
    leBytes 64 7 ++ leBytes 64 digest ++ leBytes 8 0
/-- The SHA3-512 digest of the bytes below with digest 0. -/
def goodDigest : Nat :=
  10514215550320955744286437590683183600712981535821127069626609227617999249985978755191722907309519119740885254385819705375190360930063985426432190956723130
/-- A plate of one quarter that passes the checks of R84, its digest being SHA3-512 of its bytes with that field zero. -/
def good : PlateImage := { bytes := goodBytes 1 goodDigest, readError := false, body := { (default : PlateBody) with arrangement := [[]] } }
/-- One that asks for a die with two quarters named as one shape. -/
def misshapen : PlateImage := { good with bytes := goodBytes 2 0 }
/-- An EMPTY partition whose mask names quarter 4. -/
def masks : State := (up.wr PART_CFG_quarters 0 16).wr PART_CMD_LEN_len 0 168
/-- It in a state, holding quarter 4 where it runs. -/
def inState (st held : Nat) : State := ((masks.wr PART_STATUS_state 0 st).wr PART_STATUS_held 0 held).updPart 0 (fun x => { x with plate := some good, bind := [4] })

theorem witness_PartCmdLost : let s := up.wr PART_CMD_STATUS_busy 0 1
    s.serves (.fn 0) (PART_CMD_op.addr 0) = true ∧ s.on PART_CMD_STATUS_busy 0 = true := by decide +kernel
theorem witness_Load : masks.serves (.fn 0) (PART_CMD_op.addr 0) = true ∧ masks.on PART_CMD_STATUS_busy 0 = false ∧
    masks.shutting = false ∧ masks.pstate 0 = 0 ∧ masks.rd PART_CFG_quarters 0 ≠ 0 ∧ masks.rd PART_CMD_ADDR_addr 0 % 4096 = 0 ∧
    masks.rd PART_CMD_LEN_len 0 ≤ (masks.maskOf 0).length * areaBytes ∧ good.readError = false ∧ plateCause good = 0 ∧
    masks.fetched good = true ∧ bit (masks.rd SVC_QUAR_quarantined 0) 11 = false ∧
    (inState 2 16).pstate 0 ≠ 0 := by decide +kernel
/-- R266: the plate's words stand in the load area of its quarter. -/
theorem test_load : let t := after (exec (.load (.fn 0) 0 good) (masks.setQ 4 (fun (x : Quarter) => { x with power := .on }))) up
    (t.pcmd, t.stkWord (4 * 2 ^ 35 + 16302 * 2 ^ 21 + 32)) = (some ⟨1, 0, some good, .fetched⟩, 7) := by decide +kernel
/-- R84: a wrong digest is refused with cause REFUSED. -/
theorem test_load_refused : (after (exec (.load (.fn 0) 0 { good with bytes := goodBytes 1 5 }) masks) up).rd PART_CMD_STATUS_cause 0 = 4 := by decide +kernel
/-- A partition of a higher priority, over one that runs on the quarter. -/
def preempts : State := ((inState 2 16).wr PART_CFG_quarters 1 16).wr PART_CFG_priority 1 3
theorem witness_Preempt : preempts.pstate 1 = 0 ∧ preempts.shutting = false ∧ preempts.rd PART_CFG_quarters 1 ≠ 0 ∧
    (∀ v < 16, preempts.rd PART_STATUS_held v &&& preempts.rd PART_CFG_quarters 1 ≠ 0 →
      preempts.rd PART_CFG_priority v < preempts.rd PART_CFG_priority 1 ∧ preempts.saveRetired v = false) ∧
    preempts.rd PART_STATUS_held 0 &&& preempts.rd PART_CFG_quarters 1 ≠ 0 := by decide +kernel
/-- R275: a priority that is not higher fails. -/
theorem test_preempt_priority : (after (exec (.preempt (.fn 0) 1 good) (preempts.wr PART_CFG_priority 1 0)) up).rd PART_CMD_STATUS_error 0 = 1 := by
  decide +kernel
theorem witness_Stop : (inState 2 16).pstate 0 = 2 ∧ (inState 2 16).saveRetired 0 = false := by decide +kernel
theorem test_stop : (after (exec (.stop (.fn 0) 0) (inState 2 16)) up).pstate 0 = 3 := by decide +kernel
theorem witness_Resume : let s := inState 5 0
    s.pstate 0 = 5 ∧ s.shutting = false ∧ (s.maskOf 0).all s.takeable = true ∧ s.mustWake 0 :=
  ⟨by decide +kernel, by decide +kernel, by decide +kernel, ⟨4, by decide +kernel, by decide +kernel⟩, by decide +kernel⟩
theorem test_resume : let t := after (exec (.resume (.fn 0) 0) (inState 5 0)) up
    (t.pstate 0, t.rd PART_STATUS_held 0, (t.q 4).power) = (6, 16, .waking) := by decide +kernel
theorem test_unload : (after (exec (.unload (.fn 0) 0) (inState 2 16)) up).pstate 0 = 7 ∧ (after (exec (.unload (.fn 0) 0) (inState 5 0)) up).pstate 0 = 0 := by
  decide +kernel
theorem test_part_cmd_invalid : (after (exec (.partCmdInvalid (.fn 0) 0 6) masks) up).rd PART_CMD_STATUS_cause 0 = 1 := by decide +kernel
theorem witness_PartCfgWrite : masks.serves (.fn 0) (PART_CFG_quarters.addr 0) = true ∧ masks.pstate 0 = 0 ∧
    (inState 2 16).serves (.fn 0) (PART_CFG_quarters.addr 0) = true := by decide +kernel
theorem test_part_cfg : let t := after (exec (.partCfgWrite (.fn 0) 0 0x30005) masks) up
    (t.rd PART_CFG_quarters 0, t.rd PART_CFG_priority 0) = (5, 3) := by decide +kernel
/-- A fetched LOAD. -/
def fetched (img : PlateImage) : State := { masks with pcmd := some ⟨1, 0, some img, .fetched⟩ }
theorem witness_PlateFetchDone : let s := fetched good
    s.pcmd = some ⟨1, 0, some good, .fetched⟩ ∧ s.rd PWR_STATUS_state 0 = 2 ∧ (s.maskOf 0).all s.takeable = true ∧
      s.plateStands 0 good = none ∧ (s.setQ 4 (fun x => { x with svc := .fenced }) |>.maskOf 0).all (s.setQ 4 (fun x => { x with svc := .fenced })).takeable = false ∧
      (∀ k < 16, k ≠ 0 → s.pstate k ≠ 6) ∧ (s.q 4).power ≠ .on ∧ 4 ∈ s.maskOf 0 ∧
      s.plateStands 0 misshapen = some (plSHAPE, 0) := by decide +kernel
theorem test_plate_fetch_done : let t := after (exec .plateFetchDone (fetched good)) up
    (t.pstate 0, t.rd PART_STATUS_held 0, (t.part 0).bind) = (1, 16, [4]) := by decide +kernel
theorem test_plate_fetch_refused : (after (exec .plateFetchDone (fetched misshapen)) up).rd PART_CMD_STATUS_cause 0 = 4 := by
  decide +kernel
/-- A partition in SAVING whose windows have closed. -/
def saves : State := { (inState 4 16).updPart 0 (fun x => { x with closing := some 0 }) with pcmd := some ⟨2, 0, none, .stops⟩ }
theorem witness_SaveDone : saves.pstate 0 = 4 ∧ (saves.part 0).closing.isSome = true ∧ saves.winsClosed 0 = true ∧ (saves.part 0).notices = [] ∧
    saves.pcmd = some ⟨2, 0, none, .stops⟩ ∧ saves.wcb = [] := by decide +kernel
theorem test_save_done : let t := after (exec (.saveDone 0) saves) up
    (t.pstate 0, t.rd PART_STATUS_held 0, t.pcmd) = (5, 0, none) := by decide +kernel

/-! ### The service side of the memories and the crossbar -/

/-- A half whose region 0 is open, with a buffered write of byte 0 of word 0 and a held write of word 32. -/
def wcbUp : State :=
  { up with
    regions := NMap.set [] (regionKey 0 0) { kind := 1 }
    wcb := [⟨0, 1, 7⟩]
    held := [⟨32, 9, eccCode 9 false, fullMask, false, none, 0⟩] }
theorem witness_WcbMerge : wcbUp.settle.wcb.find? (fun e => e.word == 0) = some ⟨0, 1, 7⟩ ∧ wcbUp.settle.streaming 0 (stkBank 0) = false ∧
    ({ wcbUp with seqs := NMap.set [] 0 { flight := [⟨[stkBank 0], 0, 10 ^ 9, 10 ^ 9, []⟩] }, aon := { dt := 1000 } } : State).settle.streaming 0 (stkBank 0) = true := by decide +kernel
theorem test_wcb_merge : let t := after (exec (.wcbMerge 0 0) (wcbUp.stkPut 0 0x506 false)) up
    (t.stkWord 0, t.wcb) = (0x507, []) := by decide +kernel
theorem witness_HeldWrite : wcbUp.settle.held.find? (fun h => h.word == 32) = some ⟨32, 9, eccCode 9 false, fullMask, false, none, 0⟩ ∧
    wcbUp.settle.streaming 0 (stkBank 32) = false ∧ sealedKind (wcbUp.settle.kindAt 32) = true ∧ (dmaUp.settle.kindAt (2 * 2 ^ 21) = 2) ∧
    (1 : Nat) ≠ fullMask := by decide +kernel
theorem test_held_write : let t := after (exec (.heldWriteLand 0 1) wcbUp) up
    (t.stkWord 32, t.held) = (9, []) := by decide +kernel
theorem witness_StkRefill : up.serves (.fn 0) (STK_REFILL_start.addr 0) = true ∧ up.refill = none ∧ bit (0x300008001#64).toNat 32 = true := by decide +kernel
theorem test_stk_refill : (after (exec (.stkRefill (.fn 0) (0x130008001#64)) up) up).refill = some ⟨3, 1, 2⟩ := by decide +kernel
/-- A refill from sealed region 0 to open region 2 of half 0, over rows of 512 words. -/
def refills : State :=
  { up with
    regions := NMap.set (NMap.set [] (regionKey 0 0) { kind := 1 }) (regionKey 0 2) { kind := 2, rowLen := 512, sumRegion := 3 }
    refill := some ⟨0, 0, 2⟩ }
theorem witness_RefillDone : let g := refills.settle.region 0 2
    refills.settle.refill = some ⟨0, 0, 2⟩ ∧ refills.settle.kindOf 0 0 = 1 ∧ refills.settle.kindOf 0 2 = 2 ∧ g.rowOk = true ∧ g.sumRegion ≠ 0 ∧ g.sumRegion ≠ 2 ∧
      g.sumOffset + 2 ^ 18 ≤ 2 ^ 21 ∧ ({ refills with refill := some ⟨0, 1, 2⟩ } : State).settle.kindOf 0 1 ≠ 1 ∧ refills.settle.held = [] ∧
      (∀ b < 512, refills.settle.streaming 0 b = false) := by decide +kernel
/-- No word of memory that lists nothing is uncorrectable. -/
theorem witness_RefillClean : (eccRead 0 (eccCode 0 false)).res ≠ .uncorrectable ∧ refills.settle.stk = [] ∧ refills.settle.stkCode = [] := by decide +kernel
/-- Region 5 of half 3 is selected. -/
def attrUp : State := (up.wr STK_REGION_SEL_half 0 3).wr STK_REGION_SEL_region 0 5
theorem witness_RegionAttr : attrUp.serves (.fn 0) (STK_REGION_ATTR_kind.addr 0) = true ∧ attrUp.rd STK_REGION_SEL_half 0 = 3 ∧
    attrUp.rd STK_REGION_SEL_region 0 = 5 ∧ areaRegion 5 = false ∧ (attrUp.region 3 5).retired = false ∧ areaRegion 16302 = true ∧
    areaRegion 16301 = false := by decide +kernel
theorem test_region_attr : ((after (exec (.regionAttrWrite (.fn 0) (2 + 64 * 4 + 6 * 2 ^ 12 + 9 * 2 ^ 26)) attrUp) up).region 3 5).pend = some (2, 64, 6, 9) := by
  decide +kernel
theorem witness_LaneSpare : bit (up.rd STK_LANE_SPARE_spareUsed 7) 63 = false ∧
    bit ((up.wr STK_LANE_SPARE_spareUsed 7 (2 ^ 63)).rd STK_LANE_SPARE_spareUsed 7) 63 = true := by decide +kernel
theorem witness_VatSlotCfg : up.serves (.fn 0) (VAT_SLOT_CFG_slots.addr 0) = true := by decide +kernel
theorem test_vat_slot_cfg : let t := after (exec (.vatSlotCfgWrite (.fn 0) 0x1222100) up) up
    (bits (t.rd VAT_SLOT_CFG_slots 0) 20 2, bits (t.rd VAT_SLOT_CFG_slots 0) 0 2, t.on VAT_SLOT_CFG_lendUnused 0) = (2, 0, true) := by decide +kernel
theorem witness_SvcWatchdog : targetCode 0x33 = true ∧ targetCode 0x34 = false ∧ ¬ (28 ≤ (27 : Fin 32).val ∧ (27 : Fin 32).val ≤ 30) ∧
    ¬ (28 ≤ (31 : Fin 32).val ∧ (31 : Fin 32).val ≤ 30) ∧ up.on SVC_WDOG_EVENT_valid 0 = false := by decide +kernel
/-- R282: input 31 is never quarantined. -/
theorem test_svc_watchdog : (after (exec (.svcWatchdog 27 0x33 true) up) up).rd SVC_QUAR_quarantined 0 = 2 ^ 27 ∧
    (after (exec (.svcWatchdog 31 0 false) up) up).rd SVC_QUAR_quarantined 0 = 0 := by decide +kernel

/-! ### The host's windows on the memories -/

/-- A part whose quarter 0 is ON, and whose half 0 has a sealed and an open region. -/
def hostUp : State := dmaUp.setQ 0 (fun x => { x with power := .on })
/-- Bytes of a write, every byte enabled. -/
def tlpD (n : Nat) : List (Byte × Bool) := List.replicate n (0x5A, true)
/-- No slot is the host's, and none is lent. -/
def edgeShut : State := { hostUp with slotCfg := 0 }
theorem witness_Bar : let u := hostUp.settle
    u.reaches (.fn 0) = true ∧ u.barOpen 0 0 = true ∧ u.rd PWR_STATUS_state 0 ≠ 0 ∧ u.edgeOpen 2 = true ∧
      (hostUp.wr SVC_QUAR_quarantined 0 (2 ^ 5)).settle.barOpen 0 1 = false ∧ (hostUp.wr SVC_QUAR_quarantined 0 (2 ^ 5)).settle.barOpen 0 0 = true ∧
      edgeShut.settle.edgeOpen 2 = false := by decide +kernel
theorem witness_Bar2 : let u := hostUp.settle
    tlpOk (2 ^ 30) (.write 62 (tlpD 4) false) = true ∧
    ((wordsOf 62 (tlpD 4)).map (fun w => (w.addr, w.mask))) = [(32, 2 ^ 30 + 2 ^ 31), (64, 3)] ∧
    (wordsOf 62 (tlpD 4)).map (fun w => u.vatReach 0 w.addr) = [0, 0] ∧ pickAt ((wordsOf 62 (tlpD 4)).map (·.addr)) [1] = [64] ∧
    (wordsOf (2 ^ 26) (tlpD 4)).map (fun w => u.vatReach 0 w.addr) = [2] ∧
    tlpOk (2 ^ 30) (.read 62 4) = true ∧ readAddrs 62 4 = [32, 64] := by decide +kernel
theorem test_bar2_write : let t := hostUp.bar2 0 0 (.write 62 (tlpD 4) false) [1]
    (t.vatWord 64, (t.vatEcc 32).poison, (t.vatEcc 64).poison) = (0x5A5A, false, true) := by decide +kernel
theorem test_bar2_hole : (after (exec (.bar2Access 0 ⟨0, (.read 0x3000000 4), []⟩) hostUp) up).out.getLast? = some (.unsupported 0) ∧
    (after (exec (.bar2Access 0 ⟨1, (.read 62 4), []⟩) (hostUp.wr SVC_QUAR_quarantined 0 (2 ^ 5))) up).out.getLast? = some (.unsupported 0) := by decide +kernel
theorem witness_Bar4 : let u := hostUp.settle
    u.rd HIF_WIN4_BASE_base 0 * 2 ^ 21 = 0 ∧ tlpOk (2 ^ 36) (.write 2 (tlpD 3) false) = true ∧
    (wordsOf (0 + 2) (tlpD 3)).length = 1 ∧ (wordsOf (0 + 2) (tlpD 3)).all (fun w => w.mask != 0) = true ∧ u.stkReach 0 0 = 0 ∧ u.wcb = [] ∧
    u.kindAt 0 = 1 ∧ u.kindAt (2 ^ 21) = 0 ∧ u.stkReach 0 (2 ^ 21) = 0 ∧ sealedKind 1 = true ∧ sealedKind 2 = false ∧
    u.kindAt (2 * 2 ^ 21) = 2 ∧ u.stkReach 0 (2 ^ 39) ≠ 0 ∧ tlpOk (2 ^ 36) (.read 0 32) = true ∧ readAddrs (0 + 0) 32 = [0] := by decide +kernel
theorem test_bar4 : let t := after (exec (.bar4Access 0 ⟨0, (.write 2 (tlpD 1) false), []⟩) hostUp) up
    (t.svcRead 0).1 = 7 + 0x5A * 2 ^ 16 ∧ (after (exec (.bar4Access 0 ⟨0, (.read 0 4), []⟩) t) up).out.getLast? = some (.completion 0 [7, 0, 0x5A, 0] false) := by
  decide +kernel
/-- R13: a word that the hub link delivers poisoned lands poisoned. -/
theorem test_bar4_hub : let t := after (exec (.bar4Access 0 ⟨0, (.write 2 (tlpD 1) false), [0]⟩) hostUp) up
    t.svcRead 0 = (7 + 0x5A * 2 ^ 16, true) := by decide +kernel
theorem witness_Win4Base : ownFn (.fn 5) 5 = true ∧ hostUp.serves (.fn 0) (viewOff (.fn 0) 5 HIF_WIN4_BASE_base) = true ∧
    ownFn (.fn 0) 5 = true ∧ (0x600000#64).toNat % 2 ^ 21 = 0 ∧ (0x600008#64).toNat % 2 ^ 21 ≠ 0 := by decide +kernel
theorem test_win4_base : (after (exec (.win4BaseWrite (.fn 0) 5 0x600000) hostUp) up).rd HIF_WIN4_BASE_base 5 = 3 ∧
    (after (exec (.win4BaseWrite (.fn 0) 5 0x600008) hostUp) up).on HIF_FN_STATUS_winErr 5 = true := by decide +kernel

/-! ### Functions of the host, and remote devices -/

theorem witness_RingCfg : let a := HIF_RQ_CFG_enable.addr 5
    let b := HIF_CQ_CFG_enable.addr 1
    up.serves (.fn 0) a = true ∧ up.writeOff (.fn 0) a = some a ∧ ringReg a = some (.inl 5) ∧ up.serves (.fn 0) b = true ∧
      up.writeOff (.fn 0) b = some b ∧ ringReg b = some (.inr 1) ∧ up.on HIF_RQ_CFG_enable 5 = false ∧ up.on HIF_CQ_CFG_enable 1 = false := by
  decide +kernel
/-- R293: a request ring has 16 to 4,096 entries. -/
theorem test_ring_cfg : let a := HIF_RQ_CFG_enable.addr 5
    let t := after (exec (.ringCfgWrite (.fn 0) a 0x70C1) up) up
    (t.on HIF_RQ_CFG_enable 5, t.rd HIF_RQ_CFG_sizeLog2 5, t.rd HIF_RQ_CFG_base 5, t.rings.get 5) = (true, 12, 7, ⟨0, true, 0⟩) ∧
      (after (exec (.ringCfgWrite (.fn 0) a 0x70D1) up) up).on HIF_FN_STATUS_cfgErr 1 = true ∧
      (after (exec (.ringCfgWrite (.fn 0) a 0x7031) up) up).on HIF_FN_STATUS_cfgErr 1 = true := by decide +kernel
theorem test_cq_cfg : let b := HIF_CQ_CFG_enable.addr 1
    (after (exec (.ringCfgWrite (.fn 0) b 0x7101) up) up).on HIF_CQ_CFG_enable 1 = true ∧
      (after (exec (.ringCfgWrite (.fn 0) b 0x70F1) up) up).on HIF_FN_STATUS_cfgErr 1 = true := by decide +kernel

/-- The body of a DMA entry: descriptor, host address, status address, flags, length. -/
def dmaBody (desc : List W64) (flags len : Nat) : List Byte :=
  desc.flatMap (fun w => leBytes 8 w.toNat) ++ leBytes (128 - 8 * desc.length) 0 ++ leBytes 8 0x1000 ++ leBytes 8 0x2000 ++ leBytes 4 flags ++
    leBytes 4 0 ++ leBytes 8 len
/-- 64 bytes of the Vat from 4096, or of half 0's region 0, which is sealed, or region 2, which is open. -/
def dmaT (space : Nat) (region : Nat := 0) : List W64 :=
  [BitVec.ofNat 64 (0xA01 + space * 2 ^ 12), if space = 0 then 4096 else BitVec.ofNat 64 (region * 2 ^ 21), 0, 0, 64, BitVec.ofNat 64 (64 + 2 ^ 26)]
/-- A part with one such transfer queued to engine 0. -/
def dmaQd (space flags len : Nat) : State := { hostUp.wr PART_STATUS_held 0 1 with dmaQ := NMap.set [] 0 [⟨0, 5, dmaBody (dmaT space) flags len⟩] }
def hostBytes : HostData := { bytes := List.replicate 64 0x11, poisoned := [], failAfter := none }
theorem witness_HostDma : let s := (dmaQd 0 8 64).settle
    let d : DmaReq := ⟨0, 5, dmaBody (dmaT 0) 8 64⟩
    let t := TDesc.ofWords (dmaDesc d.body)
    s.scans = true ∧ bit (s.rd SVC_QUAR_quarantined 0) 8 = false ∧ s.dmaQ.get 0 = d :: [] ∧ s.bound.get 0 = 0 ∧
      s.dmaUnit 0 (dmaPhysical d.body) t = 0 ∧ s.dmaCause d hostBytes = (0, 0) ∧ dmaDir d.body = 0 ∧ hostBytes.failAfter = none ∧
      ((imgPieces t).map (dmaAddr t 0)).Nodup ∧ t.space = 0 ∧ s.edgeOpen 2 = true ∧ ({ dmaQd 0 8 64 with slotCfg := 0 } : State).settle.edgeOpen 2 = false ∧
      { hostBytes with failAfter := some 1 }.failAfter = some 1 := by decide +kernel
/-- A fill of the open region. -/
def fills : State := { hostUp.wr PART_STATUS_held 0 1 with dmaQ := NMap.set [] 0 [⟨0, 5, dmaBody (dmaT 1 2) 2 64⟩] }
theorem witness_HostDmaFill : let s := fills.settle
    let d : DmaReq := ⟨0, 5, dmaBody (dmaT 1 2) 2 64⟩
    let t := TDesc.ofWords (dmaDesc d.body)
    s.dmaQ.get 0 = d :: [] ∧ s.dmaUnit 0 (dmaPhysical d.body) t = 0 ∧ s.dmaCause d hostBytes = (0, 0) ∧ dmaDir d.body = 2 ∧
      ((imgPieces t).map (dmaAddr t 0)).Nodup ∧ s.held = [] ∧ (∀ x ∈ imgPieces t, s.streaming (stkHalf (dmaAddr t 0 x)) (stkBank (dmaAddr t 0 x)) = false) ∧
      (∀ x ∈ imgPieces t, (s.region 0 (stkRegion (dmaAddr t 0 x))).sumOffset + 2 ^ 18 ≤ 2 ^ 21 ∧ ∀ y ∈ imgPieces t,
        0 * 2 ^ 14 + (s.region 0 (stkRegion (dmaAddr t 0 x))).sumRegion ≠ dmaAddr t 0 y / 2 ^ 21) := by decide +kernel
/-- R134: a fill lands in the open region. -/
theorem test_host_dma_fill : (after (exec (.hostDmaTransfer 0 hostBytes) fills) up).stkWord (2 * 2 ^ 21) =
    0x1111111111111111111111111111111111111111111111111111111111111111 := by decide +kernel
theorem witness_HostDmaOut : let d : DmaReq := ⟨0, 5, dmaBody (dmaT 1) 1 64⟩
    (dmaQd 1 1 64).settle.dmaCause d hostBytes = (0, 0) ∧ dmaDir d.body = 1 ∧ (TDesc.ofWords (dmaDesc d.body)).space = 1 ∧
      (dmaQd 0 3 64).dmaCause ⟨0, 5, dmaBody (dmaT 0) 3 64⟩ hostBytes = (0x0A04, 0) ∧
      (dmaQd 0 0 63).dmaCause ⟨0, 5, dmaBody (dmaT 0) 0 63⟩ hostBytes = (0x0A04, 0) := by decide +kernel
theorem test_host_dma : let t := (dmaQd 0 8 64).hostDma 0 hostBytes
    (t.vatWord 4096).toNat = 0x1111111111111111111111111111111111111111111111111111111111111111 ∧ (t.part 0).hostData = 1 := by decide +kernel
theorem test_host_dma_out : (after (exec (.hostDmaTransfer 0 hostBytes) (dmaQd 1 1 64)) up).out =
    [.hostWrite 0x1000 (leBytes 64 7) [], .hostWrite 0x2000 (statusBytes 5 0 0) []] := by decide +kernel

theorem witness_Flr : let s := { up with vfEnable := true, numVfs := 3, reqs := NMap.set [] 4 { st := .decode, vf := 3 } }
    s.boot.phase = .running ∧ s.fnEnabled (3 : Fin 64) = true ∧ s.fnEnabled (0 : Fin 64) = true ∧ (3 : Fin 64).val ≠ 0 ∧ 4 ∈ slots ∧
      (s.settle.req 4).live = true ∧ (s.settle.req 4).vf = 3 := by decide +kernel
theorem witness_Config : up.boot.phase = .running ∧ 2 ≤ up.rd PWR_STATUS_state 0 ∧ up.fnEnabled (1 : Fin 64) = false ∧ up.fnEnabled (0 : Fin 64) = true ∧
    State.reset.boot.phase = .held := by decide +kernel
theorem test_config : (after (exec (.configRequest 1 false 3 0) up) up).out = [.unsupported 1] ∧
    (after (exec (.configRequest 0 false 3 0) State.reset) up).out = [.config 0 true 0] := by decide +kernel

/-- Device 2 is reached by port 1. -/
def fwd : State := (((litUp 4 1 0).wr HIF_FWD_enable 1 1).wr HIF_FWD_port 1 1).wr HIF_RMT_ADDR_device 0 2
theorem witness_Rmt : fwd.serves (.fn 0) (HIF_RMT_CMD_read.addr 0) = true ∧ fwd.rd HIF_RMT_ADDR_device 0 = 2 ∧ fwd.on HIF_RMT_STATUS_busy 0 = false ∧
    fwd.fwdUp 2 = true ∧ (fwd.wr HIF_RMT_ADDR_device 0 3).fwdUp 3 = false ∧ (fwd.wr HIF_RMT_STATUS_busy 0 1).on HIF_RMT_STATUS_busy 0 = true ∧
    fwd.fwdPort 2 = 1 := by decide +kernel
/-- R301: a device that cannot be reached ends the access at once. -/
theorem test_rmt : (after (exec (.rmtWrite (.fn 0)) (fwd.wr HIF_RMT_ADDR_device 0 3)) up).rd HIF_RMT_STATUS_cause 0 = 1 := by decide +kernel
/-- A remote read under way since 5. -/
def asks (dt : Nat) : State := { fwd with rmt := some ⟨2, false, 5⟩, aon := { dt := dt } }
theorem witness_RmtTimeout : (asks 100005).rmt = some ⟨2, false, 5⟩ ∧ 5 + 100000 ≤ (asks 100005).dt ∧ (asks 100004).dt < 5 + 100000 := by decide +kernel
theorem test_rmt_timeout : (after (exec .rmtTimeout (asks 100005)) up).rmt = none ∧ (after (exec .rmtTimeout (asks 100004)) up).rmt = some ⟨2, false, 5⟩ := by
  decide +kernel
/-- What the cells say is a free value; every other hypothesis about them is met. -/
theorem witness_MgmtCell : let c := ctlCell 3 0 0 0
    let s := asks 6
    4 ≤ s.portState 1 ∧ s.portState 1 ≤ 6 ∧ bit (s.rd SVC_QUAR_quarantined 0) (12 + 1) = false ∧ c.typ = 3 ∧ (s.port 1).turn c = true ∧
      s.rmt = some ⟨2, false, 5⟩ ∧ s.fwdPort 2 = 1 ∧ s.reaches .core = true ∧ regAccessOk (PWR_STATUS_state.addr 0) 8 = true ∧
      s.serve .core (PWR_STATUS_state.addr 0) = .now ∧ s.serves .core (HIF_FWD_enable.addr 1) = true ∧ 0 ∉ s.masked ∧
      (let z := s.wr LRT_PORT_STATUS_state 2 4; ∃ i < 16, i ≠ 1 ∧ 4 ≤ z.portState i ∧ z.portState i ≤ 7) := by decide +kernel

/-! ### Management and attestation -/

theorem witness_Mctp : up.controlServed false = true ∧ State.reset.controlServed true = false ∧ up.mgmtRuns = true ∧ State.reset.mgmtRuns = false ∧
    ([1, 2] : List Byte).length ≤ 64 ∧ up.on BOOT_STATUS_identityOk 0 = false ∧ (up.wr BOOT_STATUS_identityOk 0 1).on BOOT_STATUS_identityOk 0 = true := by
  decide +kernel
/-- R362: a part in FAILED answers control on I3C and nothing else. -/
theorem test_mctp_failed : let s := { up with boot := { up.boot with phase := .failed } }
    (after (exec (.mctpControl true []) s) up).out.length = 1 ∧ (after (exec (.mctpControl false []) s) up).out = [] ∧
      (after (exec (.getVersion true) s) up).out = [] := by decide +kernel
theorem witness_Attest : ownFn (.fn 3) 3 = true ∧ up.serves (.fn 0) (viewOff (.fn 0) 3 BOOT_ATTEST_CMD_start) = true ∧ ownFn (.fn 0) 3 = true ∧
    up.boot.phase = .running ∧ up.on BOOT_ATTEST_STATUS_busy 3 = false ∧ (up.wr BOOT_ATTEST_STATUS_busy 3 1).on BOOT_ATTEST_STATUS_busy 3 = true := by
  decide +kernel
theorem test_attest : let t := after (exec (.attestRequest (.fn 0) 3 9) up) up
    t.boot.attest = [(3, 0, 9)] ∧ (after (exec (.attestRequest (.fn 0) 3 9) t) up).on BOOT_ATTEST_STATUS_lost 3 = true := by decide +kernel

/-! ### Repair -/

/-- A part whose quarter q has a service state and power. -/
def quarterIn (q : Nat) (svc : QSvc) (power : QPower) : State := up.setQ q (fun x => { x with svc := svc, power := power })
theorem witness_RepairBusy : let s := up.wr INT_REPAIR_STATUS_busy 0 1
    s.serves (.fn 0) (INT_REPAIR_CMD_op.addr 0) = true ∧ s.on INT_REPAIR_STATUS_busy 0 = true ∧ lanesOk [] = true := by decide +kernel
theorem witness_FenceQuarter : up.repairs (.fn 0) ∧ (up.q 5).svc = .none ∧ up.holder 5 = none := by unfold State.repairs; decide +kernel
theorem test_fence_quarter : let t := after (exec (.fenceQuarter (.fn 0) 5) up) up
    ((t.q 5).svc, (t.q 5).power, t.rd INT_REPAIR_STATUS_done 0) = (.fenced, .waking, 1) := by decide +kernel
/-- A partition in a state that holds quarter 5. -/
def holds5 (st : Nat) : State := (up.wr PART_STATUS_state 2 st).wr PART_STATUS_held 2 32
theorem witness_FenceHeld : let s := holds5 2
    s.repairs (.fn 0) ∧ (s.q 5).svc = .none ∧ s.holder 5 = some (2 : Fin 16).val ∧ (∀ k < 16, k ≠ 2 → bit (s.rd PART_STATUS_held k) 5 = false) ∧
      s.pstate 2 = 2 ∧ (holds5 7).pstate 2 = 7 ∧ (holds5 7).repairs (.fn 0) := by unfold State.repairs; decide +kernel
theorem test_fence_held : let t := after (exec (.fenceQuarter (.fn 0) 5) (holds5 2)) up
    (t.pstate 2, (t.q 5).svc) = (0, .fenced) ∧ (after (exec (.fenceQuarter (.fn 0) 5) (holds5 7)) up).repair = some ⟨1, 81, 5, 0, none⟩ := by decide +kernel
theorem witness_FenceAgain : (quarterIn 5 .fenced .on).repairs (.fn 0) ∧ ((quarterIn 5 .fenced .on).q 5).svc ≠ .none ∧
    ((quarterIn 5 .retired .off).q 5).svc ≠ .fenced := by unfold State.repairs; decide +kernel
theorem witness_Unfence : let s := quarterIn 5 .fenced .on
    s.repairs (.fn 0) ∧ (s.q 5).svc = .fenced ∧ (s.q 5).bistRun = false ∧ (s.q 5).linkBad = false ∧ bit s.dieFence (5 / 4) = false ∧
      ((s.setQ 5 (fun x => { x with bistRun := true })).q 5).bistPass = false := by unfold State.repairs; decide +kernel
theorem test_unfence : ((after (exec (.unfenceQuarter (.fn 0) 5) (quarterIn 5 .fenced .on)) up).q 5).svc = .none ∧
    (after (exec (.unfenceQuarter (.fn 0) 5) (quarterIn 5 .retired .off)) up).rd INT_REPAIR_STATUS_cause 0 = 1 := by decide +kernel
theorem test_bist : let t := after (exec (.bist (.fn 0) 5) (quarterIn 5 .fenced .on)) up
    ((t.q 5).svc, t.repair) = (.test, some ⟨3, 83, 5, 0, none⟩) := by decide +kernel
def bistOk : BistResult := ⟨0, 0, false, false, false, false, false, 0⟩
/-- Quarter 5 under BIST. -/
def testing : State := { (quarterIn 5 .test .on).vatPut (5 * 2 ^ 26) 9 false with repair := some ⟨3, 83, 5, 0, none⟩ }
theorem witness_BistComplete : testing.memWf ∧ testing.repair = some ⟨3, 83, (5 : Fin 16), 0, none⟩ ∧ bistOk.press < 16 ∧
    { bistOk with burin := 255 }.burin < 256 ∧ bistOk.spareBurin < 4 := by decide +kernel
theorem test_bist_complete : let t := after (exec (.bistComplete 5 { bistOk with burin := 2 }) testing) up
    (t.vat, (t.q 5).svc, (t.q 5).bistPass, t.rd INT_BIST_burin 5) = ([], .fenced, false, 2) := by decide +kernel
theorem witness_Substitute : let s := quarterIn 5 .fenced .on
    s.repairs (.fn 0) ∧ (s.q 5).svc = .fenced ∧ (3 : Fin 8).val < 4 ∧ s.on INT_SPARE_pressUsed (5 / 4) = false ∧ 3 * (5 / 4) ∉ s.badSpares ∧
      s.on INT_SPARE_burin0Used (5 / 4) = false ∧ 3 * (5 / 4) + 1 ∉ s.badSpares ∧ 3 ∈ ({ s with badSpares := [3] } : State).badSpares := by
  unfold State.repairs; decide +kernel
theorem test_substitute : let t := after (exec (.substitute (.fn 0) 5 false 3) (quarterIn 5 .fenced .on)) up
    (t.rd INT_SPARE_pressFor 1, t.boot.list.map (·.op)) = (7, [4]) ∧
      (after (exec (.substitute (.fn 0) 5 true 7) (quarterIn 5 .fenced .on)) up).rd INT_SPARE_burin0For 1 = 15 := by decide +kernel
theorem test_repair_invalid : (after (exec (.repairCmdInvalid (.fn 0) 11) up) up).rd INT_REPAIR_STATUS_cause 0 = 5 := by decide +kernel
theorem witness_FenceDie : up.repairs (.fn 0) ∧ bit up.dieFence 1 = false ∧ (∀ i < 4, up.holder (4 * 1 + i) = none) := by
  unfold State.repairs; decide +kernel
theorem test_fence_die : let t := after (exec (.fenceDie (.fn 0) 1) (portAt 6)) up
    (t.dieFence, (t.q 5).power, (t.q 5).svc, t.boot.list.map (·.op)) = (2, .off, .fenced, [6]) := by decide +kernel
/-- Die 1 is off, a word of its Vat left; link 3 of it has a group whose spare is used. -/
def dieOff1 : State := { ((quarterIn 5 .fenced .off).vatPut (5 * 2 ^ 26) 9 false).wr STK_LANE_SPARE_spareUsed 3 4 with dieFence := 2 }
/-- R156: a lane of group 1 of link 2 is bad. -/
def oneLane : List (Nat × Nat × Nat) := [(2, 1, 31)]
theorem witness_UnfenceDie : dieOff1.repairs (.fn 0) ∧ bit dieOff1.dieFence 1 = true ∧ dieOff1.memWf ∧ lanesOk oneLane = true ∧
    (dieOff1.trainLanes oneLane (2 * 1)).2 = true ∧ (dieOff1.trainLanes oneLane (2 * 1 + 1)).2 = true ∧ lanesOk [(3, 2, 0)] = true ∧
    (dieOff1.trainLanes [(3, 2, 0)] (2 * 1 + 1)).2 = false ∧ bit up.dieFence 1 = false := by unfold State.repairs; decide +kernel
theorem test_unfence_die : let t := after (exec (.unfenceDie (.fn 0) 1 ⟨true, oneLane⟩) dieOff1) up
    (t.dieFence, (t.q 5).power, (t.q 5).svc, t.vat, t.rd STK_LANE_SPARE_spareUsed 2) = (0, .on, .fenced, [], 2) ∧
      (after (exec (.unfenceDie (.fn 0) 1 ⟨true, [(3, 2, 0)]⟩) dieOff1) up).rd INT_REPAIR_STATUS_cause 0 = 1 := by decide +kernel

/-! ### Retirement, refetch, scrubs -/

theorem witness_Retire : let s := up
    s.repairs (.fn 0) ∧ s.halfUp (3 : Fin 16) = true ∧ (s.rowMap.filter (fun e => e.1 == 3 && e.2.1 == 9)).length < 32 ∧
      32 ≤ (({ s with rowMap := List.replicate 32 (3, 9, 0) } : State).rowMap.filter (fun e => e.1 == 3 && e.2.1 == 9)).length ∧
      s.mapped 3 7 = none ∧ (({ s with maps := [(0, regionKey 3 7)] } : State).mapped 3 7).isSome = true ∧
      ((quarterIn 5 .fenced .on).q 5).svc = .fenced ∧ (s.q 5).svc ≠ .fenced ∧ (quarterIn 5 .fenced .on).memWf ∧
      (quarterIn 5 .fenced .on).repairs (.fn 0) := by unfold State.repairs; decide +kernel
theorem test_retire_row : (after (exec (.retire (.fn 0) 0 0 3 0 9) (up.wr INT_REPAIR_ARG_arg 0 0x18001)) up).rowCopy = some ⟨3, 9, 1, 0⟩ := by decide +kernel
theorem test_retire_page : ((after (exec (.retire (.fn 0) 1 0 3 7 0) up) up).region 3 7).retired = true := by decide +kernel
theorem test_retire_half : let t := after (exec (.retire (.fn 0) 3 5 0 0 0) (quarterIn 5 .fenced .on)) up
    ((t.q 5).svc, t.boot.list.map (·.op)) = (.retired, [5]) := by decide +kernel
/-- A row copy at frame 0, in frame n. -/
def copies (n : Nat) : State :=
  { (up.wr PKG_GRID_FRAME_gridFrame 0 n) with rowCopy := some ⟨3, 9, 1, 0⟩, repair := some ⟨5, 5, 3, 0, none⟩, regions := NMap.set [] (regionKey 3 0) { kind := 1 } }
theorem witness_RowCopy : let c : RowCopy := ⟨3, 9, 1, 0⟩
    (copies 128).settle.rowCopy = some c ∧ (copies 128).settle.repair = some ⟨5, 5, 3, 0, none⟩ ∧ c.since + 128 ≤ (copies 128).settle.frameNow ∧
      (copies 127).settle.frameNow < c.since + 128 ∧ (copies (2 ^ 20)).rowCopy = some c ∧ c.since + 2 ^ 20 ≤ (copies (2 ^ 20)).frameNow ∧ (copies (2 ^ 20 - 1)).frameNow < c.since + 2 ^ 20 := by
  decide +kernel
theorem test_row_copy : (after (exec .rowCopySwitch (copies 127)) up).rowMap = [] ∧
    (after (exec .rowCopyTimeout (copies (2 ^ 20))) up).rd INT_REPAIR_STATUS_cause 0 = 6 := by decide +kernel
theorem witness_RegionInit : up.repairs (.fn 0) ∧ up.mapped 3 7 = none ∧ up.halfUp (3 : Fin 16) = true ∧ ({ up with dieFence := 1 } : State).halfUp 3 = false := by
  unfold State.repairs; decide +kernel
/-- Region 7 of half 3 is initialised since frame 0; region 8 beside it holds a word. -/
def inits (n : Nat) : State :=
  { (up.wr PKG_GRID_FRAME_gridFrame 0 n) with
    repair := some ⟨8, 8, regionKey 3 7, 0, none⟩, regions := NMap.set (NMap.set [] (regionKey 3 7) { kind := 1 }) (regionKey 3 8) { kind := 1 } }
  |>.stkPut (regionKey 3 7 * 2 ^ 21 + 32) 5 true |>.stkPut (regionKey 3 8 * 2 ^ 21) 6 false
theorem witness_RegionInitDone : (inits 512).settle.repair = some ⟨8, 8, regionKey 3 7, 0, none⟩ ∧ (inits 512).settle.memWf ∧ 0 + 512 ≤ (inits 512).settle.frameNow ∧
    (inits 512).settle.kindOf (regionKey 3 7 / 16384) (regionKey 3 7 % 16384) ≠ 0 ∧ (inits 511).settle.frameNow < 0 + 512 := by decide +kernel
theorem test_region_init : let t := after (exec .regionInitDone (inits 512)) up
    (t.stkWord (regionKey 3 7 * 2 ^ 21 + 32), t.stkWord (regionKey 3 8 * 2 ^ 21)) = (0, 6) := by decide +kernel
theorem witness_RefetchHost : let h : HostData := { bytes := List.replicate (2 ^ 21) 1, poisoned := [], failAfter := some 2 }
    h.bytes.length = 2 ^ 21 ∧ h.poisoned = [] ∧ h.hub = [] ∧ h.failAfter = some 2 ∧ ({ h with failAfter := none } : HostData).failAfter = none ∧
      2 ∈ ({ h with hub := [2] } : HostData).hub :=
  ⟨List.length_replicate .., rfl, rfl, rfl, rfl, List.mem_singleton.mpr rfl⟩
theorem witness_RefetchState : up.repairs (.fn 0) ∧ up.rd INT_REPAIR_ARG_arg 0 % 4096 = 0 ∧ up.halfUp (3 : Fin 16) = true ∧
    bit (up.rd SVC_QUAR_quarantined 0) 11 = false ∧ sealedKind ((inits 0).kindOf 3 7) = true ∧ (inits 0).serves (.fn 0) (INT_REPAIR_CMD_op.addr 0) = true := by
  unfold State.repairs; decide +kernel
/-- Half 3 is refetched by port 5 of its die 0, or by one of another die. -/
def peers (st port : Nat) : State :=
  { ((up.wr LRT_PORT_STATUS_state port st).wr INT_REPAIR_ARG_arg 0 port) with regions := NMap.set [] (regionKey 3 7) { kind := 1 } }
theorem witness_RefetchPeer : (peers 6 1).repairs (.fn 0) ∧ bits ((peers 6 1).rd INT_REPAIR_ARG_arg 0) 0 4 = 1 ∧ 1 / 4 = (3 : Fin 16).val / 4 ∧
    5 / 4 ≠ (3 : Fin 16).val / 4 ∧ (peers 6 1).halfUp (3 : Fin 16) = true ∧ sealedKind ((peers 6 1).kindOf 3 7) = true ∧
    ((peers 6 1).freeWins (3 / 4)).head? = some 128 ∧ (peers 6 1).portState 1 = 6 ∧ (peers 4 1).portState 1 ≠ 6 := by unfold State.repairs; decide +kernel
theorem test_refetch_peer : let t := after (exec (.refetchPeer (.fn 0) 3 7) (peers 6 1)) up
    ((t.win 128).state, (t.win 128).mask, t.repair.map (·.peer)) = (1, 2, some (some (1, 128))) ∧
      (after (exec (.refetchPeer (.fn 0) 3 7) (peers 6 5)) up).rd INT_REPAIR_STATUS_cause 0 = 5 := by decide +kernel
/-- A refetch whose window has counted so many bytes. -/
def arrived (n : Nat) : State :=
  { (up.wr PKG_GRID_FRAME_gridFrame 0 512) with repair := some ⟨10, 10, regionKey 3 7, 0, some (1, 128)⟩, wins := NMap.set [] 128 { state := 1, bytes := n } }
theorem witness_RefetchVerify : let r : Repair := ⟨10, 10, regionKey 3 7, 0, some (1, 128)⟩
    let u := (arrived (2 ^ 21)).settle
    u.repair = some r ∧ u.refetchArrived r = true ∧ r.since + 512 ≤ u.frameNow ∧ mwf default u.reqs = true ∧
      (arrived (2 ^ 21 - 32)).settle.refetchArrived r = false ∧ u.stk = [] ∧ u.stkCode = [] := by decide +kernel

/-- Half 0's region 0 is sealed, frames run, and its first words are poisoned or have an error in one bit. -/
def scrubUp : State := { dmaUp.setQ 0 (fun x => { x with power := .on }) with grid := { cur := true } }
theorem witness_Scrub : let a := stkAddr 0 0 0 0
    let u := scrubUp.settle
    u.scrubs = true ∧ u.rd INT_SCRUB_CFG_stackInterval 0 ≠ 0 ∧ u.rd INT_SCRUB_CFG_vatInterval 0 ≠ 0 ∧
      u.bankScrubbed (0 : Fin 16) (0 : Fin 512) = true ∧ u.nextSealed 0 0 (u.scrubStk.get 0) = some 0 ∧
      (u.stkEcc a).res = .clean ∧ ((u.stkRaw a 6 (eccCode 7 false)).stkEcc a).res ≠ .clean ∧ u.vatScrubbed (0 / 256) = true ∧
      u.scrubVat.get 0 < 6144 ∧ (u.vatEcc 0).res = .clean ∧ ((u.vatRaw 0 6 (eccCode 7 false)).vatEcc 0).res ≠ .clean := by
  decide +kernel
/-- R310, R311: a word with one bad bit is to be rewritten with what was written. -/
theorem test_scrub_stack : (after (exec (.scrubStackWord 0 0) (scrubUp.stkRaw 0 6 (eccCode 7 false))) up).held.map (fun h => (h.data, h.code, h.scrub)) =
    [(7, eccCode 7 false, true)] := by decide +kernel
theorem test_scrub_vat : (after (exec (.scrubVatWord 0) (scrubUp.vatRaw 0 6 (eccCode 7 false))) up).vatWord 0 = 7 := by decide +kernel
/-- Three unread entries from head 1022 on. -/
def logUp : State := (up.wr INT_LOG_HEAD_head 0 1022).wr INT_LOG_STATUS_unread 0 3
theorem witness_LogHead : logUp.serves (.fn 0) (INT_LOG_HEAD_head.addr 0) = true ∧ ((1#64).toNat % 1024 + 1024 - logUp.rd INT_LOG_HEAD_head 0) % 1024 ≤ logUp.rd INT_LOG_STATUS_unread 0 ∧
    logUp.rd INT_LOG_STATUS_unread 0 < ((2#64).toNat % 1024 + 1024 - logUp.rd INT_LOG_HEAD_head 0) % 1024 := by decide +kernel
theorem test_log_head : (after (exec (.logHeadWrite (.fn 0) 1) logUp) up).rd INT_LOG_STATUS_unread 0 = 0 ∧
    (after (exec (.logHeadWrite (.fn 0) 2) logUp) up).rd INT_LOG_HEAD_head 0 = 1022 := by decide +kernel

/-! ### Supply, temperature, trips -/

theorem witness_SupplyReading : let s := up.wr PWR_CFG_capW 0 500
    s.aon.powered = true ∧ supplyRowOf 4800 = 0 ∧ supplyRowOf 5701 = 1 ∧ supplyRowOf 4049 = 2 ∧ supplyRowOf 3599 = 3 ∧ supplyRowOf 6001 = 4 ∧
      s.pwr.supplyRow = 0 ∧ 100 * s.rd PWR_CFG_capW 0 = 50000 ∧ s.rd PWR_STATUS_levelP 0 < 4 ∧
      4 ≤ (s.wr PWR_STATUS_levelP 0 4).rd PWR_STATUS_levelP 0 := by decide +kernel
/-- R329: 501 W above a cap of 500 W raises L_p; R328: 40 V is an abnormal row. -/
theorem test_supply_reading : let f (v w : Nat) := let t := after (exec (.supplyReading v 100 w) (up.wr PWR_CFG_capW 0 500)) up
      (t.rd PWR_STATUS_levelP 0, t.on PWR_STATUS_cap 0, t.on PWR_STATUS_supply 0)
    f 4800 500 = (0, false, false) ∧ f 4800 501 = (1, true, false) ∧ f 4000 500 = (0, false, true) := by decide +kernel
/-- A window of readings, all below 36 V. -/
def lowWin (anyR allLow : Bool) : State := { up with pwr := { up.pwr with anySupply := anyR, allLow := allLow, allHigh := false } }
theorem witness_SupplyWindow : (lowWin true true).pwr.anySupply = true ∧ (lowWin true true).rd PWR_STATUS_state 0 = 2 ∧ (lowWin true true).pwr.allLow = true ∧
    (lowWin true true).pcmd = none ∧ (lowWin true true).repair = none ∧ (lowWin false true).pwr.anySupply = false ∧ (lowWin true false).pwr.allLow = false ∧
    (lowWin true false).pwr.allHigh = false := by decide +kernel
theorem test_supply_window : (after (exec .supplyWindowEnd (lowWin true true)) up).rd PWR_STATUS_state 0 = 3 ∧
    (after (exec .supplyWindowEnd (lowWin true false)) up).rd PWR_STATUS_state 0 = 2 := by decide +kernel
theorem witness_Windows : let s := (up.wr PWR_STATUS_levelP 0 2).wr PWR_STATUS_levelT 0 1
    s.pwr.allUnder = true ∧ s.rd PWR_STATUS_levelP 0 ≠ 0 ∧ s.pwr.allCool = true ∧ s.rd PWR_STATUS_levelT 0 ≠ 0 ∧ up.rd PWR_STATUS_levelP 0 = 0 ∧
      ({ s with pwr := { s.pwr with allCool := false } } : State).pwr.allCool = false := by decide +kernel
theorem test_windows : let s := (up.wr PWR_STATUS_levelP 0 2).wr PWR_STATUS_levelT 0 1
    (after (exec .limiterWindowEnd s) up).rd PWR_STATUS_level 0 = 1 ∧ (after (exec .thermalWindowEnd s) up).rd PWR_STATUS_levelT 0 = 0 := by decide +kernel
/-- R338 to R340: the thresholds of each class in 1/16 °C. -/
theorem witness_Zone : zoneClass 3 = 0 ∧ zoneClass 4 = 1 ∧ zoneClass 12 = 2 ∧ zoneClass 16 = 0 ∧ zoneNext 0 0 1519 = 0 ∧ zoneNext 0 0 1520 = 1 ∧
    zoneNext 0 2 1600 = 2 ∧ zoneNext 0 2 1599 = 1 ∧ zoneReaches 0 1648 0 2 = true ∧ zoneReaches 0 1647 0 2 = false ∧ zoneReaches 0 1760 0 3 = true ∧
    zoneReaches 1 1679 0 3 = false ∧ zoneReaches 2 1520 0 3 = true ∧ up.rd PWR_STATUS_state 0 ≠ 4 ∧ up.aon.powered = true ∧
    (up.zones.get 3).prev = none ∧ up.rd PWR_STATUS_levelT 0 < 4 := by decide +kernel
theorem test_zone_reading : let t := after (exec (.zoneReading 3 1648) up) up
    (t.rd PWR_STATUS_levelT 0, t.rd PWR_ZONE_state 3, t.rd PWR_STATUS_state 0) = (1, 2, 2) ∧
      (after (exec (.zoneReading 3 1760) up) up).rd PWR_STATUS_state 0 = 3 := by decide +kernel
/-- R340: an optical zone takes its engine's ports DOWN. -/
theorem test_zone_optical : let t := after (exec (.zoneReading 12 1520) (portAt 6)) up
    (t.portState 1, (t.port 1).heldDown, t.rd PWR_STATUS_state 0) = (1, true, 2) := by decide +kernel
/-- A shutdown that began at 100. -/
def shuts (dt : Nat) : State := { up.wr PWR_STATUS_state 0 3 with pwr := { up.pwr with shutAt := some 100 }, aon := { dt := dt } }
theorem witness_Grace : (shuts 200100).pwr.shutAt = some 100 ∧ (shuts 200100).rd PWR_STATUS_state 0 = 3 ∧ 100 + 200000 ≤ (shuts 200100).dt ∧
    (shuts 200099).dt < 100 + 200000 ∧ (∀ p < 16, (shuts 200100).pstate p = 0) ∧ (∀ j < 16, (shuts 200100).portState j < 6) ∧
    (∀ p < 16, ((shuts 200100).part p).closing = none) := by decide +kernel
theorem witness_HardTrip : up.aon.powered = true ∧ up.rd PWR_STATUS_state 0 ≠ 4 ∧ (up.wr PWR_STATUS_state 0 4).rd PWR_STATUS_state 0 = 4 ∧
    up.aon.refLost = false ∧ State.reset.boot.phase = .held ∧ State.reset.aon.refLost = false ∧ up.boot.phase ≠ .held := by decide +kernel

/-! ### Dormant and wake -/

theorem witness_Dormant : up.serves (.fn 0) (PWR_CMD_op.addr 0) = true ∧ up.rd PWR_STATUS_state 0 = 2 ∧ up.quiet = true ∧ up.on INT_REPAIR_STATUS_busy 0 = false ∧
    dormant.rd PWR_STATUS_state 0 = 0 ∧ dormant.serves (.fn 0) (PWR_CMD_op.addr 0) = true ∧ (inState 2 16).quiet = false ∧
    (inState 2 16).rd PWR_STATUS_state 0 ≠ 0 := by decide +kernel
theorem test_dormant : (after (exec (.dormant (.fn 0)) (portAt 6)) up).portState 1 = 4 ∧
    (after (exec (.dormant (.fn 0)) (inState 2 16)) up).on PWR_STATUS_dormantRefused 0 = true := by decide +kernel
/-- R336: 3 ms without work. -/
def idles (dt : Nat) : State := { up.wr PWR_CFG_autoDormantMs 0 3 with aon := { dt := dt } }
theorem witness_AutoDormant : (idles 300000).rd PWR_CFG_autoDormantMs 0 = 3 ∧ (idles 300000).aon.idleSince + 100000 * 3 ≤ (idles 300000).dt := by decide +kernel
theorem test_auto_dormant : (after (exec .autoDormant (idles 300000)) up).rd PWR_STATUS_state 0 = 0 ∧
    (after (exec .autoDormant (idles 299999)) up).rd PWR_STATUS_state 0 = 2 := by decide +kernel
theorem witness_Wake : let s := { (dormant.wr PWR_WAKE_CFG_src 0 12).wr PWR_WAKE_AT_dt 0 70 with aon := { dt := 70 } }
    s.serves (.fn 0) (PWR_CMD_op.addr 0) = true ∧ s.rd PWR_STATUS_state 0 = 0 ∧ s.pwr.overVolt = false ∧ bit (s.rd PWR_WAKE_CFG_src 0) 3 = true ∧
      s.rd PWR_WAKE_AT_dt 0 ≠ 0 ∧ s.rd PWR_WAKE_AT_dt 0 ≤ s.dt ∧ bit (s.rd PWR_WAKE_CFG_src 0) 0 = false ∧ up.rd PWR_STATUS_state 0 ≠ 0 := by decide +kernel
theorem test_wake : (after (exec (.wake (.fn 0)) dormant) up).rd PWR_STATUS_state 0 = 1 ∧ (after (exec (.wakeEvent 2) dormant) up).rd PWR_STATUS_state 0 = 1 ∧
    (after (exec (.wakeEvent 1) dormant) up).rd PWR_STATUS_state 0 = 0 := by decide +kernel
theorem witness_WakeComplete : let s := up.wr PWR_STATUS_state 0 1
    s.rd PWR_STATUS_state 0 = 1 ∧ s.boot.phase = .running ∧ s.heldAccess = [] ∧ s.rd PWR_WAKE_CFG_resume 0 = 0 ∧ (∀ l ∈ [5], l < 6) ∧ (∀ k ∈ [7], k < 8) := by
  decide +kernel
/-- R332: a write of PWR_CFG_capW that waits for the end of the wake. -/
abbrev capW : Nat := PWR_CFG_capW.addr 0
def heldCap : State := { up.wr PWR_STATUS_state 0 1 with heldAccess := [{ src := .fn 0, off := capW, write := some (8, 3000), port := none }] }
theorem witness_WakeHeld : let w := { heldCap.awake [] [] with heldAccess := [] }
    heldCap.heldAccess = [{ src := .fn 0, off := capW, write := some (8, 3000), port := none }] ∧ w.serves (.fn 0) capW = true ∧
      w.writeOff (.fn 0) capW = some capW ∧ needsRow capW 8 3000 = false := by decide +kernel
theorem test_wake_held : (after (exec (.wakeComplete [] []) heldCap) up).reg capW = 3000 := by decide +kernel
theorem test_wake_complete : let t := after (exec (.wakeComplete [] [7]) (up.wr PWR_STATUS_state 0 1)) up
    (t.rd PWR_STATUS_state 0, (t.q 14).linkBad, (t.q 15).svc, (t.q 13).svc) = (2, true, .fenced, .none) := by decide +kernel
/-- Quarter 4 wakes for a LOAD of partition 0, its last. -/
def wakes : State := { (inState 1 16).setQ 4 (fun x => { x with power := .waking }) with pcmd := some ⟨1, 0, some good, .waking⟩ }
theorem witness_QuarterWake : let s := quarterIn 4 .none .waking
    s.memWf ∧ (s.q 4).power = .waking ∧ (up.q 4).power ≠ .waking ∧ s.pcmd = none ∧ (∀ k < 16, s.pstate k ≠ 6) ∧ wakes.memWf ∧
      wakes.pcmd = some ⟨1, 0, some good, .waking⟩ ∧ (wakes.q 4).power = .waking ∧ (∀ k < 16, wakes.pstate k ≠ 6) ∧
      (∀ k ∈ wakes.maskOf 0, k ≠ 4 → (wakes.q k).power = .on) := by decide +kernel
theorem test_quarter_wake : let t := after (exec (.quarterWakeDone 4) wakes) up
    ((t.q 4).power, (t.part 0).starting, t.pcmd) = (.on, true, none) := by decide +kernel
/-- Quarter 4 is unheld since 0, for 20 µs to go OFF. -/
def unheld (dt : Nat) : State := { (quarterIn 4 .none .on).wr PWR_CFG_idleOffUs 0 20 with aon := { dt := dt } }
theorem witness_QuarterIdle : (unheld 2000).rd PWR_CFG_idleOffUs 0 = 20 ∧ (unheld 2000).holder 4 = none ∧ ((unheld 2000).q 4).svc = .none ∧
    ((unheld 2000).q 4).power = .on ∧ ((unheld 2000).q 4).unheldSince + 100 * 20 ≤ (unheld 2000).dt ∧
    (unheld 1999).dt < ((unheld 1999).q 4).unheldSince + 100 * 20 ∧ (unheld 0).memWf := by decide +kernel
theorem test_quarter_idle : ((after (exec (.quarterIdleOff 4) (unheld 2000)) up).q 4).power = .off ∧
    ((after (exec (.quarterIdleOff 4) (unheld 1999)) up).q 4).power = .on := by decide +kernel

/-! ### Resets and boot -/

/-- The SHA3-512 digests of an empty key and of the body below. -/
def noKey : W512 :=
  2032185109136100497347277046002761906096929499779616884567684664036691428639899180348028630442493768911811670683214844317028620902108902752392100072103846
def bodyDigest : W512 :=
  564196409558355840806397254914360443082802655495227618258080631082171082400463710480089433005350365712899481273822487609367718237144369927467415212486148
/-- A body of two empty sections, of types 1 and 2 (R354). -/
def body2 : List Byte := leBytes 4 2 ++ [1, 2].flatMap (fun ty => leBytes 4 ty ++ leBytes 4 0 ++ leBytes 8 52 ++ leBytes 8 0)
/-- A copy of a sequence and security version that passes every check of R357 under the fuses of `vendorFuses`. -/
def img (sequence : Nat) (svn : Nat := 0) : ImageCopy :=
  { magic := boloMagic, headerVersion := 1, target := 0x48, svn := svn, sequence := sequence, bodyLength := 52, flags := 0, bodyDigest := bodyDigest,
    vendorKey := [], vendorSigOk := true, ownerKey := [], ownerSigOk := false, body := body2 }
/-- Fuses whose first vendor slot holds the hash of that key. -/
def vendorFuses (svn : Nat := 0) : Fuses := { vendor0 := noKey, svn := svn }
theorem digest_noKey : sha3 [] = noKey := by decide +kernel
theorem digest_body : sha3 body2 = bodyDigest := by decide +kernel
/-- R357: that copy passes where its security version is not below the fuses', and fails check 7 where it is. -/
theorem img_cause (sequence svn min : Nat) : (vendorFuses min).copyCause (img sequence svn) = if svn < min then 7 else 0 := by
  have h1 : (img sequence svn).vendorKeySha = noKey := digest_noKey
  have h2 : (img sequence svn).sectionsOk = true := by
    have : (img sequence svn).sectionsOk = (img 0 0).sectionsOk := rfl
    rw [this]; decide +kernel
  have h3 : sha3 ((img sequence svn).body.take (img sequence svn).bodyLength) = bodyDigest := digest_body
  have h4 : (vendorFuses min).headCause (img sequence svn) = if svn < min then 7 else 0 := by
    by_cases h : svn < min <;> simp only [Fuses.headCause, h1] <;> simp [img, vendorFuses, Fuses.vendorOk, ImageCopy.ownerSigned, bit, h]
  have h5 : bodyCause (img sequence svn) = 0 := by simp only [bodyCause, h2, h3]; simp [img]
  by_cases h : svn < min <;> simp [Fuses.copyCause, h4, h5, h]
/-- A part in reset with these copies. -/
def heldUp (a b : Option ImageCopy) : State := { State.reset with boot := { fuses := vendorFuses, copyA := a, copyB := b } }
theorem witness_Reset : findingsOk cleanBoot = true ∧ up.serves (.fn 0) (BOOT_RESET_CMD_op.addr 0) = true ∧ State.reset.aon.refLost = false ∧
    ({ State.reset with aon := { refLost := true } } : State).aon.refLost = true ∧ findingsOk { cleanBoot with fuseBad := some 3 } = true ∧
    up.aon.powered = true ∧ up.boot.phase = .running ∧ State.reset.boot.phase = .held ∧ up.rd BOOT_STATUS_copy 0 = 0 ∧
    findingsOk { cleanBoot with hot := some (3, 1760) } = true ∧ findingsOk { cleanBoot with hot := some (3, 1759) } = false ∧
    findingsOk { cleanBoot with hot := some (12, 1760) } = false := by decide +kernel
theorem witness_ResetRef : let a : Aon := { refLost := true }
    let s : State := { heldUp none none with aon := a, boot := { phase := .refHeld } }
    s.aon.refLost = true ∧ s.boot.phase = .refHeld ∧ s.aon.powered = true ∧ ({ s with boot := {} } : State).boot.phase ≠ .refHeld ∧
      (({ s with boot := {} } : State).wr PWR_STATUS_state 0 4).rd PWR_STATUS_state 0 = 4 := by decide +kernel
/-- R350: a warm reset counts itself; a bad fuse word leads to FAILED. -/
theorem test_warm_reset : let t := after (exec (.warmReset { cleanBoot with fuseBad := some 3 }) (portAt 6)) up
    (t.rd BOOT_STATUS_warmResets 0, t.boot.phase, t.portState 1) = (1, .failed, 0) := by decide +kernel
theorem test_start_watchdog : let t := after (exec (.startWatchdog { cleanBoot with fuseBad := some 3 }) up) up
    (t.badSlot 0, t.badSlot 1) = (true, false) := by decide +kernel
theorem test_cold_reset_ref : (after (exec (.coldReset cleanBoot) { State.reset with aon := { refLost := true, dt := 9 } }) up).boot.phase = .refHeld := by
  decide +kernel
theorem witness_Copy : let s := heldUp (some (img 1)) (some (img 2))
    s.chooses s.badSlot 1 (img 2) ∧ ¬ s.chooses s.badSlot 0 (img 1) ∧ (img 2).records = [] ∧ s.boot.fuses.revoke % 4 ≠ 3 ∧ s.boot.phase = .held := by
  have h1 : (heldUp (some (img 1)) (some (img 2))).boot.fuses.copyCause (img 2) = 0 := img_cause 2 0 0
  have h2 : (heldUp (some (img 1)) (some (img 2))).badSlot 1 = false := by decide +kernel
  have h3 : (heldUp (some (img 1)) (some (img 2))).boot.fuses.copyCause (img 1) = 0 := img_cause 1 0 0
  refine ⟨⟨by decide, rfl, h2, h1, ?_⟩, ?_, by decide +kernel, by decide +kernel, rfl⟩
  · rintro o ⟨⟩
    exact .inr (.inr (by decide +kernel))
  · rintro ⟨-, -, -, -, h⟩
    rcases h (img 2) rfl with h | h | h
    · rw [h2] at h; cases h
    · exact h h1
    · exact absurd h (by decide +kernel)
/-- R358: the other copy where the first fails check 8, and none where neither passes. -/
theorem test_copy : let pick (a b : ImageCopy) := let s := heldUp (some a) (some b); (s.pickSlot s.slotOrder).2
    pick (img 1) { img 2 with torn := true } = some 0 ∧ pick { img 1 with target := 0x47 } { img 2 with torn := true } = none := by decide +kernel
theorem witness_NoCopy : let s := heldUp none (some { img 2 with torn := true })
    ∀ slot < 2, ∀ c, s.copyAt slot = some c → s.badSlot slot = true ∨ s.boot.fuses.copyCause c ≠ 0 := by
  intro s slot hs c h
  match slot, hs with
  | 0, _ => cases h
  | 1, _ => cases h; exact .inr (by decide +kernel)

/-! ### Updates and fuses -/

/-- A part that runs copy A, sequence 1 and security version 3, with fuses of security version n; an image's whole length is set. -/
def updUp (svn : Nat) : State :=
  { up.wr BOOT_UPDATE_LEN_len 0 (0x4000 + 52) with boot := { up.boot with fuses := vendorFuses svn, copyA := some (img 1 3), copyB := none } }
theorem witness_Update : let s := updUp 2
    s.updates (.fn 0) ∧ s.on BOOT_STATUS_copy 0 = false ∧ s.rd BOOT_UPDATE_ADDR_addr 0 % 4096 = 0 ∧ s.fetchOpen = true ∧
      (img 2 2).cut (s.rd BOOT_UPDATE_LEN_len 0) = img 2 2 ∧ (img 2 1).cut (s.rd BOOT_UPDATE_LEN_len 0) = img 2 1 ∧
      s.runningCopy = some (img 1 3) ∧ (s.wr BOOT_UPDATE_ADDR_addr 0 8).rd BOOT_UPDATE_ADDR_addr 0 % 4096 ≠ 0 ∧
      (s.wr SVC_QUAR_quarantined 0 (2 ^ 11)).fetchOpen = false ∧
      (s.wr BOOT_UPDATE_STATUS_busy 0 1).on BOOT_UPDATE_STATUS_busy 0 = true ∧ s.serves (.fn 0) (BOOT_UPDATE_CMD_op.addr 0) = true := by
  unfold State.updates; decide +kernel
theorem witness_UpdateCause : (updUp 2).boot.fuses.copyCause (img 2 2) = 0 ∧ (updUp 2).boot.fuses.copyCause (img 2 1) ≠ 0 :=
  ⟨img_cause 2 2 2, by rw [show (updUp 2).boot.fuses.copyCause (img 2 1) = 7 from img_cause 2 1 2]; decide +kernel⟩
/-- R363: a good image of a higher sequence is programmed; one of a security version below the fuses' fails check 7. -/
theorem test_update : (after (exec (.updateImage (.fn 0) (some (img 2 2))) (updUp 2)) up).boot.update = some (1, img 2 2) ∧
    (after (exec (.updateImage (.fn 0) (some (img 2 1))) (updUp 2)) up).rd BOOT_UPDATE_STATUS_detail 0 = 7 := by decide +kernel
theorem test_update_done : let s := { updUp 2 with boot := { (updUp 2).boot with update := some (1, img 2) } }
    (after (exec (.imageUpdateDone true) s) up).boot.copyB = some (img 2) ∧ (after (exec (.imageUpdateDone false) s) up).rd BOOT_UPDATE_STATUS_cause 0 = 6 := by
  decide +kernel
theorem witness_Fuse : let c := img 1 3
    (updUp 2).runningCopy = some c ∧ (updUp 2).boot.fuses.svn < c.svn ∧ c.svn ≤ (updUp 3).boot.fuses.svn ∧ (updUp 2).boot.fuses.ownerFused = false ∧
      (updUp 2).boot.fuses.ownerOk c = false ∧ (updUp 2).boot.fuses.vendor1 ≠ noKey := by decide +kernel
/-- The key of the copy is that of vendor slot 0, and the same empty key as the owner's signs for an owner. -/
theorem witness_FuseKeys : (img 1 3).vendorKeySha = (updUp 2).boot.fuses.vendor0 ∧ (img 1 3).vendorKeySha ≠ (updUp 2).boot.fuses.vendor1 ∧
    ({ ownerFused := true, ownerHash := noKey } : Fuses).ownerOk { img 1 3 with flags := 1, ownerSigOk := true } = true := by
  have h : (img 1 3).vendorKeySha = noKey := digest_noKey
  have h' : ({ img 1 3 with flags := 1, ownerSigOk := true } : ImageCopy).ownerKeySha = noKey := digest_noKey
  refine ⟨h, by rw [h]; decide +kernel, ?_⟩
  simp only [Fuses.ownerOk, h']; decide +kernel
theorem test_commit_svn : (after (exec (.commitSvn (.fn 0)) (updUp 2)) up).boot.fuses.svn = 3 ∧
    (after (exec (.commitSvn (.fn 0)) (updUp 3)) up).rd BOOT_UPDATE_STATUS_cause 0 = 1 := by decide +kernel
theorem test_fuse_owner : (after (exec (.fuseOwnerKey (.fn 0) (some 6)) (updUp 2)) up).boot.fuses.ownerHash = 6 := by decide +kernel
/-- R372: the vendor slot of the running copy's own key is not revoked. -/
theorem test_revoke : (after (exec (.revokeVendorSlot (.fn 0)) (updUp 2)) up).boot.fuses.revoke = 0 := by decide +kernel
theorem witness_RecordArea : let s := (updUp 2).wr BOOT_UPDATE_LEN_len 0 (2 ^ 40 + 2)
    s.updates (.fn 0) ∧ bits (s.rd BOOT_UPDATE_LEN_len 0) 40 2 = 1 ∧ bits (s.rd BOOT_UPDATE_LEN_len 0) 0 40 = 2 ∧
      2 ≤ ([1, 2, 3] : List Byte).length ∧ 2 ≤ recordSlot 1 ∧ recordSlot 1 < 65537 ∧ bits (3 * 2 ^ 40) 40 2 = 3 := by
  unfold State.updates; decide +kernel
theorem test_record_area : (after (exec (.writeRecordArea (.fn 0) (some [1, 2, 3])) ((updUp 2).wr BOOT_UPDATE_LEN_len 0 (2 ^ 40 + 2))) up).boot.endorsement =
    [1, 2] := by decide +kernel

/-! ### Every command -/

/-- A state with words in both memories and two waiting commands. -/
def twoWait : State := { dmaUp with pending := [.vatSlotCfgWrite (.fn 0) 0, .frameStart] }
theorem witness_Invariants : twoWait.memWf ∧ twoWait.boot.fuses.svn ≤ 64 ∧ (match step twoWait with
    | .next t => t.pending == [.frameStart]
    | _ => false) = true := by
  refine ⟨by decide +kernel, by decide, by decide +kernel⟩
/-- An empty queue: device time goes on (log 3). -/
theorem test_tick : (match step { State.reset with aon := { dt := 41 } } with
    | .next t => t.aon.dt == 42
    | _ => false) = true := by decide +kernel

end Sys2Proof.Tests
end

section
/-! SUPPORT and the proof about R49. The rounding of R49: `rneShift` as a nearest integer, the code of `roundMag` from its last place
and its significand, and the value that `dec32` reads from that code. -/

namespace Sys2Proof

/-! ### The nearest integer -/

/-- What `rneShift` rounds off is at most half a unit, and a tie goes to an even quotient. -/
theorem rneShift_nearest (n k : Nat) :
    2 * n ≤ 2 * (rneShift n k * 2 ^ k) + 2 ^ k ∧ 2 * (rneShift n k * 2 ^ k) ≤ 2 * n + 2 ^ k ∧
      (2 * n = 2 * (rneShift n k * 2 ^ k) + 2 ^ k ∨ 2 * (rneShift n k * 2 ^ k) = 2 * n + 2 ^ k → rneShift n k % 2 = 0) := by
  rcases Nat.eq_zero_or_pos k with rfl | hk
  · simp [rneShift, Nat.mod_one]
  have hn : n / 2 ^ k * 2 ^ k + n % 2 ^ k = n := Nat.div_add_mod' n (2 ^ k)
  have hr : n % 2 ^ k < 2 ^ k := Nat.mod_lt _ (Nat.two_pow_pos k)
  have hup : (n / 2 ^ k + 1) * 2 ^ k = n / 2 ^ k * 2 ^ k + 2 ^ k := by ring
  simp only [rneShift, hk.ne', if_false]
  split_ifs <;> omega

/-- The same as a distance. -/
theorem abs_sub_rneShift (n k : Nat) :
    2 * |(n : Int) - rneShift n k * 2 ^ k| ≤ 2 ^ k ∧ (2 * |(n : Int) - rneShift n k * 2 ^ k| = 2 ^ k → rneShift n k % 2 = 0) := by
  obtain ⟨lo, hi, tie⟩ := rneShift_nearest n k
  zify at lo hi tie ⊢
  rcases abs_cases ((n : Int) - rneShift n k * 2 ^ k) with ⟨habs, -⟩ | ⟨habs, -⟩
  · exact ⟨by omega, fun h => tie (.inl (by omega))⟩
  · exact ⟨by omega, fun h => tie (.inr (by omega))⟩

/-- The integer nearest `n * 2^s / 2^q`, as `roundMag` finds it. -/
def roundAt (n : Nat) (s q : Int) : Nat :=
  if q ≤ s then n * 2 ^ (s - q).toNat else rneShift n (q - s).toNat

/-- `roundAt` is off by at most half of the last place, and a tie goes to an even integer. -/
theorem roundAt_nearest (n : Nat) (s q : Int) :
    2 * |(n : ℚ) * 2 ^ s - roundAt n s q * 2 ^ q| ≤ 2 ^ q ∧
      (2 * |(n : ℚ) * 2 ^ s - roundAt n s q * 2 ^ q| = 2 ^ q → roundAt n s q % 2 = 0) := by
  rcases le_or_gt q s with hqs | hqs
  · obtain ⟨d, rfl⟩ := Int.le.dest hqs
    have same : (n : ℚ) * 2 ^ (q + d : Int) - roundAt n (q + d) q * 2 ^ q = 0 := by
      simp [roundAt, zpow_add₀]; ring
    have hq : (0 : ℚ) < 2 ^ q := by positivity
    rw [same, abs_zero, mul_zero]
    exact ⟨hq.le, fun h => absurd h hq.ne⟩
  · obtain ⟨k, rfl⟩ := Int.le.dest hqs.le
    have hm : roundAt n s (s + k) = rneShift n k := by
      rw [roundAt, if_neg (by omega)]; congr 1; omega
    have hs : (0 : ℚ) < 2 ^ s := by positivity
    have unit : (2 : ℚ) ^ (s + k : Int) = ((2 ^ k : Int) : ℚ) * 2 ^ s := by
      rw [zpow_add₀ two_ne_zero, zpow_natCast]; push_cast; ring
    have diff : (n : ℚ) * 2 ^ s - rneShift n k * 2 ^ (s + k : Int) = ((n - rneShift n k * 2 ^ k : Int) : ℚ) * 2 ^ s := by
      rw [unit]; push_cast; ring
    have off : 2 * |(n : ℚ) * 2 ^ s - rneShift n k * 2 ^ (s + k : Int)| =
        ((2 * |(n : Int) - rneShift n k * 2 ^ k| : Int) : ℚ) * 2 ^ s := by
      rw [diff, abs_mul, abs_of_pos hs]; push_cast; ring
    rw [hm, off, unit, mul_le_mul_iff_left₀ hs, mul_left_inj' hs.ne', Int.cast_le, Int.cast_inj]
    exact abs_sub_rneShift n k

/-! ### Last place, significand and code -/

/-- The exponent of the last place that R49 rounds `n * 2^s` to: 24 significant bits, and none below 2^-149. -/
def lastPlace (n : Nat) (s : Int) : Int := (if s + (Nat.log2 n : Nat) < -126 then -126 else s + (Nat.log2 n : Nat)) - 23

/-- The FP32 code of `m * 2^q`, before an overflow is seen. -/
def rawCode (m : Nat) (q : Int) : Nat := if m < 2 ^ 23 then m else (q + 23 + 127).toNat * 2 ^ 23 + (m - 2 ^ 23)

/-- `roundMag` gives the code of the rounded significand at the last place, or that of an infinity. -/
theorem roundMag_fp32 {n : Nat} (hn : n ≠ 0) (s : Int) :
    roundMag .fp32 n s = min (rawCode (roundAt n s (lastPlace n s)) (lastPlace n s)) (255 * 2 ^ 23) := by
  have code : roundMag .fp32 n s = if rawCode (roundAt n s (lastPlace n s)) (lastPlace n s) > 255 * 2 ^ 23 - 1 then 255 * 2 ^ 23
      else rawCode (roundAt n s (lastPlace n s)) (lastPlace n s) := by
    rw [roundMag, if_neg hn]; rfl
  rw [code]
  split <;> omega

/-- A magnitude other than 0 has its leading bit where `log2` says. -/
theorem two_zpow_log2_le {n : Nat} (hn : n ≠ 0) (s : Int) :
    (2 : ℚ) ^ (s + (Nat.log2 n : Nat)) ≤ n * 2 ^ s ∧ (n : ℚ) * 2 ^ s < 2 ^ (s + (Nat.log2 n : Nat) + 1) := by
  have lo : (2 ^ Nat.log2 n : ℚ) ≤ n := mod_cast Nat.log2_self_le hn
  have hi : (n : ℚ) < 2 ^ (Nat.log2 n + 1) := mod_cast Nat.lt_log2_self
  have hs : (0 : ℚ) < 2 ^ s := by positivity
  rw [add_assoc, zpow_add₀ two_ne_zero, zpow_add₀ two_ne_zero, mul_comm _ (2 ^ s : ℚ)]
  exact ⟨mul_le_mul_of_nonneg_left (mod_cast lo) hs.le, mul_lt_mul_of_pos_left (mod_cast hi) hs⟩

/-- The value of FP32 bits by their exponent and mantissa (R32). -/
theorem dec32_withSign (neg : Bool) {e f : Nat} (he : e < 256) (hf : f < 2 ^ 23) :
    dec32 (BitVec.ofNat 32 (withSign .fp32 neg (e * 2 ^ 23 + f))) =
      if e = 255 then (if f = 0 then .inf neg else .nan)
      else if e = 0 then .fin neg f (-149) else .fin neg (2 ^ 23 + f) (e - 150) := by
  have hx : (BitVec.ofNat 32 (withSign .fp32 neg (e * 2 ^ 23 + f))).toNat = neg.toNat * 2 ^ 31 + e * 2 ^ 23 + f := by
    cases neg <;> simp [withSign, NumFmt.width] <;> omega
  rw [dec32]
  generalize (BitVec.ofNat 32 (withSign .fp32 neg (e * 2 ^ 23 + f))).toNat = x at hx ⊢
  have hsign := neg.toNat_lt
  have mantissa : x % 2 ^ 23 = f := by omega
  have exponent : x / 2 ^ 23 % 2 ^ 8 = e := by omega
  have sign : (x / 2 ^ (23 + 8) % 2 == 1) = neg := by
    rw [show x / 2 ^ (23 + 8) % 2 = neg.toNat by omega]; cases neg <;> rfl
  have bias : (e : Int) - 127 - 23 = e - 150 := by omega
  simp only [decodeFmt, NumFmt.shape, mantissa, exponent, sign, NumFmt.hasInf]
  simp [bias]

/-- Powers of two bound a significand at a last place. -/
theorem lt_zpow_iff (m a : Nat) (q : Int) : (m : ℚ) * 2 ^ q < 2 ^ (q + a) ↔ m < 2 ^ a := by
  have hq : (0 : ℚ) < 2 ^ q := by positivity
  rw [zpow_add₀ two_ne_zero, mul_comm, mul_lt_mul_iff_right₀ hq, zpow_natCast]
  exact_mod_cast Iff.rfl

/-- No last place lies below 2^-149. -/
theorem neg149_le_lastPlace (n : Nat) (s : Int) : -149 ≤ lastPlace n s := by
  unfold lastPlace; split <;> omega

/-- Below 2^-126 the last place is that of the subnormals. -/
theorem lastPlace_of_lt {n : Nat} (hn : n ≠ 0) {s : Int} (h : (n : ℚ) * 2 ^ s < 2 ^ (-126 : Int)) : lastPlace n s = -149 := by
  have htop : s + (Nat.log2 n : Nat) < -126 :=
    (zpow_lt_zpow_iff_right₀ one_lt_two).1 ((two_zpow_log2_le hn s).1.trans_lt h)
  simp [lastPlace, htop]

/-- From 2^-126 on the last place leaves 24 significant bits. -/
theorem lastPlace_of_le {n : Nat} (hn : n ≠ 0) {s : Int} (h : (2 : ℚ) ^ (-126 : Int) ≤ n * 2 ^ s) :
    (2 : ℚ) ^ (lastPlace n s + 23) ≤ n * 2 ^ s ∧ (n : ℚ) * 2 ^ s < 2 ^ (lastPlace n s + 24) := by
  obtain ⟨lo, hi⟩ := two_zpow_log2_le hn s
  have htop : -126 < s + (Nat.log2 n : Nat) + 1 := (zpow_lt_zpow_iff_right₀ one_lt_two).1 (h.trans_lt hi)
  have hq : lastPlace n s = s + (Nat.log2 n : Nat) - 23 := by rw [lastPlace, if_neg (by omega)]
  rw [hq, show s + (Nat.log2 n : Int) - 23 + 23 = s + (Nat.log2 n : Nat) by omega,
    show s + (Nat.log2 n : Int) - 23 + 24 = s + (Nat.log2 n : Nat) + 1 by omega]
  exact ⟨lo, hi⟩

/-- Rounding stays at or below a power of two that lies above what is rounded. -/
theorem roundAt_le {n a : Nat} {s q : Int} (h : (n : ℚ) * 2 ^ s < 2 ^ (q + a)) : roundAt n s q ≤ 2 ^ a := by
  have near := neg_abs_le ((n : ℚ) * 2 ^ s - roundAt n s q * 2 ^ q)
  have half := (roundAt_nearest n s q).1
  have hq : (0 : ℚ) < 2 ^ q := by positivity
  rw [zpow_add₀ two_ne_zero, zpow_natCast] at h
  have hlt : (roundAt n s q : ℚ) * 2 ^ q < ((2 ^ a + 1 : Nat) : ℚ) * 2 ^ q := by push_cast; linarith
  exact Nat.lt_succ_iff.1 (Nat.cast_lt.1 ((mul_lt_mul_iff_left₀ hq).1 hlt))

/-- Rounding stays at or above a power of two that lies at or below what is rounded. -/
theorem le_roundAt {n a : Nat} {s q : Int} (h : (2 : ℚ) ^ (q + a) ≤ n * 2 ^ s) : 2 ^ a ≤ roundAt n s q := by
  have near := le_abs_self ((n : ℚ) * 2 ^ s - roundAt n s q * 2 ^ q)
  have half := (roundAt_nearest n s q).1
  have hq : (0 : ℚ) < 2 ^ q := by positivity
  rw [zpow_add₀ two_ne_zero, zpow_natCast] at h
  have hlt : ((2 ^ a : Nat) : ℚ) * 2 ^ q < ((roundAt n s q + 1 : Nat) : ℚ) * 2 ^ q := by push_cast; linarith
  exact Nat.lt_succ_iff.1 (Nat.cast_lt.1 ((mul_lt_mul_iff_left₀ hq).1 hlt))

/-- The rounded significand has at most 24 bits, or is 2^24; it has all 24 but at the last place of the subnormals. -/
theorem roundAt_lastPlace {n : Nat} (hn : n ≠ 0) (s : Int) :
    roundAt n s (lastPlace n s) ≤ 2 ^ 24 ∧ (lastPlace n s = -149 ∨ 2 ^ 23 ≤ roundAt n s (lastPlace n s)) := by
  rcases lt_or_ge ((n : ℚ) * 2 ^ s) (2 ^ (-126 : Int)) with hx | hx
  · have hq := lastPlace_of_lt hn hx
    refine ⟨roundAt_le (hx.trans ?_), .inl hq⟩
    rw [hq]; norm_num
  · obtain ⟨lo, hi⟩ := lastPlace_of_le hn hx
    exact ⟨roundAt_le hi, .inr (le_roundAt lo)⟩

/-- The value of a sign and a code as R49 has it for a rounded magnitude `y`: `y` itself, and an infinity from 2^128 on. -/
def ReadsAs (neg : Bool) (code : Nat) (y : ℚ) : Prop :=
  (y < 2 ^ (128 : Int) → ∃ (k : Nat) (e : Int),
    dec32 (BitVec.ofNat 32 (withSign .fp32 neg code)) = .fin neg k e ∧ (k : ℚ) * 2 ^ e = y) ∧
  (2 ^ (128 : Int) ≤ y → dec32 (BitVec.ofNat 32 (withSign .fp32 neg code)) = .inf neg)

/-- A significand below 2^23 at the last place of the subnormals is its own code. -/
theorem readsAs_subnormal (neg : Bool) {m : Nat} (hm : m < 2 ^ 23) :
    ReadsAs neg (min (rawCode m (-149)) (255 * 2 ^ 23)) (m * 2 ^ (-149 : Int)) := by
  have hcode : min (rawCode m (-149)) (255 * 2 ^ 23) = 0 * 2 ^ 23 + m := by rw [rawCode, if_pos hm]; omega
  have hlt : (m : ℚ) * 2 ^ (-149 : Int) < 2 ^ (128 : Int) := ((lt_zpow_iff m 23 (-149)).2 hm).trans (by norm_num)
  rw [hcode]
  exact ⟨fun _ => ⟨m, -149, dec32_withSign neg (by decide) hm, rfl⟩, fun h => absurd hlt (not_lt.2 h)⟩

/-- A significand of 24 bits is coded by its exponent and its low 23 bits, and overflows from 2^105 as last place. -/
theorem readsAs_normal (neg : Bool) {m : Nat} {q : Int} (hq : -149 ≤ q) (lo : 2 ^ 23 ≤ m) (hi : m < 2 ^ 24) :
    ReadsAs neg (min (rawCode m q) (255 * 2 ^ 23)) (m * 2 ^ q) := by
  have lo' : (2 : ℚ) ^ (q + 23) ≤ m * 2 ^ q := not_lt.1 (mt (lt_zpow_iff m 23 q).1 (not_lt.2 lo))
  have hi' : (m : ℚ) * 2 ^ q < 2 ^ (q + 24) := (lt_zpow_iff m 24 q).2 hi
  rcases le_or_gt q 104 with h | h
  · have hlt : (m : ℚ) * 2 ^ q < 2 ^ (128 : Int) := hi'.trans_le (zpow_le_zpow_right₀ one_le_two (by omega))
    have hcode : min (rawCode m q) (255 * 2 ^ 23) = (q + 150).toNat * 2 ^ 23 + (m - 2 ^ 23) := by
      rw [rawCode, if_neg (by omega)]; omega
    have hdec := dec32_withSign neg (e := (q + 150).toNat) (f := m - 2 ^ 23) (by omega) (by omega)
    rw [if_neg (by omega), if_neg (by omega)] at hdec
    rw [hcode]
    refine ⟨fun _ => ⟨_, _, hdec, ?_⟩, fun h => absurd hlt (not_lt.2 h)⟩
    rw [Nat.add_sub_cancel' lo, show ((q + 150).toNat : Int) - 150 = q by omega]
  · have hge : (2 : ℚ) ^ (128 : Int) ≤ m * 2 ^ q := (zpow_le_zpow_right₀ one_le_two (by omega)).trans lo'
    have hcode : min (rawCode m q) (255 * 2 ^ 23) = 255 * 2 ^ 23 + 0 := by
      rw [rawCode, if_neg (by omega)]; omega
    rw [hcode]
    exact ⟨fun h => absurd hge (not_le.2 h), fun _ => dec32_withSign neg (by decide) (by decide)⟩

/-- A significand that was rounded up to 2^24 has the code and the value of 2^23 at the next last place. -/
theorem readsAs_carry (neg : Bool) {q : Int} (hq : -149 ≤ q) :
    ReadsAs neg (min (rawCode (2 ^ 24) q) (255 * 2 ^ 23)) ((2 ^ 24 : Nat) * 2 ^ q) := by
  have hcode : rawCode (2 ^ 24) q = rawCode (2 ^ 23) (q + 1) := by
    rw [rawCode, rawCode, if_neg (by decide), if_neg (by decide)]; omega
  have hy : ((2 ^ 24 : Nat) : ℚ) * 2 ^ q = (2 ^ 23 : Nat) * 2 ^ (q + 1) := by rw [zpow_add₀ two_ne_zero]; push_cast; ring
  rw [hcode, hy]
  exact readsAs_normal neg (by omega) le_rfl (by decide)

/-- The code of `round_fp32` reads as the rounded magnitude. -/
theorem readsAs_roundMag (neg : Bool) {n : Nat} (hn : n ≠ 0) (s : Int) :
    ReadsAs neg (roundMag .fp32 n s) (roundAt n s (lastPlace n s) * 2 ^ lastPlace n s) := by
  rw [roundMag_fp32 hn]
  obtain ⟨hi, full⟩ := roundAt_lastPlace hn s
  have hq := neg149_le_lastPlace n s
  generalize roundAt n s (lastPlace n s) = m at *
  generalize lastPlace n s = q at *
  rcases lt_or_ge m (2 ^ 23) with sub | lo
  · obtain rfl : q = -149 := full.resolve_right (not_le.2 sub)
    exact readsAs_subnormal neg sub
  rcases hi.eq_or_lt with rfl | lt
  · exact readsAs_carry neg hq
  · exact readsAs_normal neg hq lo lt

/-- Settles O9: the last place is `lastPlace`, the significand `roundAt`, and the code is read back. -/
theorem sumsRoundToNearest : Obligations.SumsRoundToNearest := by
  refine ⟨fun s => rfl, fun n s hn => ⟨lastPlace n.natAbs s, roundAt n.natAbs s (lastPlace n.natAbs s), ?_⟩⟩
  rintro x y rfl rfl
  have hn' : n.natAbs ≠ 0 := Int.natAbs_ne_zero.2 hn
  obtain ⟨near, tie⟩ := roundAt_nearest n.natAbs s (lastPlace n.natAbs s)
  obtain ⟨finite, overflow⟩ := readsAs_roundMag (decide (n < 0)) hn' s
  exact ⟨lastPlace_of_lt hn', lastPlace_of_le hn', near, tie, finite, overflow⟩

end Sys2Proof
end

section
/-! SUPPORT and the proof about R358. The order in which the boot tries the copies, as a search for the first good slot; and the frame of
what follows the choice: self-test, retirement list and link bring-up leave the copy that BOOT_STATUS names. -/

namespace Sys2Proof.Machine
open Sys2Proof

/-! ### Fields that a write does not reach -/

/-- A write of field `f` of index `i` reaches no bit of field `g` of index `j`. -/
abbrev Fld.apart (f : Fld) (i : Nat) (g : Fld) (j : Nat) : Prop :=
  g.addr j ≠ f.addr i ∨ f.lo + f.wid ≤ 64 ∧ (g.lo + g.wid ≤ f.lo ∨ f.lo + f.wid ≤ g.lo)

theorem State.rd_wr_of_apart {f g : Fld} {i j : Nat} (h : f.apart i g j) (s : State) (v : Nat) : (s.wr f i v).rd g j = s.rd g j := by
  by_cases ha : g.addr j = f.addr i
  · obtain ⟨width, bitsApart⟩ := h.resolve_left (not_not.2 ha)
    exact State.rd_wr_apart s f g i j v ha width bitsApart
  · exact State.rd_wr_ne s f g i j v ha

theorem State.rd_wrs_of_apart {g : Fld} {i j : Nat} {fs : List (Fld × Nat)} (h : ∀ e ∈ fs, e.1.apart i g j) (s : State) :
    (s.wrs i fs).rd g j = s.rd g j := by
  induction fs generalizing s with
  | nil => rfl
  | cons e l ih =>
    exact (ih (fun x hx => h x (List.mem_cons_of_mem e hx)) _).trans (State.rd_wr_of_apart (h e List.mem_cons_self) s e.2)

theorem Changes.regs_eq {pl : List Piece} {s t : State} (h : Changes pl s t) (hr : Piece.regs ∉ pl) : t.regs = s.regs :=
  (h .regs hr).symm

theorem Changes.boot_eq {pl : List Piece} {s t : State} (h : Changes pl s t) (hb : Piece.boot ∉ pl) (hf : Piece.fuses ∉ pl) : t.boot = s.boot := by
  have rest : { s.boot with fuses := {} } = { t.boot with fuses := {} } := h .boot hb
  have fuses : s.boot.fuses = t.boot.fuses := h .fuses hf
  calc t.boot = { ({ t.boot with fuses := {} } : Boot) with fuses := t.boot.fuses } := rfl
    _ = s.boot := by rw [← rest, ← fuses]

/-! ### The registers of a fault event -/

theorem RegsKept.trans {as : List Nat} {s t u : State} (h : RegsKept as s t) (k : RegsKept as t u) : RegsKept as s u :=
  fun a ha => (k a ha).trans (h a ha)

theorem RegsKept.of_regs {as : List Nat} {s t : State} (h : t.regs = s.regs) : RegsKept as s t := fun a _ => by
  unfold State.reg; rw [h]

theorem RegsKept.wr {as : List Nat} {f : Fld} {i : Nat} (h : f.addr i ∈ as) (s : State) (v : Nat) : RegsKept as s (s.wr f i v) :=
  fun a ha => State.reg_wr_ne s f i v a fun e => ha (e ▸ h)

theorem RegsKept.each {as : List Nat} {α : Type} {f : State → α → State} (h : ∀ t a, RegsKept as t (f t a)) (s : State) (l : List α) :
    RegsKept as s (s.each l f) := by
  unfold State.each
  induction l generalizing s with
  | nil => exact .of_regs rfl
  | cons a l ih => exact (h s a).trans (ih (f s a))

theorem State.partEvent_onlyLogRegs (s : State) (b : Nat) : OnlyLogRegs s (s.partEvent b) := by
  have cause : OnlyLogRegs s (s.wr DEV_IRQ_CAUSE_cause 0 (s.rd DEV_IRQ_CAUSE_cause 0 ||| 2 ^ b)) := .wr (by decide) s _
  unfold State.partEvent
  dsimp only
  split
  · exact cause.trans (.of_regs ((State.fire_ch (pl := [.msixPend, .out]) (.refl _ _) rfl).regs_eq (by decide)))
  · exact cause

/-- A fault event writes its class, the log's status and the interrupt cause only (R313, R379). -/
theorem State.logEvent_onlyLogRegs (s : State) (code : Nat) (part : Option Nat) (scrub : Bool) (l : Loc) (detail : Nat) :
    OnlyLogRegs s (s.logEvent code part scrub l detail) := by
  have seen : OnlyLogRegs s (s.classSeen code) := .wr (by decide) s _
  unfold State.logEvent
  extract_lets s1 tail unread newest e s2
  split
  · exact seen.trans (.of_regs rfl)
  split
  · exact seen.trans (.wr (by decide) s1 _)
  · have entered : OnlyLogRegs s s2 := seen.trans (.of_regs rfl)
    exact ((entered.trans (.wr (by decide) s2 _)).trans (.wr (by decide) _ _)).trans (State.partEvent_onlyLogRegs _ 0)

/-! ### What keeps the copy that BOOT_STATUS names -/

/-- What the operations of a boot that write no register may change. -/
abbrev besidesRegs : List Piece :=
  [.quarters, .dieFence, .vat, .vatCode, .work, .stk, .stkCode, .regions, .maps, .wcb, .held, .badBanks, .burin, .seqs, .parts, .bound, .pcmd,
    .msixPend, .rmt, .ports, .wins, .groups, .sendings, .log, .repair, .boot, .out, .free]

/-- BOOT_STATUS names the same copy. The field is kept, not the whole register: a record appended to the list may set list_full there. -/
def CopyKept (s t : State) : Prop := t.rd BOOT_STATUS_copy 0 = s.rd BOOT_STATUS_copy 0

section
variable {s0 s t : State}

theorem CopyKept.refl (s : State) : CopyKept s s := rfl

theorem CopyKept.regs (h : CopyKept s0 s) (e : t.regs = s.regs := by rfl) : CopyKept s0 t := by
  unfold CopyKept State.rd State.reg at *
  rw [e, h]

theorem CopyKept.ch (h : CopyKept s0 s) (e : Changes besidesRegs s t) : CopyKept s0 t := h.regs (e.regs_eq (by decide))

theorem CopyKept.ite {a b : State} {c : Prop} [Decidable c] (ha : CopyKept s0 a) (hb : CopyKept s0 b) :
    CopyKept s0 (if c then a else b) := by split <;> assumption

theorem CopyKept.each {α : Type} {l : List α} {f : State → α → State} (h : CopyKept s0 s)
    (k : ∀ t, ∀ a ∈ l, CopyKept s0 t → CopyKept s0 (f t a)) : CopyKept s0 (s.each l f) := by
  unfold State.each
  induction l generalizing s with
  | nil => exact h
  | cons a l ih => exact ih (k s a List.mem_cons_self h) fun t x hx => k t x (List.mem_cons_of_mem a hx)

theorem CopyKept.wr (h : CopyKept s0 s) {f : Fld} {i v : Nat} (a : f.apart i BOOT_STATUS_copy 0) : CopyKept s0 (s.wr f i v) :=
  (State.rd_wr_of_apart a s v).trans h

theorem CopyKept.wrs (h : CopyKept s0 s) {i : Nat} {fs : List (Fld × Nat)} (a : ∀ e ∈ fs, e.1.apart i BOOT_STATUS_copy 0) :
    CopyKept s0 (s.wrs i fs) :=
  (State.rd_wrs_of_apart a s).trans h

theorem CopyKept.onlyLogRegs (h : CopyKept s0 s) (e : OnlyLogRegs s t) : CopyKept s0 t := by
  unfold CopyKept State.rd at *
  rw [e _ (by decide), h]

theorem CopyKept.partEvent (h : CopyKept s0 s) (b : Nat) : CopyKept s0 (s.partEvent b) :=
  h.onlyLogRegs (State.partEvent_onlyLogRegs s b)

theorem CopyKept.logEvent (h : CopyKept s0 s) (code : Nat) (part : Option Nat) (scrub : Bool) (l : Loc) (detail : Nat) :
    CopyKept s0 (s.logEvent code part scrub l detail) :=
  h.onlyLogRegs (State.logEvent_onlyLogRegs s code part scrub l detail)

theorem CopyKept.repairEnd (h : CopyKept s0 s) (cause : Nat) : CopyKept s0 (s.repairEnd cause) := by
  unfold State.repairEnd
  exact .wrs h.regs (by simp +decide)

theorem CopyKept.rmtEnd (h : CopyKept s0 s) (cause : Nat) : CopyKept s0 (s.rmtEnd cause) := by
  unfold State.rmtEnd
  exact .wrs h.regs (by simp +decide)

theorem CopyKept.pcmdEnd (h : CopyKept s0 s) (cause : Nat) : CopyKept s0 (s.pcmdEnd cause) := by
  unfold State.pcmdEnd
  exact .partEvent (.wrs (.wr (.wr h.regs (by decide)) (by decide)) (by simp +decide)) 1

theorem CopyKept.noteRegion (h : CopyKept s0 s) (a : Nat) : CopyKept s0 (s.noteRegion a) := by
  unfold State.noteRegion
  split
  · exact h
  · refine .each (h.ch (State.addFault_ch (.refl _ _) rfl)) fun t f _ kept => ?_
    exact .ite (.ite kept (kept.wr (.inr (by decide)))) (kept.wrs (by simp [Fld.apart]))

theorem CopyKept.stkLog (h : CopyKept s0 s) (a : Nat) (scrub : Bool) : CopyKept s0 (s.stkLog a scrub) := by
  unfold State.stkLog
  dsimp only
  cases (s.stkEcc a).res with
  | clean => exact h
  | corrected => exact h.logEvent ..
  | uncorrectable => exact (h.logEvent ..).noteRegion a

theorem CopyKept.setPendingWrites (h : CopyKept s0 s) (w : List WcbEntry) (l : List Held) : CopyKept s0 { s with wcb := w, held := l } :=
  h.regs

theorem CopyKept.wcbLand (h : CopyKept s0 s) (e : WcbEntry) : CopyKept s0 (s.wcbLand e) := by
  unfold State.wcbLand
  exact .setPendingWrites (.ch (h.stkLog e.word false) (State.stkRaw_ch (.refl _ _) rfl)) _ _

theorem CopyKept.wcbDrain (h : CopyKept s0 s) (half : Nat) : CopyKept s0 (s.wcbDrain half) :=
  h.each fun _ e _ kept => kept.wcbLand e

theorem CopyKept.fenceNow (h : CopyKept s0 s) (q : Nat) (p : Option Nat) : CopyKept s0 (s.fenceNow q p) := by
  unfold State.fenceNow
  exact .ite (.logEvent (h.wcbDrain q).regs ..) h

theorem CopyKept.fenceAll (h : CopyKept s0 s) (qs : List Nat) : CopyKept s0 (s.each qs fun t q => t.fenceNow q none) :=
  h.each fun _ q _ kept => kept.fenceNow q none

theorem CopyKept.pollRmt (h : CopyKept s0 s) : CopyKept s0 s.pollRmt := by
  unfold State.pollRmt
  split
  · exact .ite h (h.rmtEnd 1)
  · exact h

theorem CopyKept.refetchEnd (h : CopyKept s0 s) (r : Repair) (cause : Nat) : CopyKept s0 (s.refetchEnd r cause) := by
  unfold State.refetchEnd
  have closed : CopyKept s0 (match r.peer with
      | some (_, k) => s.updWin k (fun w => { w with state := 0 })
      | none => s) := by
    split
    · exact h.regs
    · exact h
  exact .repairEnd (.ite (closed.logEvent ..) closed) cause

theorem CopyKept.pollRefetch (h : CopyKept s0 s) (j : Nat) : CopyKept s0 (s.pollRefetch j) := by
  unfold State.pollRefetch
  split
  · exact .ite (h.refetchEnd _ 3) h
  · exact h

theorem CopyKept.portDown (h : CopyKept s0 s) (j st : Nat) : CopyKept s0 (s.portDown j st) := by
  unfold State.portDown
  extract_lets peer was s1 s2 s3 s4 s5
  have lost : CopyKept s0 s1 := h.wrs (by simp [Fld.apart, Fld.addr]; omega)
  have emptied : CopyKept s0 s3 := lost.regs
  have withdrawn : CopyKept s0 s4 := emptied.each fun t k _ kept => kept.ch (State.withdraw_ch (.refl _ _) rfl)
  have unlocked : CopyKept s0 s5 := .ite (withdrawn.wr (by decide)) withdrawn
  exact .pollRefetch (.pollRmt (unlocked.each fun t p _ kept => kept.ch (State.pollClosing_ch (.refl _ _) rfl))) j

theorem CopyKept.dieOff (h : CopyKept s0 s) (d : Nat) : CopyKept s0 (s.dieOff d) := by
  unfold State.dieOff
  extract_lets s1 s2
  have off : CopyKept s0 s2 := .each h.regs fun t q _ kept => kept.ch (State.setQ_ch (.refl _ _) rfl)
  exact off.each fun t j _ kept => (kept.wr (.inr (by decide))).portDown j pDISABLED

theorem CopyKept.listAppend (h : CopyKept s0 s) (op cmd arg : Nat) : CopyKept s0 (s.listAppend op cmd arg) := by
  unfold State.listAppend
  exact .ite h.regs (h.wr (by decide))

theorem CopyKept.pollRepair (h : CopyKept s0 s) : CopyKept s0 s.pollRepair := by
  unfold State.pollRepair
  split
  · exact h
  next r _ =>
    refine .ite (.ite ((h.fenceNow r.arg none).repairEnd 0) h) (.ite (.ite ?_ h) h)
    exact .repairEnd (.listAppend (.logEvent ((h.fenceAll _).dieOff r.arg) ..) ..) 0

/-- A holder is one of the 16 partitions, whose status registers end below BOOT_STATUS. -/
theorem State.holder_lt {q p : Nat} (h : s.holder q = some p) : p < 16 := List.mem_range.1 (List.mem_of_find?_eq_some h)

theorem CopyKept.setPState (h : CopyKept s0 s) {p : Nat} (hp : p < 16) (st : Nat) : CopyKept s0 (s.setPState p st) :=
  h.wr (.inl (by simp [Fld.addr]; omega))

theorem CopyKept.releaseQuarters (h : CopyKept s0 s) (p : Nat) : CopyKept s0 (s.releaseQuarters p) := by
  unfold State.releaseQuarters
  extract_lets qs s1 s2 s3 s4
  have freed : CopyKept s0 s1 := h.each fun t q _ kept => kept.ch (State.setQ_ch (.refl _ _) rfl)
  have emptied : CopyKept s0 s4 := freed.regs
  exact emptied.wr (.inr (by decide))

theorem CopyKept.pollStopCmd (h : CopyKept s0 s) (p : Nat) : CopyKept s0 (s.pollStopCmd p) := by
  unfold State.pollStopCmd
  split
  · exact h
  · exact .ite (h.pcmdEnd 0) h

theorem CopyKept.unloadPart (h : CopyKept s0 s) {p : Nat} (hp : p < 16) : CopyKept s0 (s.unloadPart p) := by
  unfold State.unloadPart
  extract_lets s1 s2 s3 s4 s5
  have released : CopyKept s0 s1 := h.releaseQuarters p
  clear_value s1
  have cut : CopyKept s0 s2 := released.regs
  have closed : CopyKept s0 s3 := cut.each fun t k _ kept => kept.ch (State.updWin_ch (.refl _ _) rfl)
  have ended : CopyKept s0 s4 := closed.each fun _ _ _ kept => kept.ch (State.updGroup_ch (.refl _ _) rfl)
  clear_value s4
  have emptied : CopyKept s0 s5 := ended.regs
  exact ((emptied.setPState hp sEMPTY).pollStopCmd p).pollRepair

theorem CopyKept.failPcmd (h : CopyKept s0 s) (p : Nat) : CopyKept s0 (s.failPcmd p) := by
  unfold State.failPcmd
  split
  · exact h
  · exact .ite (h.pcmdEnd causeState) h

theorem CopyKept.haltPart (h : CopyKept s0 s) {p : Nat} (hp : p < 16) (cause : Nat) : CopyKept s0 (s.haltPart p cause) := by
  have withdrawn : CopyKept s0 (s.withdrawAll p cause) := h.ch (State.withdrawAll_ch (.refl _ _) rfl)
  have kept : CopyKept s0 (((s.withdrawAll p cause).failPcmd p).keepStep p false) :=
    (withdrawn.failPcmd p).ch (State.keepStep_ch (.refl _ _) rfl)
  exact (kept.unloadPart hp).wr (.inr (by decide))

theorem CopyKept.abandonResume (h : CopyKept s0 s) {p : Nat} (hp : p < 16) : CopyKept s0 (s.abandonResume p) := by
  unfold State.abandonResume
  extract_lets s1 s2
  have failed : CopyKept s0 s1 := by
    show CopyKept s0 (match s.pcmd with
      | some c => if c.p = p then s.pcmdEnd causeQuarter else s
      | none => s)
    split
    · exact .ite (h.pcmdEnd causeQuarter) h
    · exact h
  have withdrawn : CopyKept s0 (s1.withdrawAll p wFENCE) := failed.ch (State.withdrawAll_ch (.refl _ _) rfl)
  have closed : CopyKept s0 ((s1.withdrawAll p wFENCE).closeAll p) := withdrawn.ch (State.closeAll_ch (.refl _ _) rfl)
  have released : CopyKept s0 s2 := closed.releaseQuarters p
  exact .setPState released.regs hp sSTOPPED

theorem CopyKept.clearFor (h : CopyKept s0 s) (q : Nat) : CopyKept s0 (s.clearFor q) := by
  unfold State.clearFor
  split
  · exact h
  next p held =>
    have hp := State.holder_lt held
    exact .ite (h.haltPart hp wFENCE) (.ite (h.abandonResume hp) h)

theorem CopyKept.pressLinkBad (h : CopyKept s0 s) (l : Nat) : CopyKept s0 (s.pressLinkBad l) := by
  unfold State.pressLinkBad
  extract_lets d s1 qs s2
  have logged : CopyKept s0 s1 := h.logEvent ..
  have cleared : CopyKept s0 s2 := logged.each fun t q _ kept => kept.clearFor q
  exact .ite logged (((cleared.fenceAll qs).dieOff d).logEvent ..)

theorem CopyKept.stackLinkBad (h : CopyKept s0 s) (k : Nat) : CopyKept s0 (s.stackLinkBad k) := by
  unfold State.stackLinkBad
  have logged : CopyKept s0 ((s.wr STK_LINK_STATUS_trained k 0).fault 0x0201 (.link (0x10 + k))) :=
    CopyKept.logEvent (h.wr (.inr (by decide))) ..
  exact logged.each fun t q _ kept => ((kept.clearFor q).fenceNow q none).ch (State.setQ_ch (.refl _ _) rfl)

theorem CopyKept.testE2e (h : CopyKept s0 s) (d : Nat) : CopyKept s0 (s.testE2e d) := by
  unfold State.testE2e
  exact .logEvent h.regs ..

theorem CopyKept.testFence (h : CopyKept s0 s) (q : Nat) (l : Loc) : CopyKept s0 (s.testFence q l) :=
  .fenceNow (h.logEvent ..) q none

theorem CopyKept.placeSpare (h : CopyKept s0 s) {q : Nat} (hq : q < 16) {burin : Bool} {unit : Nat}
    (placed : s.placeSpare q burin unit = some t) : CopyKept s0 t := by
  unfold State.placeSpare at placed
  extract_lets d free code s1 at placed
  have left : CopyKept s0 s1 := by
    have leftFirst : CopyKept s0 (if s.on INT_SPARE_burin0Used d ∧ s.rd INT_SPARE_burin0For d = code then s.wr INT_SPARE_burin0Used d 0 else s) :=
      .ite (h.wr (.inr (by decide))) h
    exact .ite (leftFirst.wr (.inr (by decide))) leftFirst
  split at placed
  · split at placed
    · cases placed
      exact left.wrs (by simp [Fld.apart])
    split at placed
    · cases placed
      exact left.wrs (by simp [Fld.apart])
    · cases placed
  · split at placed
    · cases placed
      exact h.wrs (by simp [Fld.apart, Fld.addr]; omega)
    · cases placed

theorem CopyKept.testUnit (h : CopyKept s0 s) {u : Nat} (hu : u < 0x40 ∨ 0x80 ≤ u ∧ u < 0x100) : CopyKept s0 (s.testUnit u) := by
  unfold State.testUnit
  extract_lets burin q k
  have hq : q < 16 := by
    by_cases isBurin : 0x80 ≤ u
    · simp only [q, burin, isBurin, decide_true, if_true]; omega
    · simp only [q, burin, isBurin, decide_false, Bool.false_eq_true, if_false]; omega
  split
  next t placed => exact ((h.placeSpare hq placed).logEvent ..).logEvent ..
  · exact h.testFence q (.unit u)

theorem CopyKept.trainLanes (h : CopyKept s0 s) (lanes : List (Nat × Nat × Nat)) {k : Nat} (hk : k < 8) :
    CopyKept s0 (s.trainLanes lanes k).1 := by
  unfold State.trainLanes
  exact h.wr (.inl (by simp [Fld.addr]; omega))

/-- The units of a boot's findings are those of a quarter (R131). -/
theorem unitOk_of_findingsOk {f : BootFindings} (ok : findingsOk f = true) {u : Nat} (hu : u ∈ f.badUnits) :
    u < 0x40 ∨ 0x80 ≤ u ∧ u < 0x100 := by
  have units := (Bool.and_eq_true _ _ ▸ ok : _ ∧ _).2
  simpa using List.all_eq_true.1 units u hu

theorem CopyKept.selfTest (h : CopyKept s0 s) {f : BootFindings} (ok : findingsOk f = true) : CopyKept s0 (s.selfTest f) := by
  unfold State.selfTest
  extract_lets s1 s2 s3 s4 s5
  have units : CopyKept s0 s1 := h.each fun t u hu kept => kept.testUnit (unitOk_of_findingsOk ok hu)
  have vats : CopyKept s0 s2 := units.each fun t q _ kept => kept.testFence q _
  have halves : CopyKept s0 s3 := vats.each fun t k _ kept => kept.testFence k _
  have ends : CopyKept s0 s4 := halves.each fun t d _ kept => kept.testE2e d
  have links : CopyKept s0 s5 := ends.each fun t l _ kept => kept.pressLinkBad l
  refine links.each fun t k hk kept => ?_
  have trained := kept.trainLanes f.badLanes (List.mem_range.1 hk)
  exact .wr (.ite trained (trained.stackLinkBad k)) (.inr (by decide))

theorem CopyKept.dieFenced (h : CopyKept s0 s) (d : Nat) : CopyKept s0 (s.dieFenced d) :=
  (h.dieOff d).each fun _ _ _ kept => kept.ch (State.setQ_ch (.refl _ _) rfl)

theorem CopyKept.reapply (h : CopyKept s0 s) (r : RetRecord) : CopyKept s0 (s.reapply r) := by
  unfold State.reapply
  extract_lets q half bank burin unit row
  have hq : q < 16 := bits_lt r.cmd 4 4
  split
  · exact h
  split
  · refine .ite h ?_
    cases placed : s.placeSpare q burin unit with
    | none => exact h
    | some t => exact h.placeSpare hq placed
  · split
    · exact .ite h h.regs
    · exact h.ch (State.retirePage_ch (.refl _ _) rfl)
    · exact h.ch (State.retireBank_ch (.refl _ _) rfl)
    · exact h.ch (State.retireHalf_ch (.refl _ _) rfl)
  · exact h.dieFenced _
  · exact h

theorem CopyKept.linkUp (h : CopyKept s0 s) : CopyKept s0 s.linkUp := by
  unfold State.linkUp
  exact .wrs h.regs (by simp +decide)

theorem CopyKept.identity (h : CopyKept s0 s) (bad : Bool) : CopyKept s0 (s.identity bad) := by
  unfold State.identity
  extract_lets s1 s2
  have shown : CopyKept s0 s2 := .wr (h.wr (by decide)) (by decide)
  exact .ite (shown.logEvent ..) shown

theorem CopyKept.showDigest (h : CopyKept s0 s) (d : Nat → Nat) :
    CopyKept s0 (s.each (upto 8) fun t n => t.wr BOOT_IMAGE_DIGEST_digest n (d n)) :=
  h.each fun _ _ _ kept => kept.wr (.inl (by simp [Fld.addr]; omega))

end

theorem State.showCopy_copy (s : State) {slot : Nat} (hslot : slot < 2) (c : ImageCopy) :
    (s.showCopy slot c).rd BOOT_STATUS_copy 0 = slot := by
  have named : (s.wr BOOT_STATUS_copy 0 slot).rd BOOT_STATUS_copy 0 = slot :=
    (State.rd_wr_same s BOOT_STATUS_copy 0 slot (by decide)).trans (Nat.mod_eq_of_lt hslot)
  have firmware : CopyKept (s.wr BOOT_STATUS_copy 0 slot)
      ((s.wr BOOT_STATUS_copy 0 slot).wrs 0 [(DEV_FW_sequence, c.sequence), (DEV_FW_securityVersion, c.svn), (DEV_FW_copy, slot)]) :=
    (CopyKept.refl _).wrs (by simp +decide)
  exact (firmware.showDigest _).trans named

/-! ### The choice of a copy -/

/-- The detail of checks 8 and 9 of a slot; an unreadable one fails check 8. -/
def State.bodyAt (s : State) (slot : Nat) : Nat := ((s.copyAt slot).map bodyCause).getD 8

/-- A copy of the slot passes every check and is not marked bad. -/
def State.slotGood (s : State) (slot : Nat) : Bool := s.slotOk slot && s.bodyAt slot == 0

theorem State.slotGood_iff {s : State} {slot : Nat} :
    s.slotGood slot = true ↔ ∃ c, s.copyAt slot = some c ∧ s.badSlot slot = false ∧ s.boot.fuses.copyCause c = 0 := by
  have checks (c : ImageCopy) : s.boot.fuses.copyCause c = 0 ↔ s.boot.fuses.headCause c = 0 ∧ bodyCause c = 0 := by
    unfold Fuses.copyCause; split <;> simp_all
  cases hc : s.copyAt slot with
  | none => simp [State.slotGood, State.slotOk, State.headAt, hc]
  | some c =>
    have marks : (if slot = 0 then s.on BOOT_STATUS_badA 0 else s.on BOOT_STATUS_badB 0) = s.badSlot slot := rfl
    simp [State.slotGood, State.slotOk, State.headAt, State.bodyAt, hc, marks, checks, and_assoc, and_left_comm]

@[simp] theorem State.imageFault_boot (s : State) (slot detail : Nat) : (s.imageFault slot detail).boot = s.boot :=
  (State.imageFault_ch (pl := logPieces) (.refl _ s) rfl).boot_eq (by decide) (by decide)

theorem State.pickSlot_cons (s : State) (k : Nat) (l : List Nat) :
    s.pickSlot (k :: l) = if s.bodyAt k = 0 then (s, some k) else (s.imageFault k (s.bodyAt k)).pickSlot l := rfl

@[simp] theorem State.pickSlot_boot (s : State) (l : List Nat) : (s.pickSlot l).1.boot = s.boot :=
  (State.pickSlot_ch (pl := logPieces) (.refl _ s) rfl).boot_eq (by decide) (by decide)

/-- The boot takes the first slot of the order whose body passes (R358). -/
theorem State.pickSlot_snd (s : State) (l : List Nat) : (s.pickSlot l).2 = l.find? fun k => s.bodyAt k == 0 := by
  induction l generalizing s with
  | nil => rfl
  | cons k l ih =>
    have sameBody (i : Nat) : (s.imageFault k (s.bodyAt k)).bodyAt i = s.bodyAt i := by
      simp only [State.bodyAt, State.copyAt, State.imageFault_boot]
    rw [State.pickSlot_cons]
    by_cases passes : s.bodyAt k = 0
    · simp [passes]
    · simp only [passes, if_false, ih, sameBody, List.find?_cons, beq_eq_false_iff_ne.2 passes]

/-- The sequence of a slot's copy, 0 for an unreadable one. -/
def State.copySeq (s : State) (slot : Nat) : Nat := ((s.copyAt slot).map ImageCopy.sequence).getD 0

/-- The choice is the first good slot, the higher sequence first and A on a tie (R358). -/
theorem State.pickSlot_slotOrder (s : State) :
    (s.pickSlot s.slotOrder).2 = (if s.copySeq 0 < s.copySeq 1 then [1, 0] else [0, 1]).find? s.slotGood := by
  rw [State.pickSlot_snd]
  unfold State.slotOrder
  rw [List.find?_filter]
  exact congrArg (List.find? · _) (funext fun k => by simp [State.slotGood, beq_eq_decide])

theorem State.copySeq_of_copyAt {s : State} {slot : Nat} {c : ImageCopy} (h : s.copyAt slot = some c) : s.copySeq slot = c.sequence := by
  simp [State.copySeq, h]

theorem State.slotGood_of_chooses {s : State} {slot : Nat} {c : ImageCopy} (h : s.chooses s.badSlot slot c) : s.slotGood slot = true := by
  obtain ⟨-, copy, unmarked, valid, -⟩ := h
  exact State.slotGood_iff.2 ⟨c, copy, unmarked, valid⟩

/-- Where the other slot is good too, the slot chosen has the higher sequence, or is A on a tie. -/
theorem State.copySeq_of_chooses {s : State} {slot : Nat} {c : ImageCopy} (h : s.chooses s.badSlot slot c)
    (other : s.slotGood (1 - slot) = true) :
    if slot = 0 then s.copySeq (1 - slot) ≤ s.copySeq slot else s.copySeq (1 - slot) < s.copySeq slot := by
  obtain ⟨-, copy, -, -, higher⟩ := h
  obtain ⟨o, otherCopy, unmarked, valid⟩ := State.slotGood_iff.1 other
  rw [State.copySeq_of_copyAt copy, State.copySeq_of_copyAt otherCopy]
  rcases higher o otherCopy with marked | failed | seq
  · rw [unmarked] at marked; cases marked
  · exact absurd valid failed
  · exact seq

/-- A slot that the boot is to choose is good, and the other one is tried after it or is not good. -/
theorem State.pickSlot_of_chooses {s : State} {slot : Nat} {c : ImageCopy} (h : s.chooses s.badSlot slot c) :
    (s.pickSlot s.slotOrder).2 = some slot := by
  have good := State.slotGood_of_chooses h
  have higher := State.copySeq_of_chooses h
  obtain ⟨hslot, -⟩ := h
  rw [State.pickSlot_slotOrder]
  obtain rfl | rfl : slot = 0 ∨ slot = 1 := by omega
  case inl =>
    split
    next lower =>
      have otherBad : s.slotGood 1 = false := by
        by_contra h1
        exact absurd (higher (by simpa using h1)) (by simpa using lower)
      simp [otherBad, good]
    next => simp [good]
  case inr =>
    split
    next => simp [good]
    next notLower =>
      have otherBad : s.slotGood 0 = false := by
        by_contra h0
        exact absurd (higher (by simpa using h0)) (by simpa using notLower)
      simp [otherBad, good]

theorem State.pickSlot_eq_none {s : State}
    (h : ∀ slot < 2, ∀ c, s.copyAt slot = some c → s.badSlot slot = true ∨ s.boot.fuses.copyCause c ≠ 0) :
    (s.pickSlot s.slotOrder).2 = none := by
  have bad (slot : Nat) (hslot : slot < 2) : s.slotGood slot = false := by
    by_contra good
    obtain ⟨c, copy, unmarked, valid⟩ := State.slotGood_iff.1 (by simpa using good)
    rcases h slot hslot c copy with marked | failed
    · rw [unmarked] at marked; cases marked
    · exact failed valid
  rw [State.pickSlot_slotOrder]
  split <;> simp [bad]

/-! ### The boot with the copy chosen -/

/-- The state in which the boot chooses: the fuses are shown and the faults of both headers logged. -/
def State.headersRead (s : State) : State :=
  s.fuseStatus.each [0, 1] fun t k => if t.headAt k = 0 then t else t.imageFault k (t.headAt k)

@[simp] theorem State.fuseStatus_boot (s : State) : s.fuseStatus.boot = s.boot :=
  (State.wrs_ch (pl := logPieces) (.refl _ s) rfl).boot_eq (by decide) (by decide)

@[simp] theorem State.headersRead_boot (s : State) : s.headersRead.boot = s.boot := by
  have logged : Changes logPieces s.fuseStatus s.headersRead := by
    refine .each (.refl _ _) fun t ht k => ?_
    split
    · exact ht
    · exact State.imageFault_ch ht rfl
  exact (logged.boot_eq (by decide) (by decide)).trans s.fuseStatus_boot

theorem State.badSlot_eq_of_reg {s t : State} (h : t.reg (BOOT_STATUS_badA.addr 0) = s.reg (BOOT_STATUS_badA.addr 0)) : t.badSlot = s.badSlot := by
  funext slot
  have oneRegister : BOOT_STATUS_badB.addr 0 = BOOT_STATUS_badA.addr 0 := rfl
  simp only [State.badSlot, State.on, State.rd, oneRegister, h]

theorem State.fuseStatus_badSlot (s : State) : s.fuseStatus.badSlot = s.badSlot := by
  funext slot
  unfold State.badSlot State.on State.fuseStatus
  rw [State.rd_wrs_of_apart (by simp +decide), State.rd_wrs_of_apart (by simp +decide)]

@[simp] theorem State.headersRead_badSlot (s : State) : s.headersRead.badSlot = s.badSlot := by
  have logged : OnlyLogRegs s.fuseStatus s.headersRead := by
    refine .each (fun t k => ?_) _ _
    split
    · exact .of_regs rfl
    · exact State.logEvent_onlyLogRegs _ _ _ _ _ _
  exact (State.badSlot_eq_of_reg (logged _ (by decide))).trans s.fuseStatus_badSlot

theorem State.chooses_congr {s t : State} (h : t.boot = s.boot) {bad : Nat → Bool} {slot : Nat} {c : ImageCopy} :
    t.chooses bad slot c ↔ s.chooses bad slot c := by
  simp only [State.chooses, State.copyAt, h]

section
variable {s : State} {f : BootFindings}

theorem State.bootRun_of_none (fuses : f.fuseBad = none) (revoked : s.boot.fuses.revoke % 4 ≠ 3)
    (pick : (s.headersRead.pickSlot s.headersRead.slotOrder).2 = none) :
    s.bootRun f = (s.headersRead.pickSlot s.headersRead.slotOrder).1.recover := by
  unfold State.bootRun
  simp only [fuses, State.fuseStatus_boot, revoked, if_false]
  rw [← State.headersRead, pick]

theorem State.bootRun_of_some (fuses : f.fuseBad = none) (revoked : s.boot.fuses.revoke % 4 ≠ 3)
    {slot : Nat} {c : ImageCopy} (pick : (s.headersRead.pickSlot s.headersRead.slotOrder).2 = some slot) (copy : s.copyAt slot = some c) :
    s.bootRun f = (s.headersRead.pickSlot s.headersRead.slotOrder).1.bootWith slot c f := by
  have copyKept : (s.headersRead.pickSlot s.headersRead.slotOrder).1.copyAt slot = some c := by
    rw [← copy]
    simp only [State.copyAt, State.pickSlot_boot, State.headersRead_boot]
  unfold State.bootRun
  simp only [fuses, State.fuseStatus_boot, revoked, if_false]
  rw [← State.headersRead, pick]
  simp only [copyKept]

theorem State.recover_state (s : State) : s.recover.boot.phase = .recovery ∧ s.recover.rd BOOT_STATUS_state 0 = 2 :=
  ⟨rfl, State.rd_wr_same _ BOOT_STATUS_state 0 2 (by decide)⟩

theorem State.bootWith_state (ok : findingsOk f = true) (cool : f.hot = none) (hub : f.hubBad = false)
    {slot : Nat} (hslot : slot < 2) {c : ImageCopy} (noRecords : c.records = []) :
    (s.bootWith slot c f).boot.phase = .running ∧ (s.bootWith slot c f).rd BOOT_STATUS_copy 0 = slot := by
  have named : CopyKept (s.showCopy slot c) ((s.showCopy slot c).identity f.identityBad) := (CopyKept.refl _).identity _
  unfold State.bootWith
  rw [cool, noRecords, hub]
  extract_lets s1 s2 s3 s4 s5 s6 s7
  have tested : CopyKept (s.showCopy slot c) s2 := named.selfTest ok
  have lasers : CopyKept (s.showCopy slot c) s3 := tested.wr (by decide)
  have fenced : CopyKept (s.showCopy slot c) s4 := lasers.each fun _ d _ kept => .ite (kept.dieFenced d) kept
  have retired : CopyKept (s.showCopy slot c) s5 := fenced.each fun _ r _ kept => kept.reapply r
  have bound : CopyKept (s.showCopy slot c) s5.bindAll := retired.ch (State.bindAll_ch (.refl _ _) rfl)
  have linked : CopyKept (s.showCopy slot c) s6 := bound.linkUp
  have ready : CopyKept (s.showCopy slot c) s7 := .wr (linked.wr (by decide)) (by decide)
  clear_value s7
  exact ⟨rfl, ready.regs.trans (s.showCopy_copy hslot c)⟩

end

/-- Settles O55: the choice is the first good slot in the order of the sequences, and what the boot does after it names no other copy. -/
theorem bootChoosesTheCopy : Obligations.BootChoosesTheCopy := by
  refine ⟨fun s slot c => State.pickSlot_of_chooses, fun s f ok fuses revoked powered ref held => ?_⟩
  have boots : exec (.resetRelease f) s = .next (s.bootRun f) := by
    show execResetRelease f s = _
    simp [execResetRelease, State.act, ok, powered, held, ref]
  refine ⟨fun noCopy => ⟨_, boots, ?_⟩, fun slot c chosen cool hub noRecords => ⟨_, boots, ?_⟩⟩
  · rw [State.bootRun_of_none fuses revoked]
    · exact State.recover_state _
    · apply State.pickSlot_eq_none
      simpa only [State.headersRead_badSlot, State.headersRead_boot, State.copyAt] using noCopy
  · have chosenThere : s.headersRead.chooses s.headersRead.badSlot slot c := by
      rw [State.headersRead_badSlot]; exact (State.chooses_congr s.headersRead_boot).2 chosen
    obtain ⟨hslot, copy, -⟩ := chosen
    rw [State.bootRun_of_some fuses revoked (State.pickSlot_of_chooses chosenThere) copy]
    exact State.bootWith_state ok cool hub hslot noRecords

end Sys2Proof.Machine
end
